-- ==== Sys2Proof/Word.lean ====
section
/-! DEFINITION. The words of the LX-960: bytes, byte strings, sparse memories and binary32 words. -/

namespace Sys2Proof

/-- A byte. -/
abbrev Byte := BitVec 8

/-- A byte string; byte 0 comes first (R9). -/
abbrev Bytes := List (BitVec 8)

/-- A binary32 value as its code (R241). -/
abbrev F32 := BitVec 32

/-- A sparse memory: cells in strictly rising address order, none holding the default byte of its memory. -/
abbrev Memory := List Host.Cell

/-- One accumulator, packet or bucket line: 64 binary32 values (R220, R426). -/
abbrev Line := List F32

/-- Sparse numeric counters: key ((class × 7 + slot) × 5 + counter) and value (R269). -/
abbrev NumCounts := List (Nat × Nat)

end Sys2Proof
end

