-- ==== Sys2Proof/Syntax.lean ====
section
/-! DEFINITION. The commands of the LX-960 and the data they carry. -/

namespace Sys2Proof

/-- What R76 can observe of the surroundings. -/
inductive Surroundings where
  | input | refclk | junction
  deriving DecidableEq, Repr

/-- PMBus reads of R53 and R54: the telemetry and STATUS commands of PMBus 1.4, and every other read command by its code. -/
inductive PmbusRead where
  | vin | vout | iout | pout | temperature1
  | statusByte | statusWord | statusVout | statusIout | statusInput | statusTemperature | statusCml | statusOther
  | statusMfrSpecific | statusFans12
  | other (code : BitVec 8)
  deriving DecidableEq, Repr

/-- A register window: the management window or a function's BAR0 (R542), its BAR2 (R106), or its configuration space (R108). -/
inductive Window where
  | mgmt
  | func (link : Fin 4) (fn : Fin 8)
  | bar2 (link : Fin 4) (fn : Fin 8)
  | config (link : Fin 4) (fn : Fin 8)
  deriving DecidableEq, Repr, Inhabited

/-- The spaces of a function: its BAR0, its BAR2 and its configuration space (R106, R108). -/
inductive FnSpace where
  | bar0 | bar2 | config
  deriving DecidableEq, Repr

/-- An offset in one of a function's spaces. -/
structure FnOffset where
  space : FnSpace
  offset : Nat
  deriving DecidableEq, Repr

/-- How a read of host memory completed, with its bytes (R120, R124). -/
inductive HostRead where
  | ok (bytes : Bytes)
  | unsupported | aborted | poisoned | timeout
  deriving DecidableEq, Repr

/-- LCI format R of R186. -/
structure FmtR where
  guard : BitVec 4
  rd : BitVec 5
  ra : BitVec 5
  rb : BitVec 5
  fn : BitVec 7
  deriving DecidableEq, Repr

/-- A word of format R with its major opcode (R186, R189). -/
structure FmtAlu extends FmtR where
  op : BitVec 6
  deriving DecidableEq, Repr

/-- LCI format I of R186. -/
structure FmtI where
  guard : BitVec 4
  rd : BitVec 5
  ra : BitVec 5
  imm : BitVec 12
  deriving DecidableEq, Repr

/-- LCI format L of R186. -/
structure FmtL where
  guard : BitVec 4
  rd : BitVec 5
  ra : BitVec 5
  sz : BitVec 3
  imm : BitVec 9
  deriving DecidableEq, Repr

/-- LCI format W of R186; `zero` is bit [21]. -/
structure FmtW where
  guard : BitVec 4
  zero : BitVec 1
  rd : BitVec 5
  imm : BitVec 16
  deriving DecidableEq, Repr

/-- LCI format B of R186. -/
structure FmtB where
  guard : BitVec 4
  off : BitVec 22
  deriving DecidableEq, Repr

/-- LCI format C of R186; `low` is bits [11:0]. -/
structure FmtC where
  guard : BitVec 4
  pd : BitVec 3
  comb : BitVec 2
  ra : BitVec 5
  low : BitVec 12
  deriving DecidableEq, Repr

/-- LCI format P of R186; `zero` is bits [9:0]. -/
structure FmtP where
  guard : BitVec 4
  pd : BitVec 3
  pa : BitVec 3
  pb : BitVec 3
  pfn : BitVec 3
  zero : BitVec 10
  deriving DecidableEq, Repr

/-- LCI format Q of R186; `units` is units - 1, `zero` bits [6:0]. -/
structure FmtQ where
  guard : BitVec 4
  queue : BitVec 3
  units : BitVec 2
  ra : BitVec 5
  rd : BitVec 5
  zero : BitVec 7
  deriving DecidableEq, Repr

/-- LCI format T of R186 without TOP, which the constructor names. -/
structure FmtT where
  guard : BitVec 4
  tally : BitVec 6
  reg : BitVec 5
  count : BitVec 8
  deriving DecidableEq, Repr

/-- A word of format T with its TOP (R186, R200). -/
structure FmtWait extends FmtT where
  top : BitVec 3
  deriving DecidableEq, Repr

/-- LCI format X of R186; `zero` is bits [18:17]. For TASK the constructor names the sub-operation too, and `sub`
stands for it (0 TEND, 1 PVAL, 2 TRAP). -/
structure FmtX where
  guard : BitVec 4
  sub : BitVec 3
  zero : BitVec 2
  ra : BitVec 5
  low : BitVec 12
  deriving DecidableEq, Repr

/-- Wide accesses that the issue-slot timing put in one slot (R313, R316, R318): two of them, and a third if the slot has one:
requester codes, window offsets and whether each is a read. -/
structure Clash where
  hiCode : BitVec 4
  loCode : BitVec 4
  hiOffset : Nat
  loOffset : Nat
  hiRead : Bool
  loRead : Bool
  third : Option (BitVec 4 × Nat × Bool) := none
  deriving DecidableEq, Repr

/-- A requester at a memory group (R358, R359): a core or an edge agent by number. -/
inductive Requester where
  | core (n : Nat)
  | agent (n : Nat)
  deriving DecidableEq, Repr

/-- An error of a DRAM burst since it was last read: one bit, more bits, or a Reserved metadata bit that reads 1 (R344, R345). -/
inductive BurstError where
  | single | multiple | reserved
  deriving DecidableEq, Repr

/-- Access kinds of R371. -/
inductive AccessKind where
  | fetch | ldv | drift | out | attention | spill | table
  deriving DecidableEq, Repr

/-- A flit of R414. `bad` says that FEC could not correct a codeword of it. -/
structure Flit where
  vc : BitVec 2 := 0
  typ : BitVec 2 := 0
  first : Bool := false
  last : Bool := false
  nak : Bool := false
  len : BitVec 8 := 0
  hopSeq : BitVec 16 := 0
  ackSeq : BitVec 16 := 0
  creditVc : BitVec 2 := 0
  credit : BitVec 6 := 0
  poison : BitVec 8 := 0
  src : BitVec 12 := 0
  dst : BitVec 12 := 0
  e2eSeq : BitVec 32 := 0
  payload : Bytes := []
  tag : Bytes := []
  bad : Bool := false
  deriving DecidableEq, Repr, Inhabited

/-- A packet of R416 with its payload lines or bytes. `poison` lists 32-byte sectors of the data that are poisoned. -/
structure Packet where
  port : Nat := 0
  src : BitVec 12 := 0
  dst : BitVec 12 := 0
  vc : BitVec 2 := 0
  msg : BitVec 8 := 0
  status : BitVec 8 := 0
  part : BitVec 8 := 0
  sig : Bool := false
  key : BitVec 32 := 0
  tag : BitVec 32 := 0
  bucket : BitVec 16 := 0
  rank : BitVec 16 := 0
  tile : BitVec 32 := 0
  offset : BitVec 16 := 0
  sigJob : BitVec 32 := 0
  sigTask : BitVec 16 := 0
  sigTally : BitVec 8 := 0
  sigCount : BitVec 8 := 0
  addr : BitVec 64 := 0
  lines : List Line := []
  data : Bytes := []
  poison : List Nat := []
  deriving DecidableEq, Repr, Inhabited

/-- What the check of a Tipple addition found (R470). -/
inductive TippleCheck where
  | clean | transient | permanent
  deriving DecidableEq, Repr

/-- Kinds of hardware error of R474. -/
inductive HwKind where
  | residue (products : List ((Int × Nat) × (Int × Nat))) (result : Int × Nat)
  | rounder | sram | mesh
  deriving DecidableEq, Repr

/-- The SEC-DED arrays of a core; staging lies in the scratchpad (R320, R445, R449). -/
inductive SramArray where
  | scratchpad | accumulators | queue | icache
  deriving DecidableEq, Repr

/-- An error that a word of a core's array has taken: a scratchpad word, an accumulator line, a queue (modulo 8) and the place in it
(divided by 8), or a line of the instruction cache; `multiple` when it cannot be corrected (R449, R450). -/
structure SramUpset where
  array : SramArray
  place : Nat
  multiple : Bool
  deriving DecidableEq, Repr

/-- What an access to a memory group asks for, and the burst errors that the line it hits has taken since (R351, R372). -/
structure MemOp where
  write : Bool
  lineErrors : List (Fin 8) := []
  deriving DecidableEq, Repr

/-- A bank's turn, with the errors that the bursts it reads have taken since (R345, R360). -/
structure BankTurn where
  bank : Fin 16
  errors : List (Fin 8 × BurstError) := []
  deriving DecidableEq, Repr

/-- A channel's turn of the patrol scrub, with the errors that the bursts it reads have taken since (R345, R375). -/
structure ScrubTurn where
  channel : Fin 64
  errors : List (Fin 8 × BurstError) := []
  deriving DecidableEq, Repr

/-- A core's turn of the scrub, with the errors that its arrays have taken since (R449, R452). -/
structure CoreScrub where
  core : Nat
  upsets : List SramUpset := []
  deriving DecidableEq, Repr

/-- Why a router is failed (R467, R474). -/
inductive RouterCause where
  | retries | parity | credit
  deriving DecidableEq, Repr

/-- The commands of the LX-960: one constructor per row of spec/opcode_table.json. -/
inductive Instr where
  /-- INPUT_LOSS (R55). The input falls to 38.0 V or below and the module runs the input-loss sequence to its end, including rail switch-off, bypass closure and the pit log flush. -/
  | inputLoss (millivolts : Nat)
  /-- HOUSEKEEPING_STOP (R56). After an input loss the input falls below 24 V, housekeeping stops, and the next input above 39.0 V is a fresh power-up. -/
  | housekeepingStop (millivolts : Nat)
  /-- STANDBY_RETURN (R56). PWR_EN has been deasserted for 10 ms after an input loss with the input still at or above 24 V, and the module returns to standby if the input is above 39.0 V. -/
  | standbyReturn (millivolts : Nat)
  /-- POWER_UP (R78). PWR_EN is asserted in standby: the straps are sampled, the power-cycle count is incremented and written, and the rails ramp in order. -/
  | powerUp (strap : BitVec 2)
  /-- RAILS_IN_REGULATION (R63). Every rail reaches regulation, PGOOD is released and boot begins. -/
  | railsInRegulation
  /-- POWER_UP_FAILURE (R79). A rail is still not in regulation 25 ms after PWR_EN: every rail is switched off in reverse order, FAULT_N is asserted, a record is logged, and the module holds off on VDD_HK. -/
  | powerUpFailure (rail : Fin 8) (statusWord : BitVec 16)
  /-- POWER_DOWN (R80). PWR_EN is deasserted while powered: clocks stop, rails are switched off, bypasses close, the pit log is flushed and the module returns to standby. -/
  | powerDown
  /-- MODULE_RESET (R99). MOD_RESET_N is asserted for at least 1 ms: CL clocks stop, PCIe is held idle, bypasses close, and state is cleared as the reset table states. -/
  | moduleReset
  /-- MODULE_RESET_RELEASE (R99). MOD_RESET_N is released and boot runs again from B0. -/
  | moduleResetRelease
  /-- THERMAL_WARNING (R66). A junction sensor reads 105 °C or above, which sets the thermal-warning event and asserts ALERT_N unless masked. -/
  | thermalWarning (reading : Int)
  /-- THERMAL_TRIP (R67). A junction reaches 115 °C: THERMTRIP_N and FAULT_N are asserted, PGOOD is deasserted, rails are switched off, bypasses close and the pit log is flushed. -/
  | thermalTrip (reading : Int)
  /-- THERMTRIP_RELEASE (R67). PWR_EN has been deasserted for 10 ms and the hottest sensor reads below 100 °C, and the THERMTRIP_N latch is released. -/
  | thermtripRelease (reading : Int)
  /-- RAIL_FAULT (R64). A regulator reports an output fault in STATUS_WORD and FAULT_N is asserted. -/
  | railFault (rail : Fin 8) (statusWord : BitVec 16)
  /-- SURROUNDINGS_VIOLATION (R76). An observed input, REFCLK100± or junction reading is out of range and is recorded in the pit log and as a management event. -/
  | surroundingsViolation (kind : Surroundings) (reading : BitVec 32)
  /-- HOURS_STEP (R92). Another 0.1 h of operating hours has elapsed and a 16-byte hours entry is appended to flash, switching sectors when one is full. -/
  | hoursStep
  /-- PMBUS_READ (R53). The carrier board reads a regulator telemetry or status command over PMBus. -/
  | pmbusRead (rail : Fin 8) (cmd : PmbusRead)
  /-- CLEAR_FAULTS (R54). The carrier board sends CLEAR_FAULTS to a regulator. -/
  | clearFaults (rail : Fin 8)
  /-- PMBUS_WRITE_IGNORED (R54). The carrier board writes any other PMBus command; the regulator ignores it and sets the CML bit. -/
  | pmbusWriteIgnored (rail : Fin 8) (code : BitVec 8)
  /-- ALERT_RESPONSE (R65). The carrier board reads the Alert Response Address, and the lowest alerting address answers. -/
  | alertResponse
  /-- PLL_LOCK (R82). Boot stage B0 completes: PLLs lock to REFCLK100±, non-CL domains start and the timebase starts. -/
  | pllLock
  /-- REFCLK_TIMEOUT (R82). B0 has waited 100 ms for REFCLK100± and the module enters recovery. -/
  | refclkTimeout
  /-- ROM_IDENTITY (R476). Boot stage B1 completes: the ROM checks itself, clears SEC SRAM, derives the identity key pair and checks the endorsement. -/
  | romIdentity (puf : List (BitVec 8))
  /-- IMAGE_VERIFY (R87). Boot stage B2 completes the loading and verification of one firmware image, accepting or rejecting it. -/
  | imageVerify
  /-- RECORD_VERIFY (R89). Boot stage B3 completes: the configuration record, harvest map, fence record and retirement list are verified and the enabled cores are set. -/
  | recordVerify
  /-- CORE_SELF_TEST (R91). Boot stage B4 completes: arrays are cleared, CL clocks are started and failing cores are fenced. -/
  | coreSelfTest (failed : List Nat)
  /-- DRAM_TRAINING (R93). Boot stage B5 completes the training of the LPDDR6 channels, or a channel fails three times and the module enters recovery. -/
  | dramTraining (failedChannel : Option (Fin 64))
  /-- DRAM_ZEROING (R82). Boot stage B6 completes writing zeros with valid metadata to all of DRAM. -/
  | dramZeroing (ok : Bool)
  /-- BOOT_OPEN (R82). Boot stage B7 opens configuration space and BARs, starts link training and enters the running state. -/
  | bootOpen
  /-- HOST_LINK_RESET (R98). PERSTk# is asserted, and the link's functions, rings and jobs are reset without completion entries. -/
  | hostLinkReset (link : Fin 4)
  /-- HOST_LINK_RELEASE (R95). PERSTk# is deasserted and the link enters Detect within 20 ms of the later of that release and the end of B0. -/
  | hostLinkRelease (link : Fin 4)
  /-- CONFIG_REQUEST_RETRY (R95). Before B7 ends, a configuration request completes with Request Retry Status and any other request with Unsupported Request. -/
  | configRequestRetry (link : Fin 4) (isConfig : Bool)
  /-- FUNCTION_LEVEL_RESET (R98). An FLR on one function resets its registers, clears its rings and discards its jobs without completion entries. -/
  | functionLevelReset (link : Fin 4) (fn : Fin 8)
  /-- D3HOT_ENTRY (R110). A function holding a live job is placed in D3hot, which is handled as a function-level reset. -/
  | d3hotEntry (link : Fin 4) (fn : Fin 8)
  /-- DATA_LINK_DOWN (R110). A Data Link Down not caused by PERSTk# is handled as a host link reset. -/
  | dataLinkDown (link : Fin 4)
  /-- BAR_READ_INVALID (R107). A BAR read of a size or alignment other than 4 or 8 bytes completes as Unsupported Request. A read of
  an allowed size and alignment returns the register's value. -/
  | barReadInvalid (link : Fin 4) (fn : Fin 8) (offset : FnOffset) (size : Nat)
  /-- REGISTER_WRITE (R543). A write to a register without a row of its own stores, sets or clears per access code, or is ignored and counted where no register or write right exists. -/
  | registerWrite (win : Window) (offset size : Nat) (value : BitVec 64)
  /-- BEAT_COUNT (R508). A CADENCE_IN rising edge at least 200 ticks after the last counted beat is counted as a beat, ending holdover or loss and applying any pending beat adoption. -/
  | beatCount
  /-- GLITCH_REJECT (R508). An edge less than 200 ticks after the last counted beat is not counted and is added to the glitch count. -/
  | glitchReject
  /-- CADENCE_LOST (R511). The edge timer reaches the loss threshold with no edge, and the LX-960 writes the event and a pit log record and enters holdover or stopped. -/
  | cadenceLost
  /-- SYNTHESISED_BEAT (R512). In holdover the edge timer reaches P and a synthesised beat is counted. -/
  | synthesisedBeat
  /-- DOORBELL_READ_COMPLETE (R117). A doorbell page read completes, updating the ring indices, polling state, completion reservations and event-ring space, or counting a failure. -/
  | doorbellReadComplete (link : Fin 4) (read : HostRead)
  /-- DOORBELL_FALLBACK_POLL (R514). While the cadence is stopped, every enabled doorbell page is read once every 2^20 ticks. -/
  | doorbellFallbackPoll (link : Fin 4)
  /-- SUBMISSION_FETCH_COMPLETE (R121). Fetched submission entries arrive and are consumed in ring order, subject to completion reservation and the live-job limits. -/
  | submissionFetchComplete (link : Fin 4) (fn : Fin 8) (read : HostRead)
  /-- NOP (R123). A NOP submission entry is consumed with no completion entry. -/
  | nop (link : Fin 4) (fn : Fin 8)
  /-- SUBMIT_JOB (R124). A SUBMIT_JOB entry is consumed, a completion entry is reserved, and the descriptor fetch starts or the job ends at once with a fault. -/
  | submitJob (link : Fin 4) (fn : Fin 8)
  /-- ABORT_JOB (R127). An ABORT_JOB entry is ordered against its target job, which is aborted if before its commit point, and an acknowledgement is produced. -/
  | abortJob (link : Fin 4) (fn : Fin 8)
  /-- ENTRY_INVALID (R123). A reserved opcode entry is consumed with no completion entry, and an ENTRY_INVALID event is written. -/
  | entryInvalid (link : Fin 4) (fn : Fin 8)
  /-- DESCRIPTOR_READ_COMPLETE (R146). The graph descriptor arrives, is opened if sealed, and is validated in order, and the job is refused, made waiting, or entered into the scoreboard. -/
  | descriptorReadComplete (job : Nat) (read : HostRead)
  /-- JOB_ENTER_SCOREBOARD (R163). A waiting job fits once earlier jobs end, enters the scoreboard, and consumption of its ring resumes. -/
  | jobEnterScoreboard (job : Nat)
  /-- TASK_PLACE (R165). A core becomes free and the Winder places the eligible READY task of the partition with the lowest service count, displacing finished speculative tasks where R173 allows. -/
  | taskPlace (core : Nat)
  /-- CLUSTER_RESTART (R35). A stopped cluster's clock restart completes, and the waiting message or task proceeds. -/
  | clusterRestart (cluster : Fin 16)
  /-- CORE_CLEAR_COMPLETE (R320). Core clearing of the working region, staging and accumulators ends and the task begins at PROGRAM. -/
  | coreClearComplete (core : Nat)
  /-- COMMIT_REQUEST (R154). The Winder handles a commit request, granting it and applying held resident changes and predicate values, or refusing it for an ended job. -/
  | commitRequest (core : Nat)
  /-- DELIVERY_WRITES_ACKED (R154). Every DRAM write and remote accumulate of a commit is acknowledged, and the tally signals and predicate value are delivered. -/
  | deliveryWritesAcked (core : Nat)
  /-- DELIVERY_COMPLETE (R154). The cluster scheduler reports delivery complete: successor edges are satisfied, the epoch closes, and the core and staging are released. -/
  | deliveryComplete (core : Nat)
  /-- TALLY_SIGNAL_DELIVERY (R153). A committed tally signal reaches its destination and is recorded, applied, or dropped with SIGNAL_DROPPED. -/
  | tallySignalDelivery (index : Nat)
  /-- RUN_LIMIT_EXPIRY (R173). A run exceeds its partition's run-time limit, is discarded, and the job ends with FAULT_POLICY. -/
  | runLimitExpiry (core : Nat)
  /-- SHARE_CHARGE (R169). Every 1,024 held ticks, and at release, the partition's service count and carry are charged. -/
  | shareCharge (core : Nat)
  /-- XLAT_RETRY_EXPIRY (R370). RETRY_BEATS beats after a NOT_PRESENT discard, the task may be placed again. -/
  | xlatRetryExpiry (job task : Nat)
  /-- MSIX_HOLDOFF_END (R135). The MSI-X hold-off ends and one message signals the entries written during it. -/
  | msixHoldoffEnd (link : Fin 4) (fn : Fin 8) (vector : Fin 2)
  /-- ALU (R190). The ALU instruction writes the FN function of ra and rb to rd. Its word's major opcode is 0x01, or a
  reserved code of R189, whose other bits the word holds as format R lays them out. -/
  | alu (core : Nat) (f : FmtAlu)
  /-- ADDI (R189). Adds a sign-extended immediate to ra. -/
  | addi (core : Nat) (f : FmtI)
  /-- ANDI (R189). ANDs ra with a zero-extended immediate. -/
  | andi (core : Nat) (f : FmtI)
  /-- ORI (R189). ORs ra with a zero-extended immediate. -/
  | ori (core : Nat) (f : FmtI)
  /-- XORI (R189). XORs ra with a zero-extended immediate. -/
  | xori (core : Nat) (f : FmtI)
  /-- SHI (R189). Shifts ra by an immediate amount as SLL, SRL or SRA. -/
  | shi (core : Nat) (f : FmtI)
  /-- MOVZ (R189). Writes a zero-extended imm16 to rd. -/
  | movz (core : Nat) (f : FmtW)
  /-- MOVN (R189). Writes the inverse of a zero-extended imm16 to rd. -/
  | movn (core : Nat) (f : FmtW)
  /-- MOVK (R189). Replaces one 16-bit field of rd with imm16. -/
  | movk (core : Nat) (k : Fin 4) (f : FmtW)
  /-- CMP (R192). Compares ra with rb and combines the result into pd. -/
  | cmp (core : Nat) (f : FmtC)
  /-- CMPI (R192). Compares ra with a sign-extended imm8 and combines the result into pd. -/
  | cmpi (core : Nat) (f : FmtC)
  /-- PLOG (R193). Writes a logical function of two predicates to pd. -/
  | plog (core : Nat) (f : FmtP)
  /-- PMOV (R196). Moves the predicate registers to or from a general register. -/
  | pmov (core : Nat) (f : FmtX)
  /-- LDN (R205). Narrow load from the core's scratchpad. -/
  | ldn (core : Nat) (f : FmtL)
  /-- STN (R205). Narrow store to the working region of the scratchpad. -/
  | stn (core : Nat) (f : FmtL)
  /-- LDV (R206). Loads from device virtual memory through translation and the caches. -/
  | ldv (core : Nat) (f : FmtL)
  /-- BR (R197). Branches by a signed instruction offset. -/
  | br (core : Nat) (f : FmtB)
  /-- BL (R197). Branches and writes the return address to g31. -/
  | bl (core : Nat) (f : FmtB)
  /-- JR (R197). Jumps to the address in ra. -/
  | jr (core : Nat) (f : FmtR)
  /-- JLR (R197). Writes the return address to rd and jumps to ra. -/
  | jlr (core : Nat) (f : FmtR)
  /-- ISSUE (R176). Copies a command of 1 to 4 units into an engine queue and returns its sequence number. -/
  | issue (core : Nat) (f : FmtQ)
  /-- QWAIT (R198). Waits until a queue's done count reaches ra. -/
  | qwait (core : Nat) (f : FmtQ)
  /-- FENCE (R198). Waits until the selected queues have finished every command issued so far. -/
  | fence (core : Nat) (f : FmtX)
  /-- CRR (R183). Reads a control register into rd. -/
  | crr (core : Nat) (f : FmtX)
  /-- WBEAT (R199). Waits until the beat number reaches ra. -/
  | wbeat (core : Nat) (f : FmtX)
  /-- WAIT_FILLED (R200). Stalls until the tally has at least count filled slots. Its TOP is 000, or a reserved code. -/
  | waitFilled (core : Nat) (f : FmtWait)
  /-- WAIT_FREE (R200). Stalls until the tally has at least count free slots. -/
  | waitFree (core : Nat) (f : FmtT)
  /-- FILL (R336). Marks the next count slots of a tally filled. -/
  | fill (core : Nat) (f : FmtT)
  /-- DRAIN (R336). Marks the next count slots of a tally drained. -/
  | drain (core : Nat) (f : FmtT)
  /-- TALLY_READ (R200). Reads a tally's fill and drain counts into rd. -/
  | tallyRead (core : Nat) (f : FmtT)
  /-- SIGNAL_REMOTE (R202). Stages a tally signal to another task of the job. -/
  | signalRemote (core : Nat) (f : FmtT)
  /-- TEND (R203). Stops fetch, and once the queues are drained and checks are clean, runs the STAGED checks and makes the task STAGED. -/
  | tend (core : Nat) (f : FmtX)
  /-- PVAL (R203). Stages the task's predicate value. -/
  | pval (core : Nat) (f : FmtX)
  /-- TRAP (R203). Raises the TRAP exception with a code. -/
  | trap (core : Nat) (f : FmtX)
  /-- DRAM_WRITE (R180). The output engine translates and checks the destination, checks staging room, and copies the data into staging. -/
  | dramWrite (core : Nat)
  /-- SEND (R428). The output engine stages a link SEND effect for a destination rank's receive window. -/
  | send (core : Nat)
  /-- ARM (R428). The output engine stages an ARM of a collective with its base beat. -/
  | arm (core : Nat)
  /-- BARRIER_ARRIVE (R430). The output engine stages a barrier arrival for a collective. -/
  | barrierArrive (core : Nat)
  /-- MX_LOAD (R227). Loads a tile image from scratchpad into a slot of the matrix array behind the ripple front. -/
  | mxLoad (core : Nat) (clash : Option Clash)
  /-- MX_STREAM (R228). Streams rows through a loaded slot, writing accumulator lines and optional scratchpad output and a status word. -/
  | mxStream (core : Nat) (clash : Option Clash)
  /-- MX_DRAIN (R233). Stages accumulator lines as one remote-accumulate effect. -/
  | mxDrain (core : Nat) (clash : Option Clash)
  /-- VX_MAP (R277). Computes an elementwise function of up to three operands. -/
  | vxMap (core : Nat) (clash : Option Clash)
  /-- VX_REDUCE (R279). Computes one reduction per row in the fixed lane and tree order. -/
  | vxReduce (core : Nat) (clash : Option Clash)
  /-- VX_NORM (R280). Applies RMS or layer normalisation per row. -/
  | vxNorm (core : Nat) (clash : Option Clash)
  /-- VX_SOFTMAX (R281). Applies softmax or log-softmax per row. -/
  | vxSoftmax (core : Nat) (clash : Option Clash)
  /-- VX_CONVERT (R282). Converts rows between formats, including block-scaled ones. -/
  | vxConvert (core : Nat) (clash : Option Clash)
  /-- VX_TRACK (R283). Performs one scale-tracker step on a record and an observation. -/
  | vxTrack (core : Nat) (clash : Option Clash)
  /-- VX_ATTN_FWD (R291). Computes fused forward attention for one head on the matrix array and vector unit. -/
  | vxAttnFwd (core : Nat) (clash : Option Clash)
  /-- VX_ATTN_BWD (R294). Computes fused backward attention with recompute for one head. -/
  | vxAttnBwd (core : Nat) (clash : Option Clash)
  /-- VX_KV_PACK (R301). Converts tokens into KV page-slot layout in a page image. -/
  | vxKvPack (core : Nat) (clash : Option Clash)
  /-- DEFINE (R390). Defines a pillar with its slots and stash, applied at the grant. -/
  | define (core : Nat)
  /-- RELEASE (R385). Releases a pillar at the grant, zeroing its allocation during delivery. -/
  | release (core : Nat)
  /-- INSTALL (R391). Copies working-region bytes into a version slot. -/
  | install (core : Nat) (clash : Option Clash)
  /-- STEP (R401). Performs the optimizer step, writing master weights, moments, the ratio record and a version slot. -/
  | optStep (core : Nat) (clash : Option Clash)
  /-- PUBLISH (R391). Makes a version LIVE at the grant. -/
  | publish (core : Nat)
  /-- RETIRE (R391). Makes a version's slot FREE at the grant. -/
  | retire (core : Nat)
  /-- STASH_PUT (R396). Stores a checkpoint in a scratchpad entry, spills it to overflow, records RECOMPUTE, or discards the run for the stash cause. -/
  | stashPut (core : Nat) (clash : Option Clash)
  /-- STASH_LOOKUP (R397). Writes where a checkpoint is, as the run sees the directory. -/
  | stashLookup (core : Nat) (clash : Option Clash)
  /-- STASH_FREE (R398). Empties a checkpoint's entry at the grant. -/
  | stashFree (core : Nat)
  /-- AT_ATTEND (R304). Walks a latent KV sequence, expands pages, computes attention and checks generations. -/
  | atAttend (core : Nat) (clash : Option Clash)
  /-- DR_STREAM (R324). Starts a Drift stream fetching DRAM bytes within the declared extent into a scratchpad ring. -/
  | drStream (core : Nat)
  /-- DR_TALLY (R335). Configures tally ring sizes, faulting if a tally already holds more filled slots than its new size. -/
  | drTally (core : Nat)
  /-- DR_MODE (R321). Leaves the scratchpad mode as it is, or switches the top two quads into the hardware-managed cache. -/
  | drMode (core : Nat)
  /-- DRIFT_READ_COMPLETE (R331). A Drift DRAM read returns and is written to scratchpad, with missing or poison marks as needed, and slots are filled. -/
  | driftReadComplete (core stream : Nat) (clash : Option Clash)
  /-- FETCH_CREDIT (R333). Every 16 ticks, the fetch regulator adds credit up to the burst ceiling. -/
  | fetchCredit (core : Nat)
  /-- CACHE_FILL_COMPLETE (R322). A hardware-managed cache fill returns and is written to its way. -/
  | cacheFillComplete (core : Nat) (va : BitVec 64)
  /-- NARROW_STEAL (R315). A narrow access that has waited 128 cycles takes the next issue slot, and wide accesses to its quad are denied. -/
  | narrowSteal (core : Nat) (quad : Fin 6)
  /-- MEMORY_ACCESS (R351). An access reaches its memory group and is served from the memory-side cache, queued at its bank, or refused with BANK_BUSY. -/
  | memoryAccess (who : Requester) (slot : Nat) (part : Option Nat) (dpa : Nat) (op : MemOp)
  /-- DRAM_BANK_SERVE (R360). A bank completes a queued access and the freed queue entry is reserved with a WAKE to the next waiting requester. -/
  | dramBankServe (channel : Fin 64) (turn : BankTurn)
  /-- MESH_WAKE (R359). A requester receives a WAKE and resends its oldest waiting access, or releases the entry. -/
  | meshWake (who : Requester) (channel : Fin 64) (bank : Fin 16)
  /-- WAKE_RESERVATION_LAPSE (R359). A reserved queue entry is unused after 1,024 mesh cycles and passes to the next wake-set bit. -/
  | wakeReservationLapse (channel : Fin 64) (bank : Fin 16)
  /-- ACCESS_RESPONSE (R356). A response or acknowledgement reaches the core, freeing its request slot. -/
  | accessResponse (core slot : Nat)
  /-- TRANSLATION_WALK (R369). A walk completes with a valid page or a NOT_PRESENT, PERMISSION, MALFORMED or RANGE outcome. -/
  | translationWalk (core : Nat) (kind : AccessKind) (va : BitVec 64)
  /-- SCRUB_READ (R375). Patrol scrub reads the next block of a channel at its pass rate, correcting and counting errors. -/
  | scrubRead (turn : ScrubTurn)
  /-- PAGE_RETIRE (R377). A controller's request causes firmware to copy the page to a spare, remap it, write the signed list and write PAGE_RETIRED. -/
  | pageRetire
  /-- LINK_LOCAL_TEST (R411). A port's internal loopback test ends, leading to OPENING, TRAIN or DOWN. -/
  | linkLocalTest (port : Fin 6) (pass : Bool)
  /-- BYPASS_OPENED (R411). The bypass drive's opening completes and the ring port enters TRAIN. -/
  | bypassOpened (port : Fin 6)
  /-- LINK_TRAIN (R411). Training, FEC lock and deskew complete, or fail, and the port enters IDENT or DOWN. -/
  | linkTrain (port : Fin 6) (ok : Bool)
  /-- HANDSHAKE (R413). A HANDSHAKE flit with node ID and identity hash arrives in IDENT, and the port proceeds or is kept DOWN on a conflict. -/
  | handshake (port : Fin 6) (node : BitVec 12) (peerPort : BitVec 8) (hash : List (BitVec 8))
  /-- LINK_SECURE_DONE (R504). Key agreement with the ring neighbour completes, or fails, and the port goes UP or DOWN. -/
  | linkSecureDone (port : Fin 6) (offer accept : List (BitVec 8)) (secret : List (BitVec 8))
  /-- LINK_LOSS (R411). An UP port loses lock, goes DOWN, writes LINK_DOWN and schedules a retry. -/
  | linkLoss (port : Fin 6)
  /-- LINK_RETRY (R411). The retry interval of a DOWN port elapses and the port starts LOCAL_TEST. -/
  | linkRetry (port : Fin 6)
  /-- FLIT_RECEIVE (R414). A flit arrives on a port and is acknowledged, NAKed, forwarded, authenticated, or dropped, returning credits. -/
  | flitReceive (port : Fin 6) (flit : Flit)
  /-- CONTRIB (R432). A contributor's lines arrive at the adding point and are accepted, held in reorder slots, or answered BUSY. -/
  | contrib (pkt : Packet) (upset : TippleCheck)
  /-- PARTIAL (R432). A chain's running sum from rank r - 1 arrives and is folded first. -/
  | partialSum (pkt : Packet) (upset : TippleCheck)
  /-- RESULT (R438). Final lines of a tile arrive, are written at RESULT_VA and forwarded along the result path. -/
  | result (pkt : Packet)
  /-- SEND_RECEIVE (R430). A SEND packet arrives, is written into the matching receive window, and its signal is recorded or held. -/
  | sendReceive (pkt : Packet)
  /-- BARRIER_ARRIVE_RECEIVE (R430). Rank 0 receives an arrival and, when every rank has arrived, sends the releases. -/
  | barrierArriveReceive (pkt : Packet)
  /-- BARRIER_RELEASE (R519). A release arrives, the kept signal is applied and the time offset is computed and recorded. -/
  | barrierRelease (pkt : Packet)
  /-- ACK (R424). An acknowledgement for a data packet TAG arrives and frees the sender's copy. -/
  | ack (pkt : Packet)
  /-- BUSY (R433). A BUSY answer arrives and the sender keeps the packet until woken. -/
  | busy (pkt : Packet)
  /-- WAKE (R433). A link WAKE arrives and the sender resends its oldest BUSY packet for the bucket. -/
  | wake (pkt : Packet)
  /-- ARM_DELIVERY (R427). A committed ARM reaches COLL, which reads the descriptor, refuses it or arms it once the link keys are in place. -/
  | armDelivery
  /-- BUCKET_OPEN (R436). COLL counts the bucket's opening beat and opens it, waking BUSY senders. -/
  | bucketOpen (key : BitVec 32) (bucket : Nat)
  /-- LATE_RANK (R437). The next term has not arrived LATE_BEATS beats after opening, or after the last such event, and the event is written. -/
  | lateRank (key : BitVec 32) (bucket tile : Nat)
  /-- BUCKET_GIVE_UP (R437). GIVE_UP_BEATS pass after opening, and the line leaves out missing terms, setting NAN and INCOMPLETE. -/
  | bucketGiveUp (key : BitVec 32) (bucket : Nat)
  /-- BUCKET_COMPLETE (R439). Every result write is acknowledged, the completion record is written and the bucket predicates resolve. -/
  | bucketComplete (key : BitVec 32) (bucket : Nat)
  /-- PERMUTE_SIGNAL_RELEASE (R430). At the instance's base beat, the held PERMUTE signals are applied. -/
  | permuteSignalRelease (key : BitVec 32)
  /-- LINK_EFFECT_DROPPED (R443). A committed link effect's route has stayed DOWN for FAIL_BEATS, the effect is dropped and the job ends with FAULT_LINK. -/
  | linkEffectDropped (core : Nat)
  /-- HW_ERROR_REPLAY (R455). A check completes with a hardware error, the run is discarded, and a replay and repeat are started. -/
  | hwErrorReplay (core : Nat) (kind : HwKind) (position : Fin 9)
  /-- REPEAT_VERDICT (R456). A repeat ends and gives a permanent, transient or unresolved verdict on its core. -/
  | repeatVerdict (core : Nat)
  /-- SHADOW_PAIR_END (R462). Both runs of a shadowed pair have ended and the Winder commits, reapplies a cause, or declares a miscompare. -/
  | shadowPairEnd (job task : Nat)
  /-- SHADOW_MISCOMPARE (R463). An arbiter run ends and its CRC picks the dissenter or forces a new pair. -/
  | shadowMiscompare (job task : Nat)
  /-- MESH_FLIT_RETRY (R467). A mesh flit fails its CRC and is requested again from the sender's retry buffer. -/
  | meshFlitRetry (row column : Fin 16)
  /-- ROUTER_FAILED (R468). A router is found failed: injection stops, lost-traffic runs are discarded, and its core is fenced. `inFlight` are the accesses
  outstanding then that the model makes within one command: the core and the DPA of each. -/
  | routerFailed (row column : Fin 16) (cause : RouterCause) (inFlight : List (Nat × Nat))
  /-- ROUTE_AROUND_RESUME (R468). Route-around tables are written, injection resumes and unacknowledged traffic is resent. -/
  | routeAroundResume (row column : Fin 16) (cause : RouterCause)
  /-- MAILBOX_GO (R482). Setting GO makes the LX-960 read and handle the request at SEC.MBOX_ADDR, then write the response and SEC_RESPONSE. -/
  | mailboxGo (link : Fin 4) (fn : Fin 8) (read : HostRead)
  /-- GET_IDENTITY (R484). Returns the endorsement record. -/
  | getIdentity
  /-- ATTEST (R479). Returns a signed attestation report for the nonce. -/
  | attest
  /-- GET_CHALLENGE (R488). Returns 32 random bytes as the current challenge. -/
  | getChallenge
  /-- OWNER_ENROL (R487). Checks and writes the owner enrolment record. -/
  | ownerEnrol
  /-- OWNER_RELEASE (R488). Resets every partition, clears the policy and erases the owner area. -/
  | ownerRelease
  /-- POLICY_SET (R490). Checks and applies a signed partition policy, resetting changed partitions and writing POLICY_APPLIED. -/
  | policySet
  /-- PARTITION_RESET (R492). An owner command resets a partition: its key is regenerated, zeroing starts and the session ends. -/
  | partitionReset
  /-- END_SESSION (R495). An owner command ends the partition's session and writes SESSION_ENDED. -/
  | endSession
  /-- PARTITION_ZEROING_DONE (R492). Zeroing of the partition's ranges completes, the alias-window tables are written and PART_STATE leaves zeroing. -/
  | partitionZeroingDone (part : Fin 8)
  /-- SESSION_HELLO (R494). Records a pending offer and returns the encapsulation and a report bound to the transcript. -/
  | sessionHello
  /-- SESSION_CONFIRM (R495). Opens the confirmation envelope and makes the pending session active, or answers OPEN_FAILED. -/
  | sessionConfirm
  /-- TENANT_PARTITION_RESET (R496). A sealed tenant command resets the partition. -/
  | tenantPartitionReset
  /-- TENANT_END_SESSION (R496). A sealed tenant command ends the session. -/
  | tenantEndSession
  /-- IMPORT (R499). Opens envelopes and writes their plaintext into partition memory through its tables. -/
  | importData (reads : List HostRead)
  /-- EXPORT (R500). Reads partition memory and writes device-to-tenant envelopes to host memory. -/
  | exportData
  /-- LINK_OFFER (R503). Produces a signed link-key offer to a node. -/
  | linkOffer
  /-- LINK_ACCEPT (R504). Checks an offer, derives and installs link keys and returns a signed accept. -/
  | linkAccept
  /-- LINK_FINISH (R504). Checks the peer's accept and installs the link keys. -/
  | linkFinish
  /-- MAILBOX_RESERVED_TYPE (R484). A reserved request type ends with STATUS MALFORMED. -/
  | mailboxReservedType
  /-- RING_ENABLE (R549). Writing 1 to a ring's enable bit checks the ring and enables it or sets CONFIG_ERROR. -/
  | ringEnable (link : Fin 4) (fn : Fin 8) (value : BitVec 64)
  /-- DOORBELL_ENABLE (R550). Writing DB_EN starts polling in the idle state, or sets CONFIG_ERROR for a misaligned address. -/
  | doorbellEnable (link : Fin 4) (fn : Fin 8) (value : BitVec 64)
  /-- FUNCTION_LOCK (R545). Writing HIF.LOCK.TAKE freezes the function's RWL fields. -/
  | functionLock (link : Fin 4) (fn : Fin 8) (value : BitVec 64)
  /-- PARTITION_LOCK (R545). Writing PART.LOCK.TAKE freezes the partition's PART and TRC RWL fields. -/
  | partitionLock (link : Fin 4) (fn : Fin 8) (value : BitVec 64)
  /-- MODULE_LOCK (R545). Writing MGT.LOCK.TAKE freezes the module blocks' RWL fields. -/
  | moduleLock (win : Window) (value : BitVec 64)
  /-- COUNTER_SAMPLE (R555). Writing PART.SAMPLE_CORE samples the core's epoch record into PART.SAMPLE_REC. -/
  | counterSample (link : Fin 4) (fn : Fin 8) (value : BitVec 64)
  /-- ADOPT_ENABLE (R521). Setting ADOPT_EN arms beat adoption from the named barrier collective. -/
  | adoptEnable (win : Window) (value : BitVec 64)
  /-- TRACE_ENABLE (R556). Setting ENABLE takes the stored base and size into effect and resets TRC.HEAD. -/
  | traceEnable (link : Fin 4) (fn : Fin 8) (value : BitVec 64)
  /-- TRACE_STOPPED (R528). A trace write fails translation, ENABLE is cleared and the event is written. -/
  | traceStopped (part : Fin 8)
  /-- TRACE_BUFFER_WRITE (R528). DBG writes buffered trace records to the region, padding at the end and writing DROPPED records. -/
  | traceBufferWrite (part : Fin 8)
  /-- FREEZE (R538). The management interface starts a pit log freeze. -/
  | freeze (win : Window)
  /-- UNFREEZE (R538). The management interface ends a freeze and buffered records are written. -/
  | unfreeze (win : Window)
  /-- PLOG_FLASH_WRITE (R537). A buffered pit log record finishes writing to its flash slot. -/
  | plogFlashWrite
  /-- PLOG_SECTOR_ERASE (R536). The next circular sector's erase completes and record writing resumes. -/
  | plogSectorErase
  /-- SET_POINTER (R566). Sets the management window pointer. -/
  | setPointer (bytes : List (BitVec 8)) (pec : Option Bool)
  /-- WRITE (R566). Writes 4 or 8 bytes at the management pointer and advances it. -/
  | mgmtWrite (bytes : List (BitVec 8)) (pec : Option Bool)
  /-- READ (R566). Returns status and 4 or 8 bytes at the management pointer and advances it. -/
  | mgmtRead (bytes : List (BitVec 8)) (pec : Option Bool)
  /-- MBOX_PUT (R566). Writes bytes into the management mailbox buffer. -/
  | mboxPut (bytes : List (BitVec 8)) (pec : Option Bool)
  /-- MBOX_GO (R566). Starts the management mailbox request as GO does. -/
  | mboxGo (bytes : List (BitVec 8)) (pec : Option Bool)
  /-- MBOX_GET (R566). Returns bytes from the management mailbox buffer. -/
  | mboxGet (bytes : List (BitVec 8)) (pec : Option Bool)
  /-- FLASH_PUT (R566). Writes bytes into the 64 KiB sector buffer. -/
  | flashPut (bytes : List (BitVec 8)) (pec : Option Bool)
  /-- FLASH_COMMIT (R568). Starts erasing and programming a permitted flash sector from the sector buffer. -/
  | flashCommit (bytes : List (BitVec 8)) (pec : Option Bool)
  /-- FLASH_COMMIT_DONE (R568). A flash commit ends, or is abandoned by a flush, and sets the status. -/
  | flashCommitDone
  /-- FLASH_READ (R566). Returns 240 bytes of flash. -/
  | flashRead (bytes : List (BitVec 8)) (pec : Option Bool)
  /-- FENCE_CLEAR (R569). Removes a fence entry and writes a new fence record copy. -/
  | fenceClear (bytes : List (BitVec 8)) (pec : Option Bool)
  /-- MGMT_RESERVED_COMMAND (R566). A reserved management command code is discarded with status 0x01. -/
  | mgmtReservedCommand (code : BitVec 8) (isCall : Bool) (pec : Option Bool)
  /-- TURN_ON_THRESHOLD_RISING (R51). Input at the power blade rises above the 39.0 V turn-on threshold, bringing up VDD_HK and putting the module in standby, or ending the off state after an input loss. -/
  | turnOnThresholdRising (millivolts : Nat)
  /-- PCIE_LINK_TRAINING (R103). A host link finishes training from Detect, entering L0 in Flit Mode at the negotiated rate and width, or staying out of L0 and setting NO_FLIT_MODE with a partner that lacks Flit Mode. -/
  | pcieLinkTraining (link : Fin 4) (partnerFlitMode : Bool) (rate width : Nat)
  /-- RESIDENT_AREA_SCRUB (R452). While a core holds no task, its half-banks read the next row of the resident area, rewrite corrected words and mark uncorrectable words poisoned with a PILLAR_POISONED event. -/
  | residentAreaScrub (turn : CoreScrub)
  /-- PER_BANK_REFRESH (R343). A bank's refresh interval runs out, or a package requests RFM, and the controller issues the refresh or RFM command once the access being served ends, ahead of queued accesses. -/
  | perBankRefresh (channel : Fin 64) (bank : Fin 16) (rfm : Bool)
  /-- SOURCE_CADENCE_EDGE (R515). In source mode the SRC_PERIOD timer runs out and CADENCE_OUT drives the next edge of the module's own cadence. -/
  | sourceCadenceEdge
  deriving DecidableEq, Repr

end Sys2Proof
end

