-- ==== Sys2Proof/Decode.lean ====
section
/-! DEFINITION. The command that a word spells: none by the opcode table, whose rows give no bits; and the control instruction that a
32-bit word of a core's program is (R186, R189, R200, R203). -/

namespace Sys2Proof

/-- The command that the low `nbits` bits of `w` spell. The table's rows name commands and give them no bits. -/
def decodeTableWord (_nbits _w : Nat) : Option Instr := none

/-- Bits of an instruction word, `n` of them from bit `lo` (R186). -/
def wordBits (w : BitVec 32) (lo n : Nat) : BitVec n := w.extractLsb' lo n

/-- Format R (R186). -/
def fmtR (w : BitVec 32) : FmtR :=
  { guard := wordBits w 28 4, rd := wordBits w 17 5, ra := wordBits w 12 5, rb := wordBits w 7 5, fn := wordBits w 0 7 }
/-- Format I (R186). -/
def fmtI (w : BitVec 32) : FmtI := { guard := wordBits w 28 4, rd := wordBits w 17 5, ra := wordBits w 12 5, imm := wordBits w 0 12 }
/-- Format L (R186). -/
def fmtL (w : BitVec 32) : FmtL :=
  { guard := wordBits w 28 4, rd := wordBits w 17 5, ra := wordBits w 12 5, sz := wordBits w 9 3, imm := wordBits w 0 9 }
/-- Format W (R186). -/
def fmtW (w : BitVec 32) : FmtW := { guard := wordBits w 28 4, zero := wordBits w 21 1, rd := wordBits w 16 5, imm := wordBits w 0 16 }
/-- Format B (R186). -/
def fmtB (w : BitVec 32) : FmtB := { guard := wordBits w 28 4, off := wordBits w 0 22 }
/-- Format C (R186). -/
def fmtC (w : BitVec 32) : FmtC :=
  { guard := wordBits w 28 4, pd := wordBits w 19 3, comb := wordBits w 17 2, ra := wordBits w 12 5, low := wordBits w 0 12 }
/-- Format P (R186). -/
def fmtP (w : BitVec 32) : FmtP :=
  { guard := wordBits w 28 4, pd := wordBits w 19 3, pa := wordBits w 16 3, pb := wordBits w 13 3, pfn := wordBits w 10 3,
    zero := wordBits w 0 10 }
/-- Format Q (R186). -/
def fmtQ (w : BitVec 32) : FmtQ :=
  { guard := wordBits w 28 4, queue := wordBits w 19 3, units := wordBits w 17 2, ra := wordBits w 12 5, rd := wordBits w 7 5,
    zero := wordBits w 0 7 }
/-- Format T without its TOP (R186). -/
def fmtT (w : BitVec 32) : FmtT := { guard := wordBits w 28 4, tally := wordBits w 13 6, reg := wordBits w 8 5, count := wordBits w 0 8 }
/-- Format X (R186). -/
def fmtX (w : BitVec 32) : FmtX :=
  { guard := wordBits w 28 4, sub := wordBits w 19 3, zero := wordBits w 17 2, ra := wordBits w 12 5, low := wordBits w 0 12 }

/-- A TALLY word: its TOP names the operation; the reserved codes go to the row of 000 (R200). -/
def tallyCommand (core : Nat) (w : BitVec 32) : Instr :=
  match (wordBits w 19 3).toNat with
  | 1 => .waitFree core (fmtT w) | 2 => .fill core (fmtT w) | 3 => .drain core (fmtT w) | 4 => .tallyRead core (fmtT w)
  | 5 => .signalRemote core (fmtT w) | _ => .waitFilled core { toFmtT := fmtT w, top := wordBits w 19 3 }
/-- A TASK word: its sub-operation names the instruction; the reserved codes go to the row of 000 (R203). -/
def taskCommand (core : Nat) (w : BitVec 32) : Instr :=
  match (wordBits w 19 3).toNat with
  | 1 => .pval core (fmtX w) | 2 => .trap core (fmtX w) | _ => .tend core (fmtX w)

/-- The command that a core's control processor makes of an instruction word: the major opcode picks the row, and a reserved one
goes to ALU's, which finds it illegal (R186, R189). -/
def lciCommand (core : Nat) (w : BitVec 32) : Instr :=
  match (wordBits w 22 6).toNat with
  | 0x02 => .addi core (fmtI w) | 0x03 => .andi core (fmtI w) | 0x04 => .ori core (fmtI w) | 0x05 => .xori core (fmtI w)
  | 0x06 => .shi core (fmtI w) | 0x08 => .movz core (fmtW w) | 0x09 => .movn core (fmtW w)
  | 0x0A => .movk core 0 (fmtW w) | 0x0B => .movk core 1 (fmtW w) | 0x0C => .movk core 2 (fmtW w) | 0x0D => .movk core 3 (fmtW w)
  | 0x0E => .cmp core (fmtC w) | 0x0F => .cmpi core (fmtC w) | 0x10 => .plog core (fmtP w) | 0x11 => .pmov core (fmtX w)
  | 0x12 => .ldn core (fmtL w) | 0x13 => .stn core (fmtL w) | 0x14 => .ldv core (fmtL w)
  | 0x15 => .br core (fmtB w) | 0x16 => .bl core (fmtB w)
  | 0x17 => if (fmtR w).fn = 1 then .jlr core (fmtR w) else .jr core (fmtR w)
  | 0x18 => .issue core (fmtQ w) | 0x19 => .qwait core (fmtQ w) | 0x1A => .fence core (fmtX w) | 0x1B => tallyCommand core w
  | 0x1C => .crr core (fmtX w) | 0x1D => .wbeat core (fmtX w) | 0x1E => taskCommand core w
  | _ => .alu core { toFmtR := fmtR w, op := wordBits w 22 6 }

end Sys2Proof
end

