-- ==== Sys2Proof/Config.lean ====
section
/-! DEFINITION. What the spec leaves open, as constants without a body: free values, and the algorithms that other
standards define (log 10). Nothing can be proved of a value of these. -/

namespace Sys2Proof.Config

/-- A free number, one for each count of the model's free-value counter (log 6). -/
opaque freeNat : Nat → Nat

/-- A free 64-bit word (log 6). -/
opaque freeWord : Nat → BitVec 64

/-- A free byte string of a given length class (log 6). -/
opaque freeBytes : Nat → Nat → Bytes

/-- Clock-counted amounts of a core in one tick: cycles, control cycles and busy or stalled cycles (log 11). -/
opaque freeCycles : Nat → Nat → Nat

/-- Telemetry and status bytes of a regulator, which the surroundings give: free (log 6, log 36). -/
opaque telemetry : Nat → Nat → BitVec 16

/-- How long CADENCE_IN stays high after its n-th edge, in ticks: R69 gives bounds only (log 103). -/
opaque cadenceHigh : Nat → Nat

/-- SHA3-512 of FIPS 202 (log 10). -/
opaque sha3_512 : Bytes → Bytes

/-- AES-256-XTS of a 256-byte block: key (true: a partition's key of a serial; false: the module key of a boot), tweak,
plaintext (R355, log 10). -/
opaque aesXts : Bool × Nat → Bytes → Bytes → Bytes

/-- The 10 SEC-DED check bits of a burst: its 32 data bytes and metadata bits [31:10] (R344, log 10). -/
opaque secDed : Bytes → BitVec 22 → BitVec 10

/-- ML-DSA-87 verification of FIPS 204: public key, message, context, signature (log 10). -/
opaque mldsaVerify : Bytes → Bytes → Bytes → Bytes → Bool

/-- ML-DSA-87 signature with the device identity key: message, context (log 10). -/
opaque identitySign : Bytes → Bytes → Bytes

/-- ML-DSA-87 public key of a 32-byte seed (log 10). -/
opaque mldsaPublic : Bytes → Bytes

/-- The seed that the physical unclonable function and the helper data give, if any (R476, log 10). -/
opaque pufSeed : Bytes → Bytes → Option Bytes

/-- The boot ROM's check of its own integrity (R82, log 10). -/
opaque romIntegrity : Bytes → Bool

/-- The vendor root key hash held in the boot ROM (R87). -/
opaque vendorRootHash : Bytes

/-- The boot ROM version (R479). -/
opaque romVersion : BitVec 32

/-- ML-KEM-1024 encapsulation: key, randomness; ciphertext and shared secret (FIPS 203, log 10). -/
opaque kemEncaps : Bytes → Nat → Bytes × Bytes

/-- ML-KEM-1024 key pair from randomness: encapsulation key and secret handle (log 10). -/
opaque kemKeygen : Nat → Bytes × Bytes

/-- ML-KEM-1024 decapsulation: secret handle, ciphertext (log 10). -/
opaque kemDecaps : Bytes → Bytes → Bytes

/-- AES-256-GCM opening: key, nonce, associated data, ciphertext, tag (log 10). -/
opaque gcmOpen : Bytes → Bytes → Bytes → Bytes → Bytes → Option Bytes

/-- AES-256-GCM sealing: key, nonce, associated data, plaintext; ciphertext followed by the tag (log 10). -/
opaque gcmSeal : Bytes → Bytes → Bytes → Bytes → Bytes

/-- Bytes of the SEC random generator: draw number and count (log 10). -/
opaque randomBytes : Nat → Nat → Bytes

/-- What a configuration record holds: whether its vendor signature verifies, whether it names the LX-960M-256 (R3), and its
signed message. The spec gives the record no layout (R3, R89, R479; log 10). -/
opaque configRecord : Bytes → Bool × Bool × Bytes

/-- What a configuration record holds for configuration space: Vendor and Device ID, and Subsystem IDs (R108; log 10). -/
opaque configIds : Bytes → BitVec 32 × BitVec 32

/-- The 64-byte header of a staged effect other than a remote accumulate's bytes of R431 (R149; log 12). -/
opaque effectHeader : List Nat → Bytes

/-- The correctly rounded result where the model's bounded interval arithmetic does not decide it (log 13). -/
opaque undecidedRounding : Nat → BitVec 32 → BitVec 32 → BitVec 32

end Sys2Proof.Config
end

