-- ==== Sys2Proof/Machine/Bits.lean ====
section
/-! DEFINITION. Bit fields, sign extension, byte order, alignment and checksums. -/

namespace Sys2Proof.Machine

/-- Bits [hi:lo] of a number (R8). -/
def bitsOf (x hi lo : Nat) : Nat := (x >>> lo) % 2 ^ (hi + 1 - lo)

/-- Bit [n] of a number (R8). -/
def bitOf (x n : Nat) : Bool := (x >>> n) % 2 == 1

/-- A Bool as 0 or 1. -/
def b2n (b : Bool) : Nat := if b then 1 else 0

/-- Little-endian value of a byte string (R9). -/
def leNat : Bytes → Nat
  | [] => 0
  | b :: bs => b.toNat + 256 * leNat bs

/-- `n` little-endian bytes of a number (R9). -/
def leBytes : Nat → Nat → Bytes
  | 0, _ => []
  | n + 1, x => BitVec.ofNat 8 x :: leBytes n (x / 256)

/-- Bytes [off + n - 1 : off] of a byte string, zero-filled past its end. -/
def sliceBytes (bs : Bytes) (off n : Nat) : Bytes :=
  let t := (bs.drop off).take n
  t ++ List.replicate (n - t.length) 0

/-- The little-endian field of `n` bytes at byte `off`. -/
def field (bs : Bytes) (off n : Nat) : Nat := leNat ((bs.drop off).take n)

/-- Byte `off` of a byte string as a number, zero past its end. -/
def byteAt (bs : Bytes) (off : Nat) : Nat := (bs.getD off 0).toNat

/-- Bytes [hi:lo] are all zero. -/
def zeroBytes (bs : Bytes) (lo hi : Nat) : Bool :=
  ((bs.drop lo).take (hi + 1 - lo)).all (· == 0)

/-- `x` rounded up to a multiple of `m`. -/
def roundUp (x m : Nat) : Nat := (x + m - 1) / m * m

/-- Quotient rounded up. -/
def ceilDiv (x m : Nat) : Nat := (x + m - 1) / m

/-- `x` is a multiple of `m`. -/
def multipleOf (x m : Nat) : Bool := x % m == 0

/-- `lo ≤ x ≤ hi`. -/
def inRange (x lo hi : Nat) : Bool := decide (lo ≤ x) && decide (x ≤ hi)

/-- A counter of `w` bits that holds at its maximum. -/
def satAdd (w x n : Nat) : Nat := min (x + n) (2 ^ w - 1)

/-- Two's complement reading of the low `w` bits. -/
def signedOf (w x : Nat) : Int :=
  let y := x % 2 ^ w
  if y < 2 ^ (w - 1) then (y : Int) else (y : Int) - (2 ^ w : Nat)

/-- The low `w` bits of an integer in two's complement. -/
def wrapInt (w : Nat) (x : Int) : Nat := (x % ((2 ^ w : Nat) : Int)).toNat

/-- One bit step of a reflected CRC with reversed polynomial `poly`. -/
def crcBit (poly c : Nat) : Nat := if c % 2 == 1 then (c / 2) ^^^ poly else c / 2

/-- One byte of a reflected CRC. -/
def crcByte (poly c : Nat) (b : Byte) : Nat :=
  (List.range 8).foldl (fun c _ => crcBit poly c) (c ^^^ b.toNat)

/-- CRC-32 of IEEE 802.3 (R85, R92). -/
def crc32 (bs : Bytes) : Nat := (bs.foldl (crcByte 0xEDB88320) 0xFFFFFFFF) ^^^ 0xFFFFFFFF

/-- CRC-64 of R461: the reflection of the ECMA-182 polynomial 0x42F0_E1EB_A9EA_3693. -/
def crc64 (bs : Bytes) : Nat :=
  (bs.foldl (crcByte 0xC96C5795D7870F42) 0xFFFFFFFFFFFFFFFF) ^^^ 0xFFFFFFFFFFFFFFFF

/-- One byte of SMBus's PEC: CRC-8 with polynomial x^8 + x^2 + x + 1, most significant bit first (R60). -/
def pecByte (c : Nat) (b : Byte) : Nat :=
  (List.range 8).foldl (fun c _ => if 128 ≤ c then (2 * c) % 256 ^^^ 7 else 2 * c) (c ^^^ b.toNat)

/-- SMBus's PEC over the bytes of a message, addresses included (R60). -/
def pec (bs : Bytes) : Byte := BitVec.ofNat 8 (bs.foldl pecByte 0)

/-- Element `i` of a list, or a default. -/
def nth {α : Type} (d : α) (l : List α) (i : Nat) : α := l.getD i d

/-- A list with element `i` changed by `f`; unchanged when there is none. -/
def modAt {α : Type} (l : List α) (i : Nat) (f : α → α) : List α := l.modify i f

/-- Insertion of a value into a sorted list without repeats. -/
def insertSorted (x : Nat) : List Nat → List Nat
  | [] => [x]
  | y :: ys => if x < y then x :: y :: ys else if x = y then y :: ys else y :: insertSorted x ys

/-- Positions 0 to `n - 1` at which `p` holds. -/
def indicesWhere (n : Nat) (p : Nat → Bool) : List Nat := (List.range n).filter p

/-- The values of an association list for a key, with a default. -/
def lookupD {β : Type} (d : β) (k : Nat) : List (Nat × β) → β
  | [] => d
  | (a, v) :: t => if a = k then v else lookupD d k t

/-- An association list kept sorted by key, with the value of `k` set. -/
def setKey {β : Type} (k : Nat) (v : β) : List (Nat × β) → List (Nat × β)
  | [] => [(k, v)]
  | (a, w) :: t =>
    if k < a then (k, v) :: (a, w) :: t else if k = a then (k, v) :: t else (a, w) :: setKey k v t

end Sys2Proof.Machine
end

