-- ==== Sys2Proof/Machine/Float.lean ====
section
/-! DEFINITION. Number formats, exact values, rounding, conversion and block scales (chapter 08). -/

namespace Sys2Proof.Machine

/-- An exact value: NaN, an infinity, or (-1)^neg × m × 2^e. -/
inductive Val where
  | nan
  | inf (neg : Bool)
  | fin (neg : Bool) (m : Nat) (e : Int)
  deriving DecidableEq, Repr, Inhabited

/-- What one rounding or conversion reports (R253, R254). -/
structure RFlags where
  sat : Bool := false
  flush : Bool := false
  nan : Bool := false
  inf : Bool := false
  deriving DecidableEq, Repr, Inhabited

/-- Flags of several roundings together. -/
def RFlags.or (a b : RFlags) : RFlags :=
  { sat := a.sat || b.sat, flush := a.flush || b.flush, nan := a.nan || b.nan, inf := a.inf || b.inf }

/-- Number of significant bits. -/
def bitLen (m : Nat) : Nat := if m = 0 then 0 else m.log2 + 1

/-- A floating format: fraction bits, exponent of the least subnormal, largest finite code, sign bit position,
NaN code and whether it has infinities (R241 to R244). -/
structure Fmt where
  frac : Nat
  emin : Int
  maxCode : Nat
  signBit : Nat
  nanCode : Nat
  infCode : Option Nat
  deriving DecidableEq, Repr

/-- binary32 (R241). -/
def Fmt.f32 : Fmt := { frac := 23, emin := -149, maxCode := 0x7F7FFFFF, signBit := 31, nanCode := 0x7FC00000, infCode := some 0x7F800000 }
/-- bf16 (R241). -/
def Fmt.bf16 : Fmt := { frac := 7, emin := -133, maxCode := 0x7F7F, signBit := 15, nanCode := 0x7FC0, infCode := some 0x7F80 }
/-- e4m3 (R242). -/
def Fmt.e4m3 : Fmt := { frac := 3, emin := -9, maxCode := 0x7E, signBit := 7, nanCode := 0x7F, infCode := none }
/-- e5m2 (R243). -/
def Fmt.e5m2 : Fmt := { frac := 2, emin := -16, maxCode := 0x7B, signBit := 7, nanCode := 0x7E, infCode := some 0x7C }
/-- e2m1 (R244); it has no NaN code, R255 never converts one. -/
def Fmt.e2m1 : Fmt := { frac := 1, emin := -1, maxCode := 0x7, signBit := 3, nanCode := 0, infCode := none }

/-- The value of a code of a floating format (R241 to R244, R249, R250). -/
def Fmt.val (f : Fmt) (code : Nat) : Val :=
  let neg := bitOf code f.signBit
  let mag := code % 2 ^ f.signBit
  if f.infCode = some mag then .inf neg
  else if mag > f.maxCode then .nan
  else
    let ex := mag >>> f.frac
    let fr := mag % 2 ^ f.frac
    if ex = 0 then .fin neg fr f.emin else .fin neg (fr + 2 ^ f.frac) (f.emin + ((ex : Int) - 1))

/-- `m × 2^e` rounded to nearest even with `p` significant bits and least exponent `emin`, unbounded above (R248):
the significand and its exponent. -/
def roundMag (p : Nat) (emin : Int) (m : Nat) (e : Int) : Nat × Int :=
  let q := max (e + (bitLen m : Int) - (p : Int)) emin
  if q ≤ e then (m <<< (e - q).toNat, q)
  else
    let s := (q - e).toNat
    let r := m >>> s
    let rem := m % 2 ^ s
    let half := 2 ^ (s - 1)
    let up := decide (half < rem) || (decide (rem = half) && r % 2 == 1)
    (if up then r + 1 else r, q)

/-- Round an exact value into a floating format, saturating (R248, R250 to R253). -/
def Fmt.round (f : Fmt) (v : Val) : Nat × RFlags :=
  match v with
  | .nan => (f.nanCode, { nan := true })
  | .inf neg =>
    (match f.infCode with
      | some c => c + (if neg then 2 ^ f.signBit else 0)
      | none => f.nanCode, { inf := true })
  | .fin neg m e =>
    let sgn := if neg then 2 ^ f.signBit else 0
    if m = 0 then (sgn, {})
    else
      let (r, q) := roundMag (f.frac + 1) f.emin m e
      let code := ((q - f.emin).toNat <<< f.frac) + r
      if code > f.maxCode then (f.maxCode + sgn, { sat := true })
      else (code + sgn, { flush := r == 0 })

/-- Round into binary32. -/
def round32 (v : Val) : F32 × RFlags :=
  let (c, fl) := Fmt.f32.round v
  (BitVec.ofNat 32 c, fl)

/-- The value of a binary32 code. -/
def fval (x : F32) : Val := Fmt.f32.val x.toNat

/-- Negation of a value. -/
def Val.neg : Val → Val
  | .nan => .nan
  | .inf n => .inf (!n)
  | .fin n m e => .fin (!n) m e

/-- The sign of a value. -/
def Val.isNeg : Val → Bool
  | .nan => false
  | .inf n => n
  | .fin n _ _ => n

/-- The value is a zero. -/
def Val.isZero : Val → Bool
  | .fin _ m _ => m == 0
  | _ => false

/-- The value is a NaN. -/
def Val.isNan : Val → Bool
  | .nan => true
  | _ => false

/-- The value is an infinity. -/
def Val.isInf : Val → Bool
  | .inf _ => true
  | _ => false

/-- The value without its sign. -/
def Val.abs : Val → Val
  | .nan => .nan
  | .inf _ => .inf false
  | .fin _ m e => .fin false m e

/-- Multiply by 2^k exactly. -/
def Val.scale (k : Int) : Val → Val
  | .fin n m e => .fin n m (e + k)
  | v => v

/-- Signed significand of a finite value at exponent `e0`, which is not above its own. -/
def signedAt (neg : Bool) (m : Nat) (e e0 : Int) : Int :=
  let x : Int := ((m <<< (e - e0).toNat : Nat) : Int)
  if neg then -x else x

/-- Exact product with the zero and infinity rules of R251 and R252. -/
def Val.mul : Val → Val → Val
  | .nan, _ => .nan
  | _, .nan => .nan
  | .inf a, .inf b => .inf (a ^^ b)
  | .inf a, .fin b m _ => if m = 0 then .nan else .inf (a ^^ b)
  | .fin a m _, .inf b => if m = 0 then .nan else .inf (a ^^ b)
  | .fin a m e, .fin b n f => .fin (a ^^ b) (m * n) (e + f)

/-- Exact sum of two values with the rules of R251 and R252. -/
def Val.add : Val → Val → Val
  | .nan, _ => .nan
  | _, .nan => .nan
  | .inf a, .inf b => if a = b then .inf a else .nan
  | .inf a, .fin .. => .inf a
  | .fin .., .inf b => .inf b
  | .fin a m e, .fin b n f =>
    if m = 0 then (if n = 0 then .fin (a && b) 0 0 else .fin b n f)
    else if n = 0 then .fin a m e
    else
      let e0 := min e f
      let s := signedAt a m e e0 + signedAt b n f e0
      .fin (decide (s < 0)) s.natAbs e0

/-- Exact sum of a list of terms (R218, R252, R258). -/
def Val.sum : List Val → Val
  | [] => .fin false 0 0
  | v :: vs => vs.foldl Val.add v

/-- Digits of an integer square root from bit `i - 1` down, starting at `r`. -/
def isqrtGo (n : Nat) : Nat → Nat → Nat
  | 0, r => r
  | i + 1, r => isqrtGo n i (if (r + 2 ^ i) * (r + 2 ^ i) ≤ n then r + 2 ^ i else r)

/-- Integer square root. -/
def isqrt (n : Nat) : Nat := isqrtGo n (bitLen n / 2 + 1) 0

/-- Quotient, correct up to a sticky low bit that keeps any later rounding exact (R251, R263). -/
def Val.div : Val → Val → Val
  | .nan, _ => .nan
  | _, .nan => .nan
  | .inf _, .inf _ => .nan
  | .inf a, .fin b _ _ => .inf (a ^^ b)
  | .fin a _ _, .inf b => .fin (a ^^ b) 0 0
  | .fin a m e, .fin b n f =>
    if n = 0 then (if m = 0 then .nan else .inf (a ^^ b))
    else if m = 0 then .fin (a ^^ b) 0 0
    else
      let k := 64 + bitLen n
      let q := (m <<< k) / n
      let st := if (m <<< k) % n = 0 then 0 else 1
      .fin (a ^^ b) (2 * q + st) (e - f - (k : Int) - 1)

/-- Square root with a sticky low bit (R251, R252). -/
def Val.sqrt : Val → Val
  | .nan => .nan
  | .inf a => if a then .nan else .inf false
  | .fin a m e =>
    if m = 0 then .fin a 0 0
    else if a then .nan
    else
      let s := 128 + (e % 2).toNat
      let x := m <<< s
      let r := isqrt x
      let st := if r * r = x then 0 else 1
      .fin false (2 * r + st) ((e - (s : Int)) / 2 - 1)

/-- Reciprocal square root with a sticky low bit (R278). -/
def Val.rsqrt : Val → Val
  | .nan => .nan
  | .inf a => if a then .nan else .fin false 0 0
  | .fin a m e =>
    if m = 0 then .inf a
    else if a then .nan
    else
      let m2 := if e % 2 = 0 then m else 2 * m
      let e2 := if e % 2 = 0 then e else e - 1
      let k := 64 + bitLen m2
      let x := 2 ^ (2 * k)
      let r := isqrt (x / m2)
      let st := if r * r * m2 = x then 0 else 1
      .fin false (2 * r + st) (-(e2 / 2) - (k : Int) - 1)

/-- floor(log2) of a finite non-zero value. -/
def Val.floorLog2 : Val → Int
  | .fin _ m e => e + (m.log2 : Int)
  | _ => 0

/-- `a ≤ b` for finite or infinite values, with the two zeros equal. -/
def Val.le (a b : Val) : Bool :=
  match a, b with
  | .nan, _ => false
  | _, .nan => false
  | .inf n, .inf k => n || !k
  | .inf n, .fin .. => n
  | .fin .., .inf k => !k
  | .fin a m e, .fin b n f =>
    let e0 := min e f
    decide (signedAt a m e e0 ≤ signedAt b n f e0)

/-- Binary32 addition, one rounding. -/
def fadd (x y : F32) : F32 × RFlags := round32 ((fval x).add (fval y))
/-- Binary32 multiplication, one rounding. -/
def fmul (x y : F32) : F32 × RFlags := round32 ((fval x).mul (fval y))
/-- Binary32 fused multiply-add, one rounding (R263). -/
def ffma (x y z : F32) : F32 × RFlags := round32 (((fval x).mul (fval y)).add (fval z))
/-- Binary32 subtraction, one rounding. -/
def fsub (x y : F32) : F32 × RFlags := round32 ((fval x).add (fval y).neg)
/-- Binary32 division, one rounding. -/
def fdiv (x y : F32) : F32 × RFlags := round32 ((fval x).div (fval y))

/-- Larger of two values; NaN if either is NaN; +0 above -0 (R277). -/
def fmax (x y : F32) : F32 :=
  let a := fval x; let b := fval y
  if a.isNan || b.isNan then 0x7FC00000#32
  else if a.isZero && b.isZero then (if a.isNeg then y else x)
  else if a.le b then y else x

/-- Smaller of two values; NaN if either is NaN; -0 below +0 (R277). -/
def fmin (x y : F32) : F32 :=
  let a := fval x; let b := fval y
  if a.isNan || b.isNan then 0x7FC00000#32
  else if a.isZero && b.isZero then (if a.isNeg then x else y)
  else if a.le b then x else y

/-- Sign cleared; a NaN becomes the NaN the LX-960 writes (R250, R277). -/
def fabs (x : F32) : F32 := if (fval x).isNan then 0x7FC00000#32 else x &&& 0x7FFFFFFF#32

/-- Sign inverted; a NaN becomes the NaN the LX-960 writes. -/
def fneg (x : F32) : F32 := if (fval x).isNan then 0x7FC00000#32 else x ^^^ 0x80000000#32

/-- Balanced binary tree over a list in index order (R260, R264); `n` bounds the number of levels. -/
def treeFold {α : Type} (f : α → α → α) (d : α) : Nat → List α → α
  | 0, l => l.headD d
  | _ + 1, [] => d
  | _ + 1, [x] => x
  | n + 1, l => treeFold f d n (pairs f l)
where
  /-- One level of the tree: neighbours are combined, an odd last element stays. -/
  pairs {α : Type} (f : α → α → α) : List α → List α
    | x :: y :: t => f x y :: pairs f t
    | l => l

/-- i8 rounding: nearest even, saturating at -128 and 127 (R247, R253). The code is two's complement. -/
def roundI8 (v : Val) : Nat × RFlags :=
  match v with
  | .nan => (0, { nan := true })
  | .inf _ => (0, { inf := true })
  | .fin neg m e =>
    if m = 0 then (0, {})
    else
      let (r, q) := roundMag (max (bitLen m) 1 + 300) 0 m e
      let mag := r <<< q.toNat
      if neg then
        if mag > 128 then (0x80, { sat := true }) else ((256 - mag) % 256, { flush := mag == 0 })
      else if mag > 127 then (0x7F, { sat := true }) else (mag, { flush := mag == 0 })

/-- Element formats by code (R225, R273). -/
inductive EFmt where
  | e4m3 | e5m2 | i8 | e2m1b | bf16 | binary32 | m8b
  deriving DecidableEq, Repr, Inhabited

/-- The format of a format code (R273); codes 0x00 and 0x08 to 0xFF are reserved. -/
def EFmt.ofCode : Nat → Option EFmt
  | 1 => some .e4m3
  | 2 => some .e5m2
  | 3 => some .i8
  | 4 => some .e2m1b
  | 5 => some .bf16
  | 6 => some .binary32
  | 7 => some .m8b
  | _ => none

/-- Counter slot of a format (R269). -/
def EFmt.slot : EFmt → Nat
  | .binary32 => 0 | .bf16 => 1 | .e4m3 => 2 | .e5m2 => 3 | .i8 => 4 | .e2m1b => 5 | .m8b => 6

/-- Bytes of an element; e2m1b elements are half a byte and are handled apart. -/
def EFmt.size : EFmt → Nat
  | .binary32 => 4 | .bf16 => 2 | _ => 1

/-- The format carries a per-tensor scale (R226, R274). -/
def EFmt.scaled : EFmt → Bool
  | .e4m3 | .e5m2 | .i8 => true
  | _ => false

/-- The format is block scaled (R246). -/
def EFmt.block : EFmt → Bool
  | .e2m1b | .m8b => true
  | _ => false

/-- The value of an element code, without any scale. -/
def EFmt.val (f : EFmt) (code : Nat) : Val :=
  match f with
  | .e4m3 | .m8b => Fmt.e4m3.val code
  | .e5m2 => Fmt.e5m2.val code
  | .i8 => let s := signedOf 8 code; .fin (decide (s < 0)) s.natAbs 0
  | .e2m1b => Fmt.e2m1.val code
  | .bf16 => Fmt.bf16.val code
  | .binary32 => Fmt.f32.val code

/-- The value of an element under an E8M0 block scale; code 0xFF makes it NaN (R245). -/
def blockVal (v : Val) (scale : Nat) : Val := if scale = 255 then .nan else v.scale ((scale : Int) - 127)

/-- R254: convert a binary32 value into a format with the multiplier 2^k; the code and what it counts. -/
def convert (f : EFmt) (k : Int) (x : F32) : Nat × RFlags :=
  let v := (fval x).scale k
  match f with
  | .i8 => roundI8 v
  | .e4m3 | .m8b => Fmt.e4m3.round v
  | .e5m2 => Fmt.e5m2.round v
  | .e2m1b => Fmt.e2m1.round v
  | .bf16 => Fmt.bf16.round v
  | .binary32 => Fmt.f32.round v

/-- The multiplier exponent of R254 for a format and an E8M0 output scale. -/
def multOf (f : EFmt) (scale : Nat) : Int := if f.scaled then 127 - (scale : Int) else 0

/-- R255: convert 32 binary32 values into one block: scale, element codes and one flag set per element. -/
def convertBlock (f : EFmt) (xs : List F32) : Nat × List Nat × List RFlags :=
  let vs := xs.map fval
  if vs.any (fun v => v.isNan || v.isInf) then
    (255, xs.map (fun _ => 0), vs.map (fun v => { nan := v.isNan, inf := v.isInf }))
  else
    let a := xs.foldl (fun m x => fmax m (fabs x)) 0#32
    let emax : Int := if f = .e2m1b then 2 else 8
    let scale : Nat :=
      if (fval a).isZero then 127
      else (max 0 (min 254 ((fval a).floorLog2 - emax + 127))).toNat
    let rs := xs.map (convert f (127 - (scale : Int)))
    (scale, rs.map (·.1), rs.map (·.2))

/-- Add to one numeric counter; each holds at 2^48 - 1 (R269). -/
def numAdd (c : NumCounts) (cls slot k n : Nat) : NumCounts :=
  if n = 0 then c
  else
    let key := (cls * 7 + slot) * 5 + k
    setKey key (satAdd 48 (lookupD 0 key c) n) c

/-- Count a list of roundings or conversions of one class and format slot (R254, R269). -/
def numCount (c : NumCounts) (cls slot : Nat) (fl : List RFlags) : NumCounts :=
  let n (p : RFlags → Bool) := (fl.filter p).length
  numAdd (numAdd (numAdd (numAdd (numAdd c cls slot 0 fl.length) cls slot 1 (n (·.sat))) cls slot 2 (n (·.flush)))
    cls slot 3 (n (·.nan))) cls slot 4 (n (·.inf))

/-- Add every counter of `b` into `a` (R270). -/
def numMerge (a b : NumCounts) : NumCounts :=
  b.foldl (fun c kv => setKey kv.1 (satAdd 48 (lookupD 0 kv.1 c) kv.2) c) a

end Sys2Proof.Machine
end

