-- ==== Sys2Proof/Machine/Dot.lean ====
section
/-! DEFINITION. Inner products and ordered reductions: exact window sums, bf16 trees, the IT-40 emulation and lane
reductions (R256 to R264). -/

namespace Sys2Proof.Machine

/-- R256: round32(2^k × Σ T × S + A), exact before its one rounding. -/
def exactDot (k : Int) (ts ss : List Val) (a : Option F32) : F32 × RFlags :=
  let prods := List.zipWith (fun t s => (t.mul s).scale k) ts ss
  round32 (Val.sum (match a with | some x => prods ++ [fval x] | none => prods))

/-- An operation on binary32 values that also collects the flags of its roundings. -/
def flagged (f : F32 → F32 → F32 × RFlags) (x y : F32 × RFlags) : F32 × RFlags :=
  let (r, fl) := f x.1 y.1
  (r, { sat := x.2.sat || y.2.sat || fl.sat, flush := x.2.flush || y.2.flush || fl.flush, nan := fl.nan, inf := fl.inf })

/-- Balanced tree of binary32 additions in index order, with the flags of every rounding (R260). -/
def treeAdd (l : List (F32 × RFlags)) : F32 × RFlags := treeFold (flagged fadd) (0#32, {}) 20 l

/-- R260: each product rounded, a balanced tree, then A last. -/
def bf16Dot (ts ss : List Val) (a : Option F32) : F32 × RFlags :=
  let r := treeAdd (List.zipWith (fun t s => round32 (t.mul s)) ts ss)
  match a with
  | some x => flagged fadd r (x, {})
  | none => r

/-- A subnormal read as zero with its sign (R261). -/
def Val.ftz : Val → Val
  | .fin n m e => if decide (e + (bitLen m : Int) - 1 < -126) then .fin n 0 0 else .fin n m e
  | v => v

/-- One rounding of the IT-40 emulation: a result below 2^-126 becomes zero and counts as flushed (R261). -/
def roundFtz (v : Val) : F32 × RFlags :=
  let (r, fl) := round32 v
  match fval r with
  | .fin n m e =>
    if m != 0 && decide (e + (bitLen m : Int) - 1 < -126) then
      (if n then 0x80000000#32 else 0#32, { fl with flush := true })
    else (r, fl)
  | _ => (r, fl)

/-- R261: the IT-40 emulation of one output. -/
def it40Dot (ts ss : List Val) (a : Option F32) : F32 × RFlags :=
  let start : F32 × RFlags := match a with
    | some x => (match (fval x).ftz with | .fin n 0 _ => (if n then 0x80000000#32 else 0#32) | _ => x, {})
    | none => (0#32, {})
  (List.zip ts ss).foldl (fun acc p =>
    let (r, fl) := roundFtz (((p.1.ftz).mul (p.2.ftz)).add (fval acc.1))
    (r, { sat := acc.2.sat || fl.sat, flush := acc.2.flush || fl.flush, nan := fl.nan, inf := fl.inf })) start

/-- Reduction operations of R279. -/
inductive RedOp where
  | sum | sumsq | max | min | amax
  deriving DecidableEq, Repr

/-- The value of a lane that takes no element (R279). -/
def RedOp.empty : RedOp → F32
  | .sum | .sumsq => 0x80000000#32
  | .max => 0xFF800000#32
  | .min => 0x7F800000#32
  | .amax => 0#32

/-- First element of a lane (R279). -/
def RedOp.start : RedOp → F32 → F32 × RFlags
  | .sumsq, x => fmul x x
  | .amax, x => (fabs x, {})
  | _, x => (x, {})

/-- The lane step of R279. -/
def RedOp.lane : RedOp → F32 × RFlags → F32 → F32 × RFlags
  | .sum, a, x => flagged fadd a (x, {})
  | .sumsq, a, x =>
    let (r, fl) := ffma x x a.1
    (r, { sat := a.2.sat || fl.sat, flush := a.2.flush || fl.flush, nan := fl.nan, inf := fl.inf })
  | .max, a, x => (fmax a.1 x, a.2)
  | .min, a, x => (fmin a.1 x, a.2)
  | .amax, a, x => (fmax a.1 (fabs x), a.2)

/-- The tree step of R279. -/
def RedOp.tree : RedOp → F32 × RFlags → F32 × RFlags → F32 × RFlags
  | .sum, a, b | .sumsq, a, b => flagged fadd a b
  | .max, a, b | .amax, a, b => (fmax a.1 b.1, a.2.or b.2)
  | .min, a, b => (fmin a.1 b.1, a.2.or b.2)

/-- The elements of lane `l`: those whose index modulo 256 is `l`, in order (R264). -/
def laneOf (xs : List F32) (l : Nat) : List F32 :=
  (List.range (ceilDiv (xs.length - l) 256)).filterMap (fun i => xs[l + 256 * i]?)

/-- A reduction in the order of R264 and R279. -/
def laneReduce (op : RedOp) (xs : List F32) : F32 × RFlags :=
  treeFold op.tree (op.empty, {}) 9 ((List.range 256).map (fun l =>
    match laneOf xs l with
    | [] => (op.empty, {})
    | y :: ys => ys.foldl op.lane (op.start y)))

end Sys2Proof.Machine
end

