-- ==== Sys2Proof/Machine/Memory.lean ====
section
/-! DEFINITION. Sparse memories: sorted cells over one default byte, none of which holds the default. -/

namespace Sys2Proof.Machine

/-- The byte at an address; an unlisted address reads as the default `d`. -/
def Mem1.get (d : Byte) : Memory → Nat → Byte
  | [], _ => d
  | (a, v) :: t, k => if k < a then d else if k = a then v else Mem1.get d t k

/-- Set the byte at an address, keeping the canonical form. -/
def Mem1.set (d : Byte) : Memory → Nat → Byte → Memory
  | [], k, v => if v = d then [] else [(k, v)]
  | (a, w) :: t, k, v =>
    if k < a then (if v = d then (a, w) :: t else (k, v) :: (a, w) :: t)
    else if k = a then (if v = d then t else (a, v) :: t)
    else (a, w) :: Mem1.set d t k v

/-- Every address of the memory is above `k`. -/
def Mem1.above (k : Nat) : Memory → Bool
  | [] => true
  | (a, _) :: t => decide (k < a) && Mem1.above k t

/-- The canonical form: addresses strictly rising, no cell equal to the default. -/
def Mem1.wf (d : Byte) : Memory → Bool
  | [] => true
  | (a, v) :: t => Mem1.above a t && (v != d) && Mem1.wf d t

/-- `n` bytes from `a`. -/
def Mem1.read (d : Byte) (m : Memory) (a n : Nat) : Bytes := (List.range n).map (fun i => Mem1.get d m (a + i))

/-- A byte string written at `a`. -/
def Mem1.write (d : Byte) (m : Memory) : Nat → Bytes → Memory
  | _, [] => m
  | a, b :: bs => Mem1.write d (Mem1.set d m a b) (a + 1) bs

/-- Keep only the cells whose address satisfies `p`; the others read as the default. -/
def Mem1.keep (p : Nat → Bool) : Memory → Memory
  | [] => []
  | (a, v) :: t => if p a then (a, v) :: Mem1.keep p t else Mem1.keep p t

end Sys2Proof.Machine
end

