-- ==== Sys2Proof/Machine/State.lean ====
section
/-! DEFINITION. The state of the LX-960 as plain data, its reset values, and the reasons a step can stop. -/

namespace Sys2Proof.Machine

/-- Module states of chapter 03. -/
inductive Phase where
  | noInput | off | standby | powerUp | boot | running | recovery | inReset
  deriving DecidableEq, Repr, Inhabited

/-- States of a host link that the spec names (R95, R103). -/
inductive Ltssm where
  | idle | detect | l0 | noFlit
  deriving DecidableEq, Repr, Inhabited

/-- Task states of R138. -/
inductive TaskState where
  | queued | ready | running | speculative | staged | committed | discarded
  deriving DecidableEq, Repr, Inhabited

/-- Where a live job stands (R124, R146, R163). -/
inductive JobPhase where
  | fetching | waiting | live
  deriving DecidableEq, Repr, Inhabited

/-- Version slot states of R391. -/
inductive SlotState where
  | free | building | live (version : Nat)
  deriving DecidableEq, Repr, Inhabited

/-- Where a checkpoint is (R397). -/
inductive StashPlace where
  | scratch (entry : Nat) | dram (entry : Nat) | recompute
  deriving DecidableEq, Repr, Inhabited

/-- What a core is doing for the task it holds. -/
inductive CorePhase where
  | idle | waitClock | clearing | executing | finished | delivering
  deriving DecidableEq, Repr, Inhabited

/-- Run kinds of R527. -/
inductive RunKind where
  | run | replay | repeatRun | shadow | arbiter
  deriving DecidableEq, Repr, Inhabited

/-- Causes of discard of R158, each with what its event or DETAIL reports. -/
inductive Cause where
  | xlat (sub : Nat) (va : Nat) (kind : Nat)
  | poison
  | bankConflict (quad : Nat) (payload : Nat)
  | sequence (payload : Nat)
  | staging
  | weightVersion (sub : Nat)
  | kvTable (sub : Nat) (handle : Nat)
  | stash
  | hardware (kind : Nat) (position : Nat)
  | link (port : Nat)
  | runLimit
  | noCore
  | noPillar
  | exception (num : Nat) (va : Nat) (code : Nat)
  | displaced
  | predicate
  | aborted
  | reset
  deriving DecidableEq, Repr, Inhabited

/-- What the control processor is waiting for (R176, R198 to R200, R322, R336). -/
inductive Stall where
  | queueFull (q : Nat)
  | qwait (q n : Nat)
  | fence (targets : List (Nat × BitVec 32))
  | filled (t n : Nat)
  | free (t n : Nat)
  | fillOp (t n : Nat)
  | drainOp (t n : Nat)
  | cacheFill (line dpa : Nat)
  | beat (b : Nat)
  deriving DecidableEq, Repr, Inhabited

/-- A signal that a link effect carries (R428, R430). -/
structure LinkSignal where
  job : BitVec 32
  task : Nat
  tally : Nat
  count : Nat
  /-- 05 R153; 16: the receiving port, or the sending core of a signal that stays on this module. -/
  source : BitVec 16 := 0
  deriving DecidableEq, Repr, Inhabited

/-- Staged effects of R149; a DRAM write carries the physical pieces it was translated to (R180). -/
inductive Effect where
  | dramWrite (va : Nat) (pieces : List (Nat × Nat)) (data : Bytes)
  | remoteAcc (header : Bytes) (status : BitVec 8) (lines : List Line) (pc : Nat)
  | tallySignal (task tally : Nat) (drain : Bool) (count : Nat)
  | linkSend (coll rank arg : Nat) (signal : Option LinkSignal) (data : Bytes) (pc : Nat)
  | arm (coll base pc : Nat)
  | barrierArrive (coll : Nat) (signal : Option LinkSignal) (pc : Nat)
  | predValue (value : Bool)
  deriving DecidableEq, Repr, Inhabited

/-- A line of the hardware-managed cache (R322); lists keep the most recently used line first. -/
structure CacheLine where
  line : Nat
  set : Nat
  way : Nat
  deriving DecidableEq, Repr, Inhabited

/-- A committed or recorded tally signal (R153). -/
structure Signal where
  job : Nat := 0
  task : Nat := 0
  tally : Nat := 0
  drain : Bool := false
  count : Nat := 0
  source : BitVec 16 := 0
  id : BitVec 32 := 0
  link : Nat := 0
  fn : Nat := 0
  deriving DecidableEq, Repr, Inhabited

/-- A shadowed pair and its arbiter (R460, R463). -/
structure Pair where
  primary : Nat
  shadow : Nat
  miscompared : Bool := false
  arbiter : Option Nat := none
  primaryCrc : Option (BitVec 64) := none
  shadowCrc : Option (BitVec 64) := none
  arbiterCrc : Option (BitVec 64) := none
  dissenter : Option Nat := none
  deriving DecidableEq, Repr, Inhabited

/-- An edge of R145. -/
structure Edge where
  src : Nat
  dst : Nat
  resolve : Bool
  deriving DecidableEq, Repr, Inhabited

/-- A predicate of R147 with its resolution (R148) and the bucket statuses seen since validation (R440). -/
structure Pred where
  source : Nat
  task : Nat
  coll : Nat
  first : Nat
  count : Nat
  value : Option Bool := none
  seen : List (Nat × BitVec 8) := []
  deriving DecidableEq, Repr, Inhabited

/-- An enabled entry of a partition's watch table (R529). -/
structure WatchEntry where
  index : Nat
  va : Nat
  length : Nat
  version : Nat
  mb : Nat
  dest : Nat
  deriving DecidableEq, Repr, Inhabited

/-- A held request slot of a core (R356, R357). -/
structure ReqSlot where
  id : Nat
  block : Nat
  channel : Nat
  bank : Nat
  part : Option Nat
  write : Bool
  waiting : Bool := false
  dropped : Bool := false
  deriving DecidableEq, Repr, Inhabited

/-- A translation buffer entry (R366). -/
structure TlbEntry where
  part : Nat
  base : Nat
  size : Nat
  dpa : Nat
  w : Bool
  x : Bool
  deriving DecidableEq, Repr, Inhabited

/-- A walk cache entry: partition, level, VA prefix and table entry (R366). -/
structure WalkEntry where
  part : Nat
  level : Nat
  index : Nat
  entry : BitVec 64
  deriving DecidableEq, Repr, Inhabited

/-- An access waiting in a bank queue (R358). -/
structure Access where
  who : Requester
  slot : Nat
  block : Nat
  part : Option Nat
  write : Bool
  passed : Nat := 0
  /-- 11 R362: its place in the order in which accesses reached their groups. -/
  serial : Nat := 0
  /-- 11 R375; 1: a read of patrol scrub, whose `block` is where the DRAM lies. -/
  scrub : Bool := false
  deriving DecidableEq, Repr

/-- An entry of the fence record (R473). -/
structure FenceEntry where
  router : Bool
  reason : BitVec 8
  row : Nat
  column : Nat
  core : BitVec 16
  hours : Nat
  cycles : Nat
  deriving DecidableEq, Repr, Inhabited

/-- An entry of the page-retirement list (R378). -/
structure RetireEntry where
  page : Nat
  reason : Nat
  deriving DecidableEq, Repr, Inhabited

/-- Port states of R411, in the order of LNK.PORT_STATE. -/
inductive PortState where
  | down | localTest | opening | train | ident | secure | up
  deriving DecidableEq, Repr, Inhabited

/-- Bucket states of R436. -/
inductive BucketState where
  | closed | armed | opened | complete
  deriving DecidableEq, Repr, Inhabited

/-- A term held in a reorder slot: its place in the order, status, line and poisoned sectors (R433). -/
structure HeldTerm where
  term : Nat
  status : BitVec 8
  line : Line
  poison : List Nat
  deriving DecidableEq, Repr, Inhabited

/-- One line being folded at its adding point (R432). -/
structure LineSt where
  acc : Option Line := none
  next : Nat := 0
  held : List HeldTerm := []
  status : BitVec 8 := 0
  poison : List Nat := []
  gaveUp : Bool := false
  finished : Bool := false
  deriving DecidableEq, Repr, Inhabited

/-- A collective descriptor of R425. -/
structure CollDesc where
  kind : Nat := 0
  topology : Nat := 0
  upPort : Nat := 0
  ranks : Nat := 0
  myRank : Nat := 0
  key : BitVec 32 := 0
  buckets : Nat := 0
  bucketTable : Nat := 0
  nodeTable : Nat := 0
  parts : Nat := 0
  lateBeats : Nat := 0
  giveUpBeats : Nat := 0
  recvVa : Nat := 0
  recvBytes : Nat := 0
  recordVa : Nat := 0
  completeEvents : Bool := false
  deriving DecidableEq, Repr, Inhabited

/-- A packet sent and not yet acknowledged; `busy` when answered BUSY, `core` the core whose staging keeps it, `part` the
partition of a contribution to this module's own Tipples. -/
structure TxPacket where
  pkt : Packet
  port : Nat
  part : Nat := 0
  busy : Bool := false
  resend : Bool := false
  core : Option Nat := none
  deriving DecidableEq, Repr, Inhabited

/-- A packet of this module that waits at its port, and how many of its flits have left. -/
structure TxItem where
  pkt : Packet
  left : Nat := 0
  deriving DecidableEq, Repr, Inhabited

/-- An ARM delivered to COLL (R427, R429). -/
structure ArmReq where
  part : Nat
  coll : Nat
  base : Nat
  deriving DecidableEq, Repr, Inhabited

/-- Clock state of a cluster (R34, R35). -/
inductive ClusterSt where
  | stopped | restarting | running
  deriving DecidableEq, Repr, Inhabited

/-- A resident change held until the grant (R388). -/
inductive Held where
  | define (part index base slotBytes slots policy spEntries entryBytes ovfVa ovfEntries : Nat)
  | release (index : Nat)
  | publish (index version : Nat)
  | retire (index version : Nat)
  | put (index key : Nat) (place : StashPlace) (length : Nat)
  | freeKey (index key : Nat)
  deriving DecidableEq, Repr, Inhabited

/-- How a run that is compared or repeated has ended (R456, R462). -/
inductive RunEnd where
  | clean (crc : BitVec 64)
  | cause (c : Cause)
  deriving DecidableEq, Repr, Inhabited

/-- One regulator of R53. -/
structure Rail where
  /-- 02 R53, R78; 1. -/
  on : Bool := false
  /-- 02 R63, 17 R564; 1. -/
  inRegulation : Bool := false
  /-- 02 R53, R64; 16. -/
  statusWord : BitVec 16 := 0
  /-- 02 R54 (CML bit of STATUS_CML); 1. -/
  cml : Bool := false
  /-- 02 R65 (SMBALERT#); 1. -/
  alert : Bool := false
  deriving DecidableEq, Repr, Inhabited

/-- A power sequence whose time has not ended (R55, R67, R68, R80). -/
structure PowerSeq where
  /-- 02 R68; rank: 0 input loss, 1 thermal trip, 2 PWR_EN deasserted. -/
  rank : Nat
  /-- 02 R55: management ticks at its start; ns. -/
  start : Nat
  /-- 02 R68: the hours entry of the sequence is written and is not written again; 1. -/
  hours : Bool
  deriving DecidableEq, Repr, Inhabited

/-- Power, pins, rails and bypass of chapter 02 and the power states of chapter 03. -/
structure Pwr where
  /-- 03 states of the chapter, R78, R80, R97, R99; enum. -/
  phase : Phase := .standby
  /-- 03 R82: the next boot stage to complete; 0..8. -/
  stage : Nat := 0
  /-- 02 R51, 17 R564 PWR.VIN; mV. -/
  millivolts : Nat := 48000
  /-- 02 R58, R59; 1. -/
  pwrEn : Bool := false
  /-- 02 R56, R67: PWR_EN has been low for 10 ms; 1. -/
  pwrEnLowTicks : Bool := true
  /-- 02 R58 MOD_RESET_N asserted; 1. -/
  modReset : Bool := false
  /-- 02 R63; 1. -/
  pgood : Bool := false
  /-- 02 R64; 1 (asserted). -/
  faultN : Bool := false
  /-- 02 R67; 1 (latched). -/
  thermtrip : Bool := false
  /-- 02 R56: off state after an input loss; 1. -/
  afterInputLoss : Bool := false
  /-- 02 R40: held bifurcation strap; 2. -/
  strap : BitVec 2 := 0b11#2
  /-- 02 R53; 8 rails. -/
  rails : List Rail := List.replicate 7 ({} : Rail) ++ [{ on := true, inRegulation := true }]
  /-- 02 R46, R47; 13 R412; 1. -/
  bypassOpen : Bool := false
  /-- 02 R46, R55; 1. -/
  bypassDrive : Bool := false
  /-- 01 R32; 1. -/
  dbgOnMgmtOsc : Bool := true
  /-- 02 R66; 17 MGT.TEMP; 0.25 C. -/
  temperature : Int := 0
  /-- 03 R82 B0: domains other than CL have their clocks; 1. -/
  clocksRunning : Bool := false
  /-- 02 R68: the sequence in progress. -/
  seq : Option PowerSeq := none
  /-- 02 R68: ranks of the lower-ranked events whose pin states wait for the end of the sequence. -/
  deferred : List Nat := []
  deriving DecidableEq, Repr, Inhabited

/-- The 64 MiB serial NOR flash and the boot records read from it (chapters 03, 14, 15). -/
structure Flash where
  /-- 03 R84; 64 MiB, 8 bits each. -/
  bytes : Memory := []
  /-- 03 R92, 17 MGT.HOURS; 32. -/
  hours : Nat := 0
  /-- 03 R78, R92; 32. -/
  powerCycles : Nat := 0
  /-- 03 R92; 0..1. -/
  hoursSector : Nat := 0
  /-- 03 R92; 0..4095. -/
  hoursSlot : Nat := 0
  /-- 17 R568; flash offset of a commit in progress. -/
  commitBusy : Option Nat := none
  /-- 17 R568: a flush abandoned the commit in progress; 1. -/
  commitAbandoned : Bool := false
  /-- 17 R566; 64 KiB sector buffer, unwritten bytes 0xFF. -/
  sectorBuf : List (Nat × BitVec 8) := []
  /-- 03 R87, R88; running image A(false)/B(true). -/
  image : Option Bool := none
  /-- 03 R88; images already rejected in this boot. -/
  tried : List Bool := []
  /-- 03 R86, R87; 17 MGT.FW; 32. -/
  fwVersion : BitVec 32 := 0
  /-- 15 R479; 17 MGT.FW; 32. -/
  romVersion : BitVec 32 := 0
  /-- 03 R87; 512. -/
  measurement : Bytes := []
  /-- 15 R479 CONFIG_HASH; 512. -/
  configHash : Bytes := []
  /-- 15 R479 HARVEST_HASH; 512. -/
  harvestHash : Bytes := []
  /-- 15 R479 FENCE_HASH; 512. -/
  fenceHash : Bytes := []
  /-- 15 R476; 2592 bytes. -/
  identityPk : Bytes := []
  /-- 04 R109; 17 MGT.DSN; 64. -/
  dsn : BitVec 64 := 0
  /-- R24, R98; 1: the harvest map is still to be loaded in this cold boot. -/
  harvestPending : Bool := true
  /-- R24, R89: the harvest map area as it stood at the cold reset; a map written later waits for the next one. -/
  harvestArea : Memory := []
  /-- R24, R89; 1: the harvest map loaded in this cold boot verified. -/
  harvestOk : Bool := false
  /-- R90; 1: copy of the fence record in use. -/
  fenceCopy : Bool := true
  /-- R90; 1: copy of the retirement list in use. -/
  retireCopy : Bool := true
  /-- 00 R1, R3; 17 R562; 1: the module is an LX-960M-256. A fact of the module that no command changes; the state after reset is
  an LX-960M-512 (DESIGN CHOICE, log 101). -/
  orderIs256 : Bool := false
  /-- 03 R82 B1; 1. -/
  secSramCleared : Bool := false
  /-- 03 R93; 64 channels. -/
  trained : List Bool := List.replicate 64 false
  /-- 03 R82 B6; 1. -/
  dramZeroed : Bool := false
  /-- 14 R472 ENABLE, 01 R21; 16 x 14 bits. -/
  enable : List (BitVec 16) := List.replicate 16 0x0FFF#16
  /-- 14 R472 ATTN, 01 R22; 16. -/
  attn : List Bool := List.replicate 16 false
  /-- 03 R90, 14 R473; 32. -/
  fenceGen : Nat := 0
  /-- 14 R473; at most 512. -/
  fenceEntries : List FenceEntry := []
  /-- 03 R90, 11 R378; 32. -/
  retireGen : Nat := 0
  /-- 11 R378; at most 4096. -/
  retired : List RetireEntry := []
  /-- 11 R379; 1. -/
  retireFullSent : Bool := false
  deriving DecidableEq, Repr, Inhabited

/-- One of a function's three rings (R105, R111). -/
structure Ring where
  /-- 04 R112, 17 R549; 1. -/
  en : Bool := false
  /-- 17 R547; 64. -/
  base : BitVec 64 := 0
  /-- 17 R547; 17. -/
  size : BitVec 64 := 0
  /-- 04 R113: consumer index known to the Winder; 16. -/
  head : Nat := 0
  /-- 04 R113: producer index known to the Winder; 16. -/
  tail : Nat := 0
  /-- 04 R126, R131; 1. -/
  phase : Bool := true
  deriving DecidableEq, Repr, Inhabited

/-- A fetched, not yet consumed submission entry (R122). -/
structure SubEntry where
  /-- 04 R121, R122; 64 bytes. -/
  bytes : Bytes := []
  deriving DecidableEq, Repr, Inhabited

/-- An entry of a function's MSI-X table, with PCI Express's reset values (R106, R134; log 110). -/
structure MsixEntry where
  /-- 04 R106; 64 message address. -/
  addr : BitVec 64 := 0
  /-- 04 R106; 32 message data. -/
  data : BitVec 32 := 0
  /-- 04 R134; 1 mask bit of the vector control word. -/
  mask : Bool := true
  deriving DecidableEq, Repr, Inhabited

/-- The writable registers of a function's configuration space, with PCI Express's reset values (R103, R106, R108; log 110). -/
structure CfgSpace where
  /-- 04 R108; 16 command register. -/
  command : BitVec 16 := 0
  /-- 04 R106; 64 base of BAR0, or of VF BAR0 in the SR-IOV capability. -/
  bar0 : BitVec 64 := 0
  /-- 04 R106; 64 base of BAR2, or of VF BAR2. -/
  bar2 : BitVec 64 := 0
  /-- 04 R106, R108; 64 base of VF BAR0. -/
  vfBar0 : BitVec 64 := 0
  /-- 04 R106, R108; 64 base of VF BAR2. -/
  vfBar2 : BitVec 64 := 0
  /-- 04 R103; 16 device control: [7:5] Max Payload Size, [14:12] Max Read Request Size. -/
  devCtl : BitVec 16 := 0x2810#16
  /-- 04 R108; 16 SR-IOV control. -/
  sriov : BitVec 16 := 0
  /-- 04 R108; 16 SR-IOV NumVFs. -/
  numVfs : BitVec 16 := 0
  /-- 04 R108, R134; 1 MSI-X Enable. -/
  msixEnable : Bool := false
  /-- 04 R108, R134; 1 MSI-X Function Mask. -/
  msixMask : Bool := false
  deriving DecidableEq, Repr, Inhabited

/-- One PCIe function of a host link with its HIF registers, rings and mailbox. -/
structure Fn where
  /-- 04 R105; ring. -/
  sq : Ring := {}
  /-- 04 R105; ring. -/
  cq : Ring := {}
  /-- 04 R105; ring. -/
  eq : Ring := {}
  /-- 04 R121; list. -/
  fetched : List SubEntry := []
  /-- 04 R121: completion entries reserved and not yet written; count. -/
  reserved : Nat := 0
  /-- 17 R548; 1. -/
  configError : Bool := false
  /-- 17 R545; 1. -/
  locked : Bool := false
  /-- 17 R546; 32. -/
  lockViol : Nat := 0
  /-- 17 R547; 32. -/
  errCount : Nat := 0
  /-- 04 R135; 8. -/
  msiHoldoff : BitVec 8 := 0
  /-- 04 R135; beat of end, per vector 0 and 1. -/
  holdEnd : List (Option Nat) := [none, none]
  /-- 16 R514; ticks since the hold-off began. -/
  holdTicks : List Nat := [0, 0]
  /-- 04 R135; 1 each. -/
  holdPending : List Bool := [false, false]
  /-- 04 R134; messages signalled per vector (model's own record). -/
  msixSent : List Nat := [0, 0, 0, 0]
  /-- 04 R106, R134; table of 4 entries. -/
  msixTable : List MsixEntry := List.replicate 4 {}
  /-- 04 R106, R134; Pending Bit Array, 4 x 1. -/
  msixPba : List Bool := [false, false, false, false]
  /-- 04 R103, R106, R108; configuration space. -/
  cfg : CfgSpace := {}
  /-- 04 R133; 32. -/
  dropped : Nat := 0
  /-- 04 R110; 1. -/
  d3hot : Bool := false
  /-- 15 R481; 64. -/
  mboxAddr : BitVec 64 := 0
  /-- 15 R481; 1. -/
  mboxBusy : Bool := false
  /-- 17 R551; 32. -/
  secLockViol : Nat := 0
  /-- 16 R539; 15. -/
  plogCursor : BitVec 32 := 0
  deriving DecidableEq, Repr, Inhabited

/-- One of up to four host links. -/
structure HostLink where
  /-- 04 R104; 8 functions. -/
  fns : List Fn := List.replicate 8 {}
  /-- 02 R38 (pull-down), R40; 1 (asserted). -/
  perst : Bool := true
  /-- 03 R95, 04 R103; enum. -/
  ltssm : Ltssm := .idle
  /-- 04 R103; GT/s code. -/
  rate : Nat := 0
  /-- 04 R103; lanes. -/
  width : Nat := 0
  /-- 04 R114; 64. -/
  dbAddr : BitVec 64 := 0
  /-- 17 R550; 1. -/
  dbEn : Bool := false
  /-- 17 R550; 1. -/
  moduleEvents : Bool := false
  /-- 04 R117, R118; 1. -/
  active : Bool := false
  /-- 04 R117; 8. -/
  unchanged : Nat := 0
  /-- 04 R116; 1. -/
  outstanding : Bool := false
  /-- 04 R114, R117; 8 x 64 last slot values read. -/
  slots : List (BitVec 64) := List.replicate 8 0
  /-- 04 R120; 32. -/
  dbErr : Nat := 0
  /-- 04 R120; consecutive failures. -/
  dbErrRun : Nat := 0
  /-- 04 R102, R105; bytes the module wrote into host memory, keyed by requester ID and address (Ops.hostKey). -/
  hostMem : Memory := []
  /-- 04 R105, R116; the outstanding doorbell read: requester function, host address and length. -/
  readReq : Option (Nat × Nat × Nat) := none
  /-- 04 R107; data of the last completed register read (model's own record). -/
  barData : Option (BitVec 64) := none
  /-- 03 R95; Request Retry completions sent (model's own record). -/
  cfgRetries : Nat := 0
  /-- 03 R95, 04 R107; Unsupported Request completions sent (model's own record). -/
  urSent : Nat := 0
  deriving DecidableEq, Repr, Inhabited

/-- A task of a job: its entry of R142 and its state. -/
structure TaskSt where
  /-- 05 R143; 8. -/
  cls : BitVec 8 := 0
  /-- 05 R142; 8. -/
  flags : BitVec 8 := 0
  /-- 05 R142; 8. -/
  pred : BitVec 8 := 0xFF#8
  /-- 05 R142; 16. -/
  affinity : Nat := 0xFFFF
  /-- 05 R142; 16. -/
  coreFix : Nat := 0
  /-- 05 R142; 64. -/
  program : BitVec 64 := 0
  /-- 05 R142; 64. -/
  argAddr : BitVec 64 := 0
  /-- 05 R142, 12 R393; 64. -/
  tag : BitVec 64 := 0
  /-- 05 R142; 44. -/
  notBefore : Nat := 0
  /-- 05 R138; enum. -/
  st : TaskState := .queued
  /-- 05 R139, R158; 8. -/
  discards : Nat := 0
  /-- 05 R162; 8. -/
  lastCore : Nat := 0xFF
  /-- 05 R153; recorded signals. -/
  signals : List Signal := []
  /-- 11 R370; earliest beat of a replay. -/
  retryBeat : Option Nat := none
  /-- 13 R442: port that must be UP before it is placed again; 3. -/
  routeDown : Option Nat := none
  /-- 14 R455, R463; cores. -/
  excludeCores : List Nat := []
  /-- 14 R457: a bound task's replay that serves as the repeat and has no verdict yet; 1. -/
  heldGrant : Bool := false
  /-- 14 R460; shadow pair. -/
  pair : Option Pair := none
  /-- 05 R154 step 6; 1. -/
  delivered : Bool := false
  /-- 13 R443, 05 R162; 1: a committed link effect of this task was dropped. -/
  linkFail : Bool := false
  /-- 16 R522: the beat was counted (fires once); 1. -/
  notBeforeMet : Bool := false
  /-- 14 R455; count of runs started. -/
  runs : Nat := 0
  deriving DecidableEq, Repr, Inhabited

/-- A live job of the Winder's job table. -/
structure Job where
  /-- 04 R122; 32. -/
  id : BitVec 32 := 0
  /-- 04 R127; 2. -/
  link : Nat := 0
  /-- 04 R127; 3. -/
  fn : Nat := 0
  /-- 04 R104; 3. -/
  part : Nat := 0
  /-- 04 R122; 1. -/
  irq : Bool := false
  /-- 04 R122; 1. -/
  sealed : Bool := false
  /-- 04 R122; 64. -/
  userTag : BitVec 64 := 0
  /-- 04 R122; 64. -/
  descAddr : BitVec 64 := 0
  /-- 04 R122; 32. -/
  descLen : Nat := 0
  /-- 05 R170; order of consumption. -/
  ringPos : Nat := 0
  /-- 04 R124, 05 R163; enum. -/
  phase : JobPhase := .fetching
  /-- 05 R142; table. -/
  tasks : List TaskSt := []
  /-- 05 R145; table. -/
  edges : List Edge := []
  /-- 05 R147, R148; table with resolutions. -/
  preds : List Pred := []
  /-- 05 R141; 8. -/
  replayLimit : Nat := 8
  /-- 05 R141; 16. -/
  stagingKib : Nat := 256
  /-- 05 R141; 1. -/
  shadow : Bool := false
  /-- 05 R141; 8. -/
  shadowShift : Nat := 0
  /-- 05 R141; 44. -/
  startBeat : Nat := 0
  /-- 16 R522; 1. -/
  startMet : Bool := false
  /-- 05 R159; status and detail decided. -/
  ending : Option (BitVec 16 × BitVec 32) := none
  /-- 04 R129, R134; pending abort acknowledgements: status and IRQ. -/
  acks : List (BitVec 16 × Bool) := []
  /-- 05 R161; 1: a SPECULATIVE task was discarded by its predicate. -/
  specDiscard : Bool := false
  /-- 11 R367; 1. -/
  invalidated : Bool := false
  /-- 16 R529; copy read at validation. -/
  watch : List WatchEntry := []
  deriving DecidableEq, Repr, Inhabited

/-- A version slot (R391). -/
structure PillarSlot where
  /-- 12 R391; enum. -/
  st : SlotState := .free
  deriving DecidableEq, Repr, Inhabited

/-- One entry of a pillar's stash directory (R395). -/
structure StashEntry where
  /-- 12 R395; 16. -/
  key : Nat := 0
  /-- 12 R397; enum. -/
  place : StashPlace := .recompute
  /-- 12 R397; 32. -/
  length : Nat := 0
  deriving DecidableEq, Repr, Inhabited

/-- A pillar (R382, R383, R390). -/
structure Pillar where
  /-- 12 R382; 3. -/
  part : Nat := 0
  /-- 12 R382; 4. -/
  index : Nat := 0
  /-- 12 R390; 32. -/
  base : Nat := 0
  /-- 12 R390; 32. -/
  slotBytes : Nat := 0
  /-- 12 R390; 1..3. -/
  slots : List PillarSlot := []
  /-- 12 R390; 8. -/
  policy : Nat := 0
  /-- 12 R390; 16. -/
  spEntries : Nat := 0
  /-- 12 R390; 32. -/
  entryBytes : Nat := 0
  /-- 12 R390; 64. -/
  ovfVa : BitVec 64 := 0
  /-- 12 R390; 16. -/
  ovfEntries : Nat := 0
  /-- 12 R392: newest published version; 32. -/
  newest : Option Nat := none
  /-- 12 R395; directory. -/
  stash : List StashEntry := []
  /-- 12 R385; serial of the defining job. -/
  definedBy : Nat := 0
  deriving DecidableEq, Repr, Inhabited

/-- One tally (R334). -/
structure Tally where
  /-- 10 R334; 32. -/
  fill : BitVec 32 := 0
  /-- 10 R334; 32. -/
  drain : BitVec 32 := 0
  /-- 10 R334, R335; 8. -/
  size : Option Nat := none
  deriving DecidableEq, Repr, Inhabited

/-- A command in an engine queue. -/
structure QCmd where
  /-- 06 R176; 64..256 bytes. -/
  bytes : Bytes := []
  /-- 06 R210: address of its ISSUE; 48. -/
  pc : BitVec 64 := 0
  /-- 09 R295; 32. -/
  matrixIssued : BitVec 32 := 0
  /-- 07 R234; 1, a tile load that finished while an earlier pass goes on. -/
  finished : Bool := false
  /-- 07 R230, R234; 1: the array has taken the command. -/
  taken : Bool := false
  /-- 14 R449, R450; an error of the command's words: 1 uncorrectable. -/
  upset : Option Bool := none
  deriving DecidableEq, Repr, Inhabited

/-- An engine queue (R175, R177). -/
structure EQueue where
  /-- 06 R175; at most 32. -/
  cmds : List QCmd := []
  /-- 06 R177; 32. -/
  issued : BitVec 32 := 0
  /-- 06 R177; 32. -/
  done : BitVec 32 := 0
  deriving DecidableEq, Repr, Inhabited

/-- An active Drift stream (R329). -/
structure Stream where
  /-- 10 R324; 128 bytes. -/
  cmd : QCmd := {}
  /-- 10 R325; stream bytes fetched. -/
  pos : Nat := 0
  /-- 10 R328; slots filled. -/
  filled : Nat := 0
  /-- 10 R329; 32, its issue order. -/
  serial : BitVec 32 := 0
  deriving DecidableEq, Repr, Inhabited

/-- The pass of the head MX_STREAM in progress (R229, R231, R238). -/
structure Pass where
  /-- 07 R238; rows entered. -/
  row : Nat := 0
  /-- 07 R231; saturated outputs. -/
  satn : Nat := 0
  /-- 07 R231; status bits [2:0]. -/
  bits : Nat := 0
  /-- 07 R229; converted rows gathered of the block. -/
  block : List Bytes := []
  /-- 07 R238; output groups whose fill waits for the block. -/
  pend : Nat := 0
  deriving DecidableEq, Repr, Inhabited

/-- What AT_ATTEND holds between its last tile and the second check of the generations (R304, R307): the results to write, and the
generation, root and blocks of the tree it read. -/
structure AttendHeld where
  /-- 09 R304; offset and bytes. -/
  writes : List (Nat × Bytes) := []
  /-- 09 R274; counts. -/
  num : NumCounts := []
  /-- 07 R231; status bits [3:0]. -/
  bits : Nat := 0
  /-- 07 R231; saturated outputs. -/
  satn : Nat := 0
  /-- 10 R311; wide accesses of the writes. -/
  wide : Nat := 0
  /-- 09 R298; 48. -/
  root : Nat := 0
  /-- 09 R297; 32. -/
  gen : Nat := 0
  /-- 09 R299; addresses of the table blocks used. -/
  blocks : List Nat := []
  deriving DecidableEq, Repr, Inhabited

/-- One tile slot of the matrix array (R215). -/
structure TileSlot where
  /-- 07 R222; 1. -/
  loaded : Bool := false
  /-- 07 R215; 8. -/
  fmt : BitVec 8 := 0
  /-- 07 R215; 8. -/
  scale : BitVec 8 := 0
  /-- 07 R215, R223; 16384 or 32768 bytes, row-major. -/
  data : Bytes := []
  /-- 07 R223; 1024 bytes. -/
  scales : Bytes := []
  deriving DecidableEq, Repr, Inhabited

/-- The epoch record (R212, R213). -/
structure Epoch where
  /-- 06 R212; 32. -/
  number : BitVec 32 := 0
  /-- 06 R213; 0 open, 1 released, 2 discarded. -/
  state : Nat := 2
  /-- 06 R213; 3. -/
  part : Nat := 0
  /-- 06 R213; 32. -/
  jobId : BitVec 32 := 0
  /-- 06 R213; 16. -/
  task : Nat := 0
  /-- 06 R211; 16 x 64. -/
  counts : List Nat := List.replicate 16 0
  deriving DecidableEq, Repr, Inhabited

/-- One logical core (192 of them), with its scratchpad, registers, engines and run. -/
structure Core where
  /-- 05 R165, R138; enum. -/
  phase : CorePhase := .idle
  /-- 05 R165; serial of the job held. -/
  job : Nat := 0
  /-- 05 R165; 16. -/
  task : Nat := 0
  /-- 05 R167; 3. -/
  part : Nat := 0
  /-- 16 R527 run kinds; enum. -/
  kind : RunKind := .run
  /-- 06 R184; 64. -/
  pc : BitVec 64 := 0
  /-- 06 R181; 32 x 64. -/
  g : List (BitVec 64) := List.replicate 32 0
  /-- 06 R182; 8 x 1. -/
  p : List Bool := [true, false, false, false, false, false, false, false]
  /-- 06 R175; 5 queues. -/
  queues : List EQueue := List.replicate 5 {}
  /-- 06 R198-R200; stall of the control processor. -/
  stall : Option Stall := none
  /-- 06 R203; 1. -/
  fetchStopped : Bool := false
  /-- 05 R150; 16. -/
  stagingKib : Nat := 256
  /-- 05 R149; staged effects in order. -/
  effects : List Effect := []
  /-- 06 R183; bytes. -/
  stageUsed : Nat := 0
  /-- 06 R203; staged predicate value. -/
  pval : Option Bool := none
  /-- 12 R383, 10 R319; 23. -/
  resTop : Nat := 0
  /-- 10 R321; 1. -/
  cacheMode : Bool := false
  /-- 10 R321: an ISSUE has been made in this run; 1. -/
  issuedAny : Bool := false
  /-- 10 R322; LDV cache lines, most recent first. -/
  cacheLines : List CacheLine := []
  /-- 10 R309; 6 MiB. -/
  sp : Memory := []
  /-- 10 R310, R331; words with the missing mark. -/
  missing : List Nat := []
  /-- 10 R310, R331; words with the poison mark. -/
  poison : List Nat := []
  /-- 14 R450, R451; words with an uncorrectable error. -/
  badWords : List Nat := []
  /-- 14 R449; words with a single-bit error. -/
  flipWords : List Nat := []
  /-- 10 R331; first missing page of the run and its subcode. -/
  firstMiss : Option (BitVec 64 × Nat) := none
  /-- 10 R334; 64 tallies. -/
  tallies : List Tally := List.replicate 64 {}
  /-- 10 R329; at most 8. -/
  streams : List Stream := []
  /-- 10 R329; finished out of order commands. -/
  driftDone : List (BitVec 32) := []
  /-- 10 R333; bytes. -/
  credit : Int := 0
  /-- 10 R333; tick of the last addition of credit, or of the run's start. -/
  creditAt : Nat := 0
  /-- 10 R329; 32, serial of the stream served last. -/
  lastStream : BitVec 32 := 0
  /-- 07 R215; tile slot. -/
  slot0 : TileSlot := {}
  /-- 07 R215; tile slot. -/
  slot1 : TileSlot := {}
  /-- 07 R234, R238; pass in progress. -/
  pass : Pass := {}
  /-- 09 R304; AT_ATTEND's results before step 5. -/
  attend : Option AttendHeld := none
  /-- 07 R220; 2048 lines of 64 x 32 bits, unlisted lines zero. -/
  acc : List (Nat × List (BitVec 32)) := []
  /-- 14 R449, R450; errors of accumulator lines: line, 1 uncorrectable. -/
  accUpsets : List (Nat × Bool) := []
  /-- 08 R270; the run's numeric counts. -/
  numStore : NumCounts := []
  /-- 12 R388; resident changes held until the grant. -/
  held : List Held := []
  /-- 12 R391; (index, slot) first written by this run. -/
  building : List (Nat × Nat) := []
  /-- 12 R399; stash puts, spills, recomputes of the run. -/
  runPuts : Nat × Nat × Nat := (0, 0, 0)
  /-- 12 R383; at most 32. -/
  pillars : List Pillar := []
  /-- 06 R212; epoch record. -/
  epoch : Epoch := {}
  /-- 06 R213; record of the last closed epoch. -/
  frozen : Epoch := {}
  /-- 05 R169; ticks since the last charge. -/
  heldTicks : Nat := 0
  /-- 05 R169; ticks of this run charged so far. -/
  charged : Nat := 0
  /-- 05 R143; 8, class of the task held. -/
  cls : BitVec 8 := 0
  /-- 05 R173; ticks of the run. -/
  runTicks : Nat := 0
  /-- 05 R167; partition of the previous task. -/
  lastPart : Option Nat := none
  /-- 06 R184; job of the previous task. -/
  lastJob : Option Nat := none
  /-- 06 structure, R184; 256-byte lines held. -/
  icache : List Nat := []
  /-- 14 R449, R450; errors of instruction cache lines: line, 1 uncorrectable. -/
  icacheUpsets : List (Nat × Bool) := []
  /-- 14 R452; 12. -/
  scrubRow : Nat := 0
  /-- 10 R315; quad whose wide accesses are denied in the next slot. -/
  stealQuad : Option Nat := none
  /-- 11 R356; at most 48 request slots. -/
  slots : List ReqSlot := []
  /-- 11 R366; 64 entries. -/
  tlb : List TlbEntry := []
  /-- 14 R475; 7 x 32 reliability counters. -/
  rel : List Nat := List.replicate 7 0
  /-- 12 R393; 64. -/
  startTag : BitVec 64 := 0
  /-- 05 R141, 06 R202; 16, TASK_COUNT of the job held. -/
  taskCount : Nat := 0
  /-- 06 R212; 32, JOB_ID of the job held. -/
  jobId : BitVec 32 := 0
  /-- 14 R455, R458; the task's entry and recorded signals as they stood when the run was placed. -/
  start : TaskSt := {}
  /-- 14 R461; 64. -/
  crc : Option (BitVec 64) := none
  /-- 14 R456, R462; how a finished shadow or repeat run ended. -/
  ended : Option RunEnd := none
  /-- 14 R463: the arbiter's CRC that a dissenter's repeat is compared with; 64. -/
  dissentCrc : Option (BitVec 64) := none
  /-- 05 R154 step 5; 1. -/
  awaitAck : Bool := false
  /-- 05 R154 step 5; 1. -/
  signalsSent : Bool := false
  /-- 14 R464; VC0 messages dropped at a fenced core. -/
  droppedVc0 : Nat := 0
  deriving DecidableEq, Repr, Inhabited

/-- A line of the memory-side cache (tag state; the data is in dram). -/
structure MscLine where
  /-- 11 R350; DPA [38:8]. -/
  block : Nat := 0
  /-- 11 R350; 4. -/
  way : Nat := 0
  /-- 11 R355; 3. -/
  part : Option Nat := none
  /-- 11 R351; 1. -/
  dirty : Bool := false
  /-- 11 R352; use order. -/
  lru : Nat := 0
  /-- 11 R372; 32-byte sectors of the line with an uncorrectable error. -/
  bad : List Nat := []
  /-- 11 R353; 1: pinned by a Tipple. -/
  pinned : Bool := false
  /-- 11 R353, 13 R433; 1: a reorder slot of the accumulator line `block`, which holds a term and no block. -/
  reorder : Bool := false
  deriving DecidableEq, Repr, Inhabited

/-- A DRAM bank's queues and wake set. -/
structure Bank where
  /-- 11 R358; at most 32. -/
  coreQ : List Access := []
  /-- 11 R358; at most 4. -/
  edgeQ : List Access := []
  /-- 11 R359; wake set. -/
  wake : List Requester := []
  /-- 11 R359; last one woken. -/
  lastWoken : Option Requester := none
  /-- 11 R359; entries reserved, oldest first. -/
  reserved : List Requester := []
  /-- 11 R360; row. -/
  openRow : Option Nat := none
  /-- 11 R360; count. -/
  selections : Nat := 0
  /-- 11 R358, R359; refused accesses of edge agents. -/
  agentWait : List Access := []
  /-- 11 R343; refresh commands issued (model's own record). -/
  refreshes : Nat := 0
  /-- 11 R343; RFM commands issued (model's own record). -/
  rfms : Nat := 0
  deriving DecidableEq, Repr, Inhabited

/-- DRAM, memory-side cache, banks, scrub and translation. -/
structure Mem where
  /-- 11 R343; up to 512 GiB. -/
  dram : Memory := []
  /-- 11 R344, R354, R372; 32-byte sectors poisoned, in the line where one holds the block, else in DRAM. -/
  poison : List Nat := []
  /-- 11 R345; 32-byte bursts with an uncorrectable error, by where the DRAM lies. -/
  bad : List Nat := []
  /-- 11 R345; bursts with a single-bit error, by where the DRAM lies. -/
  flip : List Nat := []
  /-- 11 R350; lines held. -/
  msc : List MscLine := []
  /-- 11 R352; LRU order. -/
  useClock : Nat := 0
  /-- 11 R362; accesses that have entered a bank queue. -/
  arrivals : Nat := 0
  /-- 11 R357; 1024 banks, unlisted empty. -/
  banks : List (Nat × Bank) := []
  /-- 11 R381; 64 x (32, 32). -/
  ecc : List (Nat × Nat) := List.replicate 64 (0, 0)
  /-- 11 R381; 8 x 48. -/
  hits : List Nat := List.replicate 8 0
  /-- 11 R381; 8 x 48. -/
  misses : List Nat := List.replicate 8 0
  /-- 11 R381; 8 x 48. -/
  busy : List Nat := List.replicate 8 0
  /-- 14 R475; 8 x 32. -/
  tippleTransient : List Nat := List.replicate 8 0
  /-- 11 R375; 8. -/
  scrubCfg : BitVec 64 := 24
  /-- 11 R376; 8. -/
  retireCfg : BitVec 64 := 4
  /-- 11 R375; next block per channel. -/
  scrubPos : List Nat := List.replicate 64 0
  /-- 11 R376; corrected errors per page in the pass. -/
  ceInPass : List (Nat × Nat) := []
  /-- 11 R376; pages asked to be retired, with reason and group. -/
  retireReq : List (Nat × Nat × Nat) := []
  /-- 17 R546; 32. -/
  memcLockViol : Nat := 0
  /-- 17 R564; 2 x 48. -/
  walks : List Nat := [0, 0]
  /-- 17 R564; 2 x 48. -/
  walkHits : List Nat := [0, 0]
  /-- 11 R366; 2 x 4096. -/
  walkCache : List (List WalkEntry) := [[], []]
  /-- 11 R355; serial of the module key. -/
  moduleKeyEpoch : Nat := 0
  deriving DecidableEq, Repr, Inhabited

/-- A tenant session (R494-R498). -/
structure Session where
  /-- 15 R494; 32. -/
  id : BitVec 32 := 0
  /-- 15 R494; 256. -/
  kTd : Bytes := []
  /-- 15 R494; 256. -/
  kDt : Bytes := []
  /-- 15 R494; 512. -/
  hash : Bytes := []
  /-- 15 R498; SEQ accepted. -/
  accepted : List Nat := []
  /-- 15 R498; 64 next device SEQ. -/
  outSeq : Nat := 1
  deriving DecidableEq, Repr, Inhabited

/-- A partition: policy mirror, PART and TRC registers, counters, session, key. -/
structure Part where
  /-- 15 R489; 1. -/
  valid : Bool := false
  /-- 15 R489; 160 bytes of its policy entry. -/
  policy : Bytes := []
  /-- 15 R492; 1. -/
  zeroing : Bool := false
  /-- 11 R355, 15 R492; serial of its AES-XTS key. -/
  keySerial : Option Nat := none
  /-- 15 R495; active session. -/
  session : Option Session := none
  /-- 15 R495; pending offer. -/
  offer : Option Session := none
  /-- 17 R545; 1. -/
  locked : Bool := false
  /-- 17 R546; 32. -/
  lockViol : Nat := 0
  /-- 17 R556; 32. -/
  trcLockViol : Nat := 0
  /-- 05 R168; 64. -/
  service : Nat := 0
  /-- 05 R169; 16. -/
  carry : Nat := 0
  /-- 17 R554; 32. -/
  fetch : BitVec 64 := 0
  /-- 11 R370; 16. -/
  xlatCfg : BitVec 64 := 64
  /-- 17 R553; 64. -/
  collBase : BitVec 64 := 0
  /-- 17 R553; 9. -/
  collCount : BitVec 64 := 0
  /-- 17 R553; 8. -/
  sampleCore : BitVec 64 := 0
  /-- 17 R555; 18 x 64. -/
  sampleRec : List (BitVec 64) := List.replicate 18 0
  /-- 12 R399; 3 x 48. -/
  stash : Nat × Nat × Nat := (0, 0, 0)
  /-- 14 R475; 48. -/
  hwReplays : Nat := 0
  /-- 14 R475; 48. -/
  shadowRuns : Nat := 0
  /-- 14 R475; 48. -/
  shadowMis : Nat := 0
  /-- 14 R475; 48. -/
  shadowSkip : Nat := 0
  /-- 08 R269; 8 x 7 x 5 x 48. -/
  num : NumCounts := []
  /-- 16 R524; 64. -/
  trcBase : BitVec 64 := 0
  /-- 17 R556; 64. -/
  trcCfg : BitVec 64 := 0x0A020000#64
  /-- 16 R529; 53. -/
  trcWatch : BitVec 64 := 0
  /-- 16 R524; 32. -/
  trcHead : Nat := 0
  /-- 16 R524; 1. -/
  trcWrapped : Bool := false
  /-- 17 R556: base in effect; 64. -/
  trcActiveBase : BitVec 64 := 0
  /-- 17 R556: size in effect; 32. -/
  trcActiveSize : Nat := 0
  /-- 16 R528; records buffered by DBG. -/
  trcBuf : List Bytes := []
  /-- 16 R526; 16. -/
  trcSeq : BitVec 16 := 0
  /-- 16 R528; 64. -/
  trcDropped : Nat := 0
  /-- 13 R430; at most 1024. -/
  waitSignals : List LinkSignal := []
  /-- 13 R430, R433; SEND senders answered BUSY: node, collective key. -/
  busyWaiters : List (Nat × Nat) := []
  deriving DecidableEq, Repr, Inhabited

/-- One Vehild port (R407, R411). -/
structure PortSt where
  /-- 13 R411, 17 R558; enum. -/
  st : PortState := .down
  /-- 17 R558; 12. -/
  neighbour : Option Nat := none
  /-- 13 R411; 512. -/
  neighbourHash : Bytes := []
  /-- 17 R558; 32. -/
  protoErr : Nat := 0
  /-- 17 R558; 32. -/
  uncorrectable : Nat := 0
  /-- 13 R411; tick count. -/
  retryAt : Option Nat := none
  /-- 13 R415; 16 latest hop sequence received in order. -/
  rxSeq : BitVec 16 := 0
  /-- 13 R415; 16 next hop sequence. -/
  txSeq : BitVec 16 := 1
  /-- 13 R415; at most 512; flit, and the clear payload of one of this module's own. -/
  replay : List (Flit × Bytes) := []
  /-- 13 R418; credit held per VC. -/
  credits : List Nat := [32, 256, 256, 256]
  /-- 13 R418; credit to return. -/
  creditsOwed : List Nat := [0, 0, 0, 0]
  /-- 13 R415; 16. -/
  nakPending : Option (BitVec 16) := none
  /-- 13 R416; partial packets per VC. -/
  rxPackets : List (Nat × List Flit) := []
  /-- 13 R416, R418; own packets waiting for credit or a key. -/
  txq : List TxItem := []
  /-- 13 R418; flits from the other ring port, in its receive buffer until they leave. -/
  fwd : List Flit := []
  /-- 13 R416; per VC, whose packet is under way: 1 a forwarded one. -/
  mid : List (Option Bool) := [none, none, none, none]
  /-- 13 R419; 2 VC of VC1 to VC3 served last. -/
  lastVc : Nat := 3
  /-- 13 R414; 1: a flit received in order is not yet acknowledged. -/
  ackDue : Bool := false
  /-- 13 R414, 02 R46; flits that left by the port's transmit lanes (model's own record). -/
  sent : List Flit := []
  /-- 13 R443; beat. -/
  downSince : Option Nat := none
  deriving DecidableEq, Repr, Inhabited

/-- Keys with a peer node (R422, R504). -/
structure LinkKey where
  /-- 13 R422; 12. -/
  node : Nat := 0
  /-- 15 R504; 256. -/
  kOut : Bytes := []
  /-- 15 R504; 256. -/
  kIn : Bytes := []
  /-- 13 R424; 1. -/
  refused : Bool := false
  /-- 13 R422; 4 x 64. -/
  ctrOut : List Nat := [0, 0, 0, 0]
  /-- 13 R422; 4 x 64. -/
  ctrIn : List Nat := [0, 0, 0, 0]
  deriving DecidableEq, Repr, Inhabited

/-- Adding state of one line group (tile) of a bucket. -/
structure TileSt where
  /-- 13 R432; lines. -/
  lines : List LineSt := []
  /-- 13 R433; nodes answered BUSY. -/
  waiters : List Nat := []
  /-- 13 R437; LATE_RANK events written. -/
  lastLate : Nat := 0
  deriving DecidableEq, Repr, Inhabited

/-- A live bucket of an armed collective. -/
structure Bucket where
  /-- 13 R436; enum. -/
  st : BucketState := .closed
  /-- 13 R436; 44. -/
  openBeat : Nat := 0
  /-- 13 R437; 44 beats counted since opening. -/
  openedAt : Nat := 0
  /-- 13 R426; LINES_TOTAL. -/
  lines : Nat := 0
  /-- 13 R426; TILE_LINES. -/
  tileLines : Nat := 0
  /-- 13 R426; 1. -/
  zac : Bool := false
  /-- 13 R426; 64. -/
  resultVa : BitVec 64 := 0
  /-- 13 R434; 8. -/
  status : BitVec 8 := 0
  /-- 13 R439; 32. -/
  replaced : Nat := 0
  /-- 13 R432; tiles. -/
  tiles : List TileSt := []
  /-- 13 R436; lines whose result is written. -/
  written : List Nat := []
  /-- 13 R437; 1. -/
  gaveUp : Bool := false
  deriving DecidableEq, Repr, Inhabited

/-- An armed collective (R425, R427). -/
structure Coll where
  /-- 13 R425; 3. -/
  part : Nat := 0
  /-- 13 R425; 8. -/
  number : Nat := 0
  /-- 13 R425; 128 bytes. -/
  desc : CollDesc := {}
  /-- 13 R425; node, port per rank. -/
  nodes : List (Nat × Nat) := []
  /-- 13 R428; 44. -/
  baseBeat : Nat := 0
  /-- 13 R436; buckets. -/
  buckets : List Bucket := []
  /-- 13 R430; ranks whose BARRIER_ARRIVE came. -/
  arrivals : List Nat := []
  /-- 16 R519; rank, T1, T2. -/
  arriveStamps : List (Nat × BitVec 64 × BitVec 64) := []
  /-- 13 R430; BARRIER_ARRIVE signals kept. -/
  keptSignals : List LinkSignal := []
  /-- 16 R519; 64. -/
  t1 : BitVec 64 := 0
  /-- 13 R430; PERMUTE signals held. -/
  permuteHeld : List LinkSignal := []
  /-- 13 R430; 1. -/
  permuteFired : Bool := false
  deriving DecidableEq, Repr, Inhabited

/-- Links, collectives and link keys. -/
structure Lnk where
  /-- 13 R413; 12. -/
  node : BitVec 64 := 0
  /-- 17 R558; 48. -/
  cfg : BitVec 64 := 0x643F#64
  /-- 13 R407; 6 ports. -/
  ports : List PortSt := List.replicate 6 {}
  /-- 17 R558; 32. -/
  unmatched : Nat := 0
  /-- 17 R558; 32. -/
  lockViol : Nat := 0
  /-- 13 R422; link keys. -/
  keys : List LinkKey := []
  /-- 15 R503; offers made: node, offer, secret handle. -/
  offers : List (Nat × Bytes × Bytes) := []
  /-- 13 R427; armed collectives. -/
  colls : List Coll := []
  /-- 13 R424, R433; packets sent and not acknowledged. -/
  tx : List TxPacket := []
  /-- 13 R416; last TAG per (node, vc). -/
  txTag : List (Nat × Nat × Nat) := []
  /-- 13 R424; completed TAGs (node, vc, tag). -/
  rxDone : List (Nat × Nat × Nat) := []
  /-- 13 R427; ARMs delivered to COLL. -/
  armPending : List ArmReq := []
  /-- 13 R416, R430; ACK, BUSY, WAKE and barrier packets sent (model's own record). -/
  ctl : List Packet := []
  /-- 13 R433, R436; nodes answered BUSY for a CLOSED bucket: node, key, bucket. -/
  keyWaiters : List (Nat × Nat × Nat) := []
  /-- 13 R436; collectives that a partition reset took, not armed since: their buckets are CLOSED. -/
  past : List Coll := []
  /-- 13 R416; packets assembled, to be handled by their rows. -/
  recvPend : List Packet := []
  /-- 17 R564; 32. -/
  collLockViol : Nat := 0
  deriving DecidableEq, Repr, Inhabited

/-- The TIME domain (chapter 16). -/
structure TimeSt where
  /-- 16 R507; 1. -/
  on : Bool := false
  /-- 16 R506; 44. -/
  beat : BitVec 44 := 0
  /-- 16 R510; 24. -/
  et : Nat := 0
  /-- 16 R508, R512; beats counted, real and synthesised (model's own record). -/
  counted : Nat := 0
  /-- 16 R510, R516; 20. -/
  period : Nat := 0
  /-- 16 R510; last 16 measured intervals. -/
  intervals : List Nat := []
  /-- 16 R510; 1: the last beat was a real edge and the interval is measurable. -/
  lastReal : Bool := false
  /-- 16 R510; 1. -/
  locked : Bool := false
  /-- 16 R512; 1. -/
  holdoverActive : Bool := false
  /-- 16 R514; 1. -/
  stopped : Bool := false
  /-- 16 R513; beats synthesised in this holdover. -/
  synthesised : Nat := 0
  /-- 16 R516; 32. -/
  glitches : Nat := 0
  /-- 17 R559; 32. -/
  cadCfg : BitVec 64 := 0x3E804#64
  /-- 16 R521; 12. -/
  sync : BitVec 64 := 0
  /-- 16 R521; pending beat adoption. -/
  adoptK : Option Int := none
  /-- 16 R507; ticks since B0. -/
  ticks : Nat := 0
  /-- 16 R534; ns since VDD_HK came up (STAMP counts 10 ns periods). -/
  mgmtTicks : Nat := 0
  /-- 02 R69, R70; 1: level of CADENCE_IN+ relative to CADENCE_IN-. -/
  cadenceIn : Bool := false
  /-- 02 R69; ticks since the last rising edge of CADENCE_IN. -/
  cadenceHigh : Nat := 0
  /-- 02 R70; 1. -/
  cadenceOut : Bool := false
  /-- 02 R70; rising edges driven on CADENCE_OUT (model's own record). -/
  cadenceEdges : Nat := 0
  /-- 16 R515; 20. -/
  srcTimer : Nat := 0
  /-- 17 R559; 32. -/
  lockViol : Nat := 0
  deriving DecidableEq, Repr, Inhabited

/-- The pit log (chapter 16). -/
structure Plog where
  /-- 16 R538; 1. FREEZE reads 1 with it (log 102). -/
  frozen : Bool := false
  /-- 16 R538, 00 R12; 1: UNFREEZE as it reads back (log 102). -/
  unfroze : Bool := false
  /-- R536; circular sector whose erase lost its power. -/
  halfErased : Option Nat := none
  /-- 16 R536; circular sector being erased. -/
  erasing : Option Nat := none
  /-- 16 R537; at most 64 records. -/
  buffer : List Bytes := []
  /-- 16 R538; 64. -/
  newest : Nat := 0
  /-- 16 R538; 64. -/
  flashed : Nat := 0
  /-- 16 R534; 32. -/
  dropped : Nat := 0
  /-- 16 R532; 32 x 20. -/
  trig : List (BitVec 64) := List.replicate 32 0
  /-- 17 R560; 8 x 6. -/
  listCount : List (BitVec 64) := List.replicate 8 0
  /-- 17 R560; 8 x 56 x 24. -/
  lists : List (BitVec 32) := List.replicate 448 0
  /-- 16 R539; 15, management interface's. -/
  cursor : BitVec 32 := 0
  /-- 17 R560; 32. -/
  lockViol : Nat := 0
  deriving DecidableEq, Repr, Inhabited

/-- A security request accepted by GO and not yet answered. -/
structure Mbox where
  /-- 15 R481; who. -/
  win : Window := .mgmt
  /-- 15 R483; request bytes. -/
  req : Bytes := []
  deriving DecidableEq, Repr, Inhabited

/-- Identity, owner, policy and mailboxes (chapter 15). -/
structure Sec where
  /-- 15 R488; 256. -/
  challenge : Option Bytes := none
  /-- 15 R493; 5971 bytes of the applied policy. -/
  policyApplied : Option Bytes := none
  /-- 15 R490; 64. -/
  lastSeq : Option Nat := none
  /-- 15 R482; requests in GO order. -/
  queue : List Mbox := []
  /-- 17 R566; 16 KiB mailbox buffer. -/
  mgmtBuf : List (Nat × BitVec 8) := []
  /-- 15 R481; 1. -/
  mgmtBusy : Bool := false
  /-- 15 R494; sessions numbered. -/
  sessionSerial : Nat := 0
  /-- 15 R492; keys generated. -/
  keySerial : Nat := 0
  deriving DecidableEq, Repr, Inhabited

/-- The management block and transport (chapter 17). -/
structure Mgt where
  /-- 17 R563; 11. -/
  events : BitVec 64 := 0
  /-- 17 R561; 11. -/
  mask : BitVec 64 := 0
  /-- 17 R545; 1. -/
  locked : Bool := false
  /-- 17 R561; 32. -/
  lockViol : Nat := 0
  /-- 17 R566; 24. -/
  pointer : Nat := 0
  /-- 17 R567; 8. -/
  cmdStatus : BitVec 8 := 0
  /-- 17 R561; 32. -/
  refusedCount : Nat := 0
  /-- 17 R566; bytes of the last answer on SMBus or PMBus (model's own record). -/
  reply : Bytes := []
  /-- 17 R564; 32. -/
  pwrLockViol : Nat := 0
  /-- 17 R564; 32. -/
  xlatLockViol : Nat := 0
  /-- 02 R60; 8, the PEC appended to the last block read. -/
  replyPec : Option (BitVec 8) := none
  /-- 14 R471; 1. -/
  fatal : Bool := false
  deriving DecidableEq, Repr, Inhabited

/-- The Winder and the cluster schedulers. -/
structure Wnd where
  /-- 05 R163; at most 1024. -/
  jobs : List Job := []
  /-- 05 R163; next job serial. -/
  serial : Nat := 0
  /-- 05 R163; serial of each job in jobs. -/
  serials : List Nat := []
  /-- 17 R552; 16. -/
  pollCfg : BitVec 64 := 0x0804#64
  /-- 17 R552; 32. -/
  lockViol : Nat := 0
  /-- 05 R153; committed signals in flight. -/
  signals : List Signal := []
  /-- 01 R34, R35; 16 clusters. -/
  clusters : List ClusterSt := List.replicate 16 .stopped
  /-- 16 R527; 16 x 64. -/
  gapStamp : List (BitVec 64) := List.replicate 16 0
  /-- 14 R464; fenced cores. -/
  fenced : List Nat := []
  /-- 01 R35; VC0 messages (WAKE of a channel and bank) held for a core whose cluster's clock restarts. -/
  heldWakes : List (Nat × Nat × Nat) := []
  deriving DecidableEq, Repr, Inhabited

/-- The mesh and its failed routers. -/
structure Mesh where
  /-- 14 R475; 256 x 32. -/
  retries : List Nat := List.replicate 256 0
  /-- 14 R468; failed routers. -/
  failed : List (Nat × Nat) := []
  /-- 14 R468; 1. -/
  injectStopped : Bool := false
  /-- 17 R565; 32. -/
  coreLockViol : Nat := 0
  deriving DecidableEq, Repr, Inhabited

/-- The whole machine: every piece of state the spec gives the LX-960, and the queue of waiting commands. -/
structure State where
  /-- Power, pins, rails, bypass, phase (02, 03). -/
  pwr : Pwr := {}
  /-- Flash and boot records (03, 14, 15). -/
  flash : Flash := {}
  /-- Four host links (04). -/
  links : List HostLink := List.replicate 4 {}
  /-- Winder, jobs, clusters (05). -/
  wnd : Wnd := {}
  /-- 192 logical cores (06-10, 12). -/
  cores : List Core := List.replicate 192 {}
  /-- DRAM, memory-side cache, banks, translation (11). -/
  mem : Mem := {}
  /-- Eight partitions (05, 15, 17). -/
  parts : List Part := List.replicate 8 {}
  /-- Vehild ports, collectives, link keys (13). -/
  lnk : Lnk := {}
  /-- Mesh routers (01, 14). -/
  mesh : Mesh := {}
  /-- Timebase and cadence (16). -/
  time : TimeSt := {}
  /-- Pit log (16). -/
  plog : Plog := {}
  /-- Identity, owner, policy, mailboxes (15). -/
  sec : Sec := {}
  /-- Management interface (17). -/
  mgt : Mgt := {}
  /-- The MODEL's own counter of free values drawn (no state of the spec). -/
  fresh : Nat := 0
  /-- The queue of waiting commands, first in, first out (the block's interface). -/
  pending : List Instr := []
  deriving DecidableEq, Repr, Inhabited

/-- The machine right after reset: standby on VDD_HK with nothing else powered (log 1). -/
def State.reset : State := {}

/-- Reasons to stop with a fault. The model needs none: every outcome the spec describes is a next state. -/
inductive Fault where
  /-- Raised by nothing. Stands for a behaviour the spec leaves unspecified as a whole (R5); stopping there is safe. -/
  | unspecified
  deriving DecidableEq, Repr

/-- Reasons to refuse a command. -/
inductive Refusal where
  /-- Raised only by the dispatcher, for a command that has no meaning yet; stopping there is safe. -/
  | notModelled (mnemonic : String)
  deriving DecidableEq, Repr

end Sys2Proof.Machine
end

