-- ==== Sys2Proof/Machine/Ops.lean ====
section
/-! DEFINITION. Named access to the parts of the state: cores, partitions, functions, policy fields, memories, stamps. -/

namespace Sys2Proof.Machine

/-- What a command answers. -/
abbrev Res := Host.Outcome State Fault Refusal

/-- Logical core `n`. -/
def State.core (s : State) (n : Nat) : Core := s.cores.getD n {}
/-- Change logical core `n`. -/
def State.modCore (s : State) (n : Nat) (f : Core → Core) : State := { s with cores := s.cores.modify n f }
/-- Partition `p`. -/
def State.part (s : State) (p : Nat) : Part := s.parts.getD p {}
/-- Change partition `p`. -/
def State.modPart (s : State) (p : Nat) (f : Part → Part) : State := { s with parts := s.parts.modify p f }
/-- Host link `k`. -/
def State.link (s : State) (k : Nat) : HostLink := s.links.getD k {}
/-- Change host link `k`. -/
def State.modLink (s : State) (k : Nat) (f : HostLink → HostLink) : State := { s with links := s.links.modify k f }
/-- Function `f` of host link `k`. -/
def State.fn (s : State) (k f : Nat) : Fn := (s.link k).fns.getD f {}
/-- Change function `f` of host link `k`. -/
def State.modFn (s : State) (k f : Nat) (g : Fn → Fn) : State :=
  s.modLink k (fun l => { l with fns := l.fns.modify f g })
/-- Vehild port `p`. -/
def State.port (s : State) (p : Nat) : PortSt := s.lnk.ports.getD p {}
/-- Change Vehild port `p`. -/
def State.modPort (s : State) (p : Nat) (f : PortSt → PortSt) : State :=
  { s with lnk := { s.lnk with ports := s.lnk.ports.modify p f } }
/-- Regulator `r`. -/
def State.rail (s : State) (r : Nat) : Rail := s.pwr.rails.getD r {}
/-- Change regulator `r`. -/
def State.modRail (s : State) (r : Nat) (f : Rail → Rail) : State :=
  { s with pwr := { s.pwr with rails := s.pwr.rails.modify r f } }
/-- Change the power state. -/
def State.modPwr (s : State) (f : Pwr → Pwr) : State := { s with pwr := f s.pwr }
/-- Change the flash state. -/
def State.modFlash (s : State) (f : Flash → Flash) : State := { s with flash := f s.flash }
/-- Change the Winder. -/
def State.modWnd (s : State) (f : Wnd → Wnd) : State := { s with wnd := f s.wnd }
/-- Change DRAM and its controllers. -/
def State.modMem (s : State) (f : Mem → Mem) : State := { s with mem := f s.mem }
/-- Change the links and collectives. -/
def State.modLnk (s : State) (f : Lnk → Lnk) : State := { s with lnk := f s.lnk }
/-- Change TIME. -/
def State.modTime (s : State) (f : TimeSt → TimeSt) : State := { s with time := f s.time }
/-- Change the pit log. -/
def State.modPlog (s : State) (f : Plog → Plog) : State := { s with plog := f s.plog }
/-- Change SEC. -/
def State.modSec (s : State) (f : Sec → Sec) : State := { s with sec := f s.sec }
/-- Change MGMT. -/
def State.modMgt (s : State) (f : Mgt → Mgt) : State := { s with mgt := f s.mgt }
/-- Change the mesh. -/
def State.modMesh (s : State) (f : Mesh → Mesh) : State := { s with mesh := f s.mesh }

/-- Draw a free value: the counter read and advanced (log 6). -/
def State.draw (s : State) : Nat × State := (s.fresh, { s with fresh := s.fresh + 1 })

/-- The module is in the running state. -/
def State.running (s : State) : Bool := s.pwr.phase == .running
/-- The module runs work: running and no module-fatal fault (R471). -/
def State.active (s : State) : Bool := s.running && !s.mgt.fatal

/-- Number of host links that the held straps select (R40). -/
def State.linkCount (s : State) : Nat :=
  match s.pwr.strap.toNat with
  | 3 => 1 | 2 => 2 | 1 => 4 | _ => 0

/-- Default byte of flash: erased (R535, log 3). -/
def flashD : Byte := 0xFF#8
/-- Default byte of DRAM, scratchpad and host memory (log 2, log 7, log 9). -/
def ramD : Byte := 0#8

/-- Flash bytes. -/
def State.flashRead (s : State) (a n : Nat) : Bytes := Mem1.read flashD s.flash.bytes a n
/-- Program flash bytes. -/
def State.flashWrite (s : State) (a : Nat) (bs : Bytes) : State :=
  s.modFlash (fun f => { f with bytes := Mem1.write flashD f.bytes a bs })
/-- Erase a 64 KiB flash sector at byte address `a`. -/
def State.flashErase (s : State) (a : Nat) : State :=
  s.modFlash (fun f => { f with bytes := Mem1.keep (fun k => !(decide (a ≤ k) && decide (k < a + 65536))) f.bytes })

/-- Key of host address `a` under function `f`'s requester ID: a host IOMMU isolates functions as separate devices (R105). -/
def hostKey (f a : Nat) : Nat := f * 2 ^ 64 + a

/-- Write bytes into the memory of a host with the requester ID of function `f` (R102, R105). -/
def State.hostWrite (s : State) (k f a : Nat) (bs : Bytes) : State :=
  s.modLink k (fun l => { l with hostMem := Mem1.write ramD l.hostMem (hostKey f a) bs })

/-- Scratchpad bytes of a core. -/
def Core.spRead (c : Core) (a n : Nat) : Bytes := Mem1.read ramD c.sp a n

/-- The 128-bit words that bytes [a, a + n) touch. -/
def wordsOf (a n : Nat) : List Nat := if n = 0 then [] else (List.range ((a + n - 1) / 16 - a / 16 + 1)).map (· + a / 16)

/-- Scratchpad write: new data replaces the marks and errors of each touched word (R310, R450). -/
def Core.spWrite (c : Core) (a : Nat) (bs : Bytes) : Core :=
  let ws := wordsOf a bs.length
  let out (l : List Nat) := l.filter (fun w => !ws.contains w)
  { c with sp := Mem1.write ramD c.sp a bs, missing := out c.missing, poison := out c.poison,
           badWords := out c.badWords, flipWords := out c.flipWords }

/-- STAGE_BASE of R319. -/
def Core.stageBase (c : Core) : Nat := 0x600000 - 1024 * c.stagingKib
/-- WORK_TOP of R319. -/
def Core.workTop (c : Core) : Nat := if c.cacheMode then 0x400000 else c.stageBase

/-- General register `r`; g0 reads zero (R181). -/
def Core.reg (c : Core) (r : Nat) : BitVec 64 := if r = 0 then 0 else c.g.getD r 0
/-- Write general register `r`; a write to g0 is discarded (R181). -/
def Core.setReg (c : Core) (r : Nat) (v : BitVec 64) : Core := if r = 0 then c else { c with g := c.g.set r v }
/-- Predicate register `r`; p0 reads 1 (R182). -/
def Core.pred (c : Core) (r : Nat) : Bool := if r = 0 then true else c.p.getD r false
/-- Write predicate register `r`; a write to p0 is discarded (R182, R194). -/
def Core.setPred (c : Core) (r : Nat) (v : Bool) : Core := if r = 0 then c else { c with p := c.p.set r v }
/-- Engine queue `q`. -/
def Core.queue (c : Core) (q : Nat) : EQueue := c.queues.getD q {}
/-- Change engine queue `q`. -/
def Core.modQueue (c : Core) (q : Nat) (f : EQueue → EQueue) : Core := { c with queues := c.queues.modify q f }
/-- Tally `t`. -/
def Core.tally (c : Core) (t : Nat) : Tally := c.tallies.getD t {}
/-- Change tally `t`. -/
def Core.modTally (c : Core) (t : Nat) (f : Tally → Tally) : Core := { c with tallies := c.tallies.modify t f }
/-- Add to performance counter `k` of the open epoch (R211). -/
def Core.count (c : Core) (k n : Nat) : Core :=
  { c with epoch := { c.epoch with counts := c.epoch.counts.modify k (fun x => (x + n) % 2 ^ 64) } }
/-- Add to reliability counter `k` of a core (R475). -/
def Core.countRel (c : Core) (k : Nat) : Core := { c with rel := c.rel.modify k (fun x => satAdd 32 x 1) }

/-- Logical core `n` is the attention core of its cluster (R23). -/
def isAttention (n : Nat) : Bool := n % 12 == 0
/-- The cluster of a logical core (R23). -/
def clusterOf (n : Nat) : Nat := n / 12

/-- Router row and column of bit `b` of cluster `c`'s harvest entry (R20, R472). -/
def clusterPos (c b : Nat) : Nat × Nat := ((if c < 8 then 1 else 8) + b / 2, 2 * (c % 8) + b % 2)

/-- Harvest bits of the attention row: row 4 in clusters 0 to 7, row 11 in clusters 8 to 15 (R22). -/
def attnBit (attnHigher : Bool) : Nat := if attnHigher then 7 else 6

/-- Physical position of a logical core (R20 to R23): the attention core first, then the other enabled cores in order of
row and column. -/
def State.corePos (s : State) (n : Nat) : Nat × Nat :=
  let c := clusterOf n
  let en := (s.flash.enable.getD c 0).toNat
  let ab := attnBit (s.flash.attn.getD c false)
  let others := (List.range 14).filter (fun b => bitOf en b && b != ab)
  clusterPos c (if n % 12 = 0 then ab else others.getD (n % 12 - 1) 0)

/-- Field of a partition's policy entry (R489). -/
def Part.pol (p : Part) (off n : Nat) : Nat := field p.policy off n
/-- Policy flag bit (R489). -/
def Part.flag (p : Part) (b : Nat) : Bool := bitOf (p.pol 0 1) b
/-- Share weight W_p (R168). -/
def Part.share (p : Part) : Nat := p.pol 2 2
/-- Way mask (R352). -/
def Part.mscWays (p : Part) : Nat := p.pol 8 2
/-- Live-job limit. -/
def Part.liveJobs (p : Part) : Nat := p.pol 10 2
/-- Live-task limit. -/
def Part.taskLimit (p : Part) : Nat := p.pol 12 4
/-- Largest staging size. -/
def Part.maxStaging (p : Part) : Nat := p.pol 16 2
/-- Run-time limit in ticks; 0 means none (R173). -/
def Part.runLimit (p : Part) : Nat := p.pol 24 8
/-- Logical core `n` is in the policy's pool. -/
def Part.inPool (p : Part) (n : Nat) : Bool := p.valid && bitOf (p.pol 32 24) n
/-- The partition's DPA ranges in order: base and size in bytes (R348). -/
def Part.ranges (p : Part) : List (Nat × Nat) :=
  (List.range 4).filterMap (fun i =>
    let n := p.pol (66 + 4 * i) 2
    if n = 0 then none else some (p.pol (64 + 4 * i) 2 * 2 ^ 28, n * 2 ^ 28))
/-- Capacity in bytes (R348). -/
def Part.capacity (p : Part) : Nat := p.ranges.foldl (fun a r => a + r.2) 0
/-- A DPA lies in the partition's ranges (R349). -/
def Part.owns (p : Part) (dpa : Nat) : Bool := p.ranges.any (fun r => decide (r.1 ≤ dpa) && decide (dpa < r.1 + r.2))
/-- DPA of capacity byte `x` (R365). -/
def dpaOfCapacity : List (Nat × Nat) → Nat → Nat
  | [], _ => 0
  | (b, n) :: t, x => if x < n then b + x else dpaOfCapacity t (x - n)
/-- PART_STATE of R479. -/
def Part.stateCode (p : Part) : Nat :=
  if !p.valid then 0 else if p.zeroing then 1 else if p.session.isSome then 3 else 2

/-- The partition that a function serves (R104, R489). -/
def State.fnPart (s : State) (k f : Nat) : Option Nat :=
  (List.range 8).find? (fun p => (s.part p).valid && bitOf ((s.part p).pol (4 + k) 1) f)

/-- The functions that serve a partition, as (link, function). -/
def State.partFns (s : State) (p : Nat) : List (Nat × Nat) :=
  (List.range 4).flatMap (fun k => (List.range 8).filterMap (fun f =>
    if s.fnPart k f = some p then some (k, f) else none))

/-- A core is fenced (R464). -/
def State.isFenced (s : State) (n : Nat) : Bool := s.wnd.fenced.contains n
/-- A core is in a partition's pool and not fenced (R164). -/
def State.inPool (s : State) (p n : Nat) : Bool := decide (n < 192) && (s.part p).inPool n && !s.isFenced n

/-- TICKS of R506: ET held at 0xF_FFFF, and at that value while the cadence is stopped (R514). -/
def TimeSt.ticks20 (t : TimeSt) : Nat := if t.stopped then 0xFFFFF else min t.et 0xFFFFF
/-- The current time-stamp (R506). -/
def State.stamp (s : State) : BitVec 64 := BitVec.ofNat 64 (s.time.beat.toNat * 2 ^ 20 + s.time.ticks20)

/-- BEAT limit of R509. -/
def beatMax : Nat := 2 ^ 44 - 1

/-- Bytes of DRAM (R1, R346). -/
def State.dramBytes (s : State) : Nat := if s.flash.orderIs256 then 2 ^ 38 else 2 ^ 39
/-- Spare base (R346). -/
def State.spareBase (s : State) : Nat := s.dramBytes - 2 ^ 28

/-- DRAM bytes at a DPA. -/
def State.dramRead (s : State) (a n : Nat) : Bytes := Mem1.read ramD s.mem.dram a n
/-- The 32-byte sectors that [a, a + n) touches. -/
def sectorsOf (a n : Nat) : List Nat := if n = 0 then [] else (List.range ((a + n - 1) / 32 - a / 32 + 1)).map (· + a / 32)
/-- The line of the memory-side cache that holds a block (R350); a reorder slot holds none (R433). -/
def Mem.line (m : Mem) (block : Nat) : Option MscLine := m.msc.find? (fun l => l.block == block && !l.reorder)
/-- Where an address's DRAM lies: a retired page lies in its spare page (R377). The data is kept by the address itself. -/
def State.remap (s : State) (d : Nat) : Nat :=
  match s.flash.retired.findIdx? (fun e => e.page == d / 65536) with
  | some k => s.spareBase + 65536 * k + d % 65536
  | none => d
/-- Where a sector's DRAM burst lies (R377). -/
def State.burstOf (s : State) (x : Nat) : Nat := s.remap (32 * x) / 32
/-- A read of the sector finds an uncorrectable error: in the line that holds it, or else in its burst (R345, R372). -/
def State.sectorBad (s : State) (x : Nat) : Bool :=
  match s.mem.line (x / 8) with
  | some l => l.bad.contains x
  | none => s.mem.bad.contains (s.burstOf x)
/-- Some sector of [a, a + n) is poisoned or holds an uncorrectable error (R345, R372). -/
def State.dramPoisoned (s : State) (a n : Nat) : Bool := (sectorsOf a n).any (fun x => s.mem.poison.contains x || s.sectorBad x)
/-- Sectors that [a, a + n) covers whole. -/
def wholeSectors (a n : Nat) : List Nat := (sectorsOf a n).filter (fun x => decide (a ≤ 32 * x) && decide (32 * x + 32 ≤ a + n))
/-- Memory bytes change: a write that covers a whole sector clears its poison and an error of its line, or of its burst when no
line holds it (R354). -/
def State.dramWrite (s : State) (a : Nat) (bs : Bytes) : State :=
  let whole := wholeSectors a bs.length
  let bursts := (whole.filter (fun x => (s.mem.line (x / 8)).isNone)).map s.burstOf
  s.modMem (fun m => { m with dram := Mem1.write ramD m.dram a bs,
                              poison := m.poison.filter (fun x => !whole.contains x),
                              bad := m.bad.filter (fun x => !bursts.contains x),
                              flip := m.flip.filter (fun x => !bursts.contains x),
                              msc := m.msc.map (fun l => { l with bad := l.bad.filter (fun x => !whole.contains x) }) })
/-- Mark a DRAM sector poisoned (R344). -/
def State.dramPoison (s : State) (x : Nat) : State := s.modMem (fun m => { m with poison := insertSorted x m.poison })

/-- The job with a serial, if it is live. -/
def Wnd.job (w : Wnd) (ser : Nat) : Option Job :=
  match w.serials.findIdx? (· == ser) with
  | some i => w.jobs[i]?
  | none => none
/-- The job with a serial. -/
def State.job (s : State) (ser : Nat) : Option Job := s.wnd.job ser
/-- Change the job with a serial. -/
def State.modJob (s : State) (ser : Nat) (f : Job → Job) : State :=
  match s.wnd.serials.findIdx? (· == ser) with
  | some i => s.modWnd (fun w => { w with jobs := w.jobs.modify i f })
  | none => s
/-- Remove the job with a serial from the table. -/
def State.dropJob (s : State) (ser : Nat) : State :=
  match s.wnd.serials.findIdx? (· == ser) with
  | some i => s.modWnd (fun w => { w with jobs := w.jobs.eraseIdx i, serials := w.serials.eraseIdx i })
  | none => s
/-- Task `t` of the job with a serial. -/
def State.task (s : State) (ser t : Nat) : Option TaskSt := (s.job ser).bind (fun j => j.tasks[t]?)
/-- Change task `t` of the job with a serial. -/
def State.modTask (s : State) (ser t : Nat) (f : TaskSt → TaskSt) : State :=
  s.modJob ser (fun j => { j with tasks := j.tasks.modify t f })
/-- All jobs with their serials, in the order they were consumed. -/
def State.jobList (s : State) : List (Nat × Job) := List.zip s.wnd.serials s.wnd.jobs

/-- Live tasks of the module's scoreboard (R163). -/
def State.liveTasks (s : State) : Nat :=
  s.wnd.jobs.foldl (fun n j => if j.phase = .live then n + j.tasks.length else n) 0
/-- Live tasks of a partition (R163). -/
def State.liveTasksOf (s : State) (p : Nat) : Nat :=
  s.wnd.jobs.foldl (fun n j => if j.phase = .live ∧ j.part = p then n + j.tasks.length else n) 0
/-- Live jobs of a partition (R163). -/
def State.liveJobsOf (s : State) (p : Nat) : Nat := (s.wnd.jobs.filter (fun j => j.part == p)).length

/-- SOURCE of an edge agent at a router (R131). -/
def agentSource (row column : Nat) : BitVec 16 := BitVec.ofNat 16 (0x8000 + row * 256 + column)
/-- SOURCE of a logical core (R131). -/
def coreSource (n : Nat) : BitVec 16 := BitVec.ofNat 16 n

/-- Routers of the edge agents that write events (R18). -/
def srcWinder : BitVec 16 := agentSource 0 7
/-- Security engine (R18). -/
def srcSec : BitVec 16 := agentSource 0 8
/-- Management interface (R18). -/
def srcMgmt : BitVec 16 := agentSource 0 9
/-- Timebase and cadence (R18). -/
def srcTime : BitVec 16 := agentSource 15 6
/-- Collective sequencer (R18). -/
def srcColl : BitVec 16 := agentSource 15 7
/-- Trace and pit log (R18). -/
def srcDbg : BitVec 16 := agentSource 15 8
/-- A Vehild port by port code (R18, R407). -/
def srcPort (p : Nat) : BitVec 16 :=
  match p with
  | 0 => agentSource 15 15 | 1 => agentSource 0 0 | 2 => agentSource 0 3 | 3 => agentSource 0 12
  | 4 => agentSource 15 3 | _ => agentSource 15 12
/-- Row of a memory group's routers (R18). -/
def groupRow (g : Nat) : Nat := if g < 4 then 0 else 15
/-- Lower column of a memory group's two routers; the higher is the next one (R18). -/
def groupColumn (g : Nat) : Nat := (fun (i : Nat) => if i = 0 then 1 else if i = 1 then 4 else if i = 2 then 10 else 13) (g % 4)
/-- Lower router of a memory group (R18). -/
def srcGroup (g : Nat) : BitVec 16 := agentSource (groupRow g) (groupColumn g)

/-- An owner is enrolled: the owner area holds a record (R486). -/
def State.ownerEnrolled (s : State) : Bool := field (s.flashRead 0x50000 4) 0 4 == 0x4C584F57

end Sys2Proof.Machine
end

