-- ==== Sys2Proof/Machine/RegRead.lean ====
section
/-! DEFINITION. The value every register reads as, window by window (R542 to R565, R506, R516, R538, R539). -/

namespace Sys2Proof.Machine

/-- A register: its width in bytes and its value. -/
abbrev RegVal := Nat × BitVec 64

/-- A 64-bit register with a numeric value. -/
def reg64 (x : Nat) : Option RegVal := some (8, BitVec.ofNat 64 x)
/-- A 4-byte register with a numeric value. -/
def reg32 (x : Nat) : Option RegVal := some (4, BitVec.ofNat 64 (x % 2 ^ 32))

/-- HIF.RING_STATE (R547). -/
def Fn.ringState (f : Fn) : Nat :=
  f.sq.head + f.cq.tail * 2 ^ 16 + f.eq.tail * 2 ^ 32 + b2n f.cq.phase * 2 ^ 48 + b2n f.eq.phase * 2 ^ 49

/-- HIF.RING_CTRL (R549). -/
def Fn.ringCtrl (f : Fn) : Nat := b2n f.sq.en + 2 * b2n f.cq.en + 4 * b2n f.eq.en

/-- The HIF block of a function (R547, R548, R550). -/
def State.hifReg (s : State) (k f o : Nat) : Option RegVal :=
  let fn := s.fn k f
  let pf := f == 0
  let p := s.fnPart k f
  if o = 0x000 then reg64 (f + 16 * k + 256 * (p.getD 0xFF))
  else if o = 0x008 then
    reg64 (b2n fn.configError + 2 * b2n p.isSome + 4 * b2n fn.locked
      + 8 * b2n ((p.map (fun q => (s.part q).locked)).getD false) + 16 * b2n s.mgt.locked)
  else if o = 0x010 then reg64 (b2n fn.locked)
  else if o = 0x018 then reg64 fn.ringCtrl
  else if o = 0x020 then some (8, fn.sq.base) else if o = 0x028 then some (8, fn.sq.size)
  else if o = 0x030 then some (8, fn.cq.base) else if o = 0x038 then some (8, fn.cq.size)
  else if o = 0x040 then some (8, fn.eq.base) else if o = 0x048 then some (8, fn.eq.size)
  else if o = 0x050 then reg64 fn.ringState
  else if o = 0x058 then reg64 fn.msiHoldoff.toNat
  else if o = 0x060 then reg64 fn.errCount
  else if o = 0x080 ∧ pf then some (8, (s.link k).dbAddr)
  else if o = 0x088 ∧ pf then reg64 (b2n (s.link k).dbEn + 2 * b2n (s.link k).moduleEvents)
  else if o = 0x090 ∧ pf then reg64 (s.link k).dbErr
  else if o = 0xFF8 then reg64 fn.lockViol
  else none

/-- The SEC block of a function (R481, R551). GO, which is W1S, reads 1 from its setting until its request is answered, as BUSY
does (DESIGN CHOICE: R12 gives no clearing; log 102). -/
def State.secReg (s : State) (k f o : Nat) : Option RegVal :=
  let fn := s.fn k f
  if o = 0x000 then some (8, fn.mboxAddr)
  else if o = 0x008 then reg64 (3 * b2n fn.mboxBusy)
  else if o = 0xFF8 then reg64 fn.secLockViol
  else none

/-- The PART block; a function that has no partition reads zero (R543, R553). -/
def State.partReg (s : State) (p : Option Nat) (o : Nat) : Option RegVal :=
  let P := (p.map s.part).getD {}
  let z (v : Option RegVal) : Option RegVal := if p.isSome then v else v.map (fun r => (r.1, 0))
  z <|
  if o = 0x000 then reg64 (p.getD 0 + 256 * P.stateCode + 65536 * P.share)
  else if o = 0x008 then reg64 (b2n P.locked)
  else if o = 0x010 then reg64 P.mscWays
  else if o = 0x018 then reg64 P.capacity
  else if o = 0x020 then reg64 (P.pol 32 8) else if o = 0x028 then reg64 (P.pol 40 8)
  else if o = 0x030 then reg64 (P.pol 48 8)
  else if o = 0x038 then reg64 (P.liveJobs + 2 ^ 12 * P.taskLimit + 2 ^ 32 * P.maxStaging)
  else if o = 0x040 then reg64 P.runLimit
  else if o = 0x048 then reg64 P.service
  else if o = 0x050 then some (8, P.fetch)
  else if o = 0x058 then some (8, P.xlatCfg)
  else if o = 0x060 then some (8, P.collBase)
  else if o = 0x068 then some (8, P.collCount)
  else if o = 0x080 then some (8, P.sampleCore)
  else if 0x088 ≤ o ∧ o < 0x118 ∧ o % 8 = 0 then some (8, P.sampleRec.getD ((o - 0x088) / 8) 0)
  else if o = 0x180 then reg64 P.stash.1 else if o = 0x188 then reg64 P.stash.2.1
  else if o = 0x190 then reg64 P.stash.2.2
  else if o = 0x1A0 then reg64 P.hwReplays else if o = 0x1A8 then reg64 P.shadowRuns
  else if o = 0x1B0 then reg64 P.shadowMis else if o = 0x1B8 then reg64 P.shadowSkip
  else if 0x200 ≤ o ∧ o < 0xAC0 ∧ o % 8 = 0 then reg64 (lookupD 0 ((o - 0x200) / 8) P.num)
  else if o = 0xFF8 then reg64 P.lockViol
  else none

/-- The TRC block (R524, R529, R556). -/
def State.trcReg (s : State) (p : Option Nat) (o : Nat) : Option RegVal :=
  let P := (p.map s.part).getD {}
  let z (v : Option RegVal) : Option RegVal := if p.isSome then v else v.map (fun r => (r.1, 0))
  z <|
  if o = 0x000 then some (8, P.trcBase)
  else if o = 0x008 then reg64 (P.trcHead + 2 ^ 32 * b2n P.trcWrapped)
  else if o = 0x010 then some (8, P.trcCfg)
  else if o = 0x018 then some (8, P.trcWatch)
  else if o = 0xFF8 then reg64 P.trcLockViol
  else none

/-- The WND block (R552). -/
def State.wndReg (s : State) (o : Nat) : Option RegVal :=
  if o = 0x000 then some (8, s.wnd.pollCfg)
  else if o = 0x008 then reg64 (s.wnd.jobs.length + 2 ^ 32 * s.liveTasks)
  else if o = 0x010 then
    reg64 ((List.range 4).foldl (fun a k => a + b2n (s.link k).active * 2 ^ k) 0)
  else if o = 0xFF8 then reg64 s.wnd.lockViol
  else none

/-- The MEMC block (R557). -/
def State.memcReg (s : State) (o : Nat) : Option RegVal :=
  if o = 0x000 then some (8, s.mem.scrubCfg)
  else if o = 0x008 then some (8, s.mem.retireCfg)
  else if o = 0x010 then reg64 s.flash.retired.length
  else if 0x100 ≤ o ∧ o < 0x300 ∧ o % 8 = 0 then
    let e := s.mem.ecc.getD ((o - 0x100) / 8) (0, 0)
    reg64 (e.1 + 2 ^ 32 * e.2)
  else if 0x300 ≤ o ∧ o < 0x400 ∧ o % 8 = 0 then
    let g := (o - 0x300) / 32
    match (o - 0x300) % 32 / 8 with
    | 0 => reg64 (s.mem.hits.getD g 0)
    | 1 => reg64 (s.mem.misses.getD g 0)
    | 2 => reg64 (s.mem.busy.getD g 0)
    | _ => reg64 (s.mem.tippleTransient.getD g 0)
  else if o = 0xFF8 then reg64 s.mem.memcLockViol
  else none

/-- Code of a port state in LNK.PORT_STATE (R558). -/
def PortState.code : PortState → Nat
  | .down => 0 | .localTest => 1 | .opening => 2 | .train => 3 | .ident => 4 | .secure => 5 | .up => 6

/-- The LNK block (R413, R558). -/
def State.lnkReg (s : State) (o : Nat) : Option RegVal :=
  if o = 0x000 then some (8, s.lnk.node)
  else if o = 0x008 then some (8, s.lnk.cfg)
  else if o = 0x010 then
    reg64 ((List.range 6).foldl (fun a p => a + (s.port p).st.code * 16 ^ p) 0 + 2 ^ 24 * b2n s.pwr.bypassOpen)
  else if o = 0x018 then reg64 s.lnk.unmatched
  else if 0x020 ≤ o ∧ o < 0x050 ∧ o % 8 = 0 then
    let p := s.port ((o - 0x020) / 8)
    reg64 (p.protoErr + 2 ^ 32 * p.uncorrectable)
  else if 0x050 ≤ o ∧ o < 0x080 ∧ o % 8 = 0 then
    match (s.port ((o - 0x050) / 8)).neighbour with
    | some n => reg64 (n % 4096 + 4096)
    | none => reg64 0
  else if o = 0xFF8 then reg64 s.lnk.lockViol
  else none

/-- TMB.CAD_STATUS (R516). -/
def TimeSt.cadStatus (t : TimeSt) : Nat :=
  b2n t.locked + 2 * b2n t.holdoverActive + 4 * b2n t.stopped + 16 * (t.period % 2 ^ 20) + 2 ^ 32 * t.glitches

/-- The TMB block (R559). -/
def State.tmbReg (s : State) (o : Nat) : Option RegVal :=
  if o = 0x000 then some (8, s.stamp)
  else if o = 0x008 then some (8, s.time.cadCfg)
  else if o = 0x010 then reg64 s.time.cadStatus
  else if o = 0x018 then some (8, s.time.sync)
  else if o = 0xFF8 then reg64 s.time.lockViol
  else none

/-- Flash address of the slot that the pit log record with sequence `n` takes (R535). -/
def plogSlotAddr (n : Nat) : Nat :=
  if n ≤ 256 then 0xC0000 + 1024 * (n - 1) else 0x100000 + 1024 * ((n - 257) % 1088)

/-- A cursor's record: the selected slot of the selected area, all ones where there is none (R539). -/
def State.plogSlot (s : State) (cursor : Nat) : Bytes :=
  let slot := bitsOf cursor 14 4
  let ones := List.replicate 1024 0xFF#8
  match bitsOf cursor 3 2 with
  | 0 => if slot < 256 then s.flashRead (0xC0000 + 1024 * slot) 1024 else ones
  | 1 => if slot < 1088 then s.flashRead (0x100000 + 1024 * slot) 1024 else ones
  | 2 => if slot < 64 then ((s.plog.buffer.find? (fun r => field r 0 8 % 64 == slot)).getD ones) else ones
  | _ => ones

/-- BAR2 of a function: the MSI-X table at 0x000 and the Pending Bit Array at 0x800; entries of 16 bytes as PCI Express 7.0 lays
them out (R106, R134; log 110). -/
def State.bar2Reg (s : State) (k f o : Nat) : Option RegVal :=
  let fn := s.fn k f
  if o < 64 ∧ o % 4 = 0 then
    let e := fn.msixTable.getD (o / 16) {}
    match o % 16 / 4 with
    | 0 => reg32 e.addr.toNat
    | 1 => reg32 (e.addr.toNat / 2 ^ 32)
    | 2 => reg32 e.data.toNat
    | _ => reg32 (b2n e.mask)
  else if o = 0x800 then reg64 ((List.range 4).foldl (fun a v => a + b2n (fn.msixPba.getD v false) * 2 ^ v) 0)
  else none

/-- Extended capabilities of R108 in order: offset, PCI Express capability ID and whether a virtual function has it. -/
def extCaps : List (Nat × Nat × Bool) :=
  [(0x100, 0x0001, false), (0x150, 0x0003, false), (0x160, 0x000E, true), (0x170, 0x0010, false), (0x1B0, 0x0025, false),
   (0x1C0, 0x0026, false), (0x200, 0x002A, false), (0x240, 0x0031, false), (0x280, 0x0027, false), (0x300, 0x0032, false),
   (0x340, 0x002E, false), (0x380, 0x0030, false)]

/-- The header at an extended capability's offset: ID, version 1 and the offset of the next (R108; log 110). -/
def extHeader (pf : Bool) (o : Nat) : Option Nat :=
  let l := extCaps.filter (fun c => pf || c.2.2)
  match l.findIdx? (fun c => c.1 == o) with
  | some i => some ((l.getD i (0, 0, false)).2.1 + 2 ^ 16 + 2 ^ 20 * (l.getD (i + 1) (0, 0, false)).1)
  | none => if o = 0x100 then some (2 ^ 20 * 0x160) else none

/-- A half of a 64-bit, non-prefetchable memory BAR of `size` bytes (R106). -/
def barHalf (base : BitVec 64) (size : Nat) (high : Bool) : Nat :=
  let b := base.toNat / size * size
  if high then b / 2 ^ 32 else b % 2 ^ 32 + 4

/-- Speed code of a link rate in tenths of a GT/s: 1 for 2.5 GT/s to 7 for 128 GT/s (R103). -/
def speedCode (rate : Nat) : Nat := (([25, 50, 80, 160, 320, 640, 1280].findIdx? (· == rate)).map (· + 1)).getD 0

/-- Configuration space, as a read of 4 bytes returns it: IDs of the configuration record, the Class Code, the BARs, and the
capabilities of R108 in their order with the limits of R103 (layouts, PRESUMED, PCI Express 7.0; log 110). -/
def State.configReg (s : State) (k f o : Nat) : Option RegVal :=
  let c := (s.fn k f).cfg
  let l := s.link k
  let pf := f == 0
  let ids := Config.configIds (s.flashRead 0x40000 65536)
  if o % 4 ≠ 0 ∨ 0x1000 ≤ o then none
  else
    match o with
    | 0x00 => reg32 ids.1.toNat
    | 0x04 => reg32 (c.command.toNat + 2 ^ 20)
    | 0x08 => reg32 (0x120000 * 256)
    | 0x10 => reg32 (if pf then barHalf c.bar0 0x100000 false else 0)
    | 0x14 => reg32 (if pf then barHalf c.bar0 0x100000 true else 0)
    | 0x18 => reg32 (if pf then barHalf c.bar2 0x1000 false else 0)
    | 0x1C => reg32 (if pf then barHalf c.bar2 0x1000 true else 0)
    | 0x2C => reg32 ids.2.toNat
    | 0x34 => reg32 (if pf then 0x40 else 0x50)
    | 0x40 => reg32 (if pf then 0x01 + 0x50 * 256 + 3 * 2 ^ 16 else 0)
    | 0x44 => reg32 (if pf ∧ (s.fn k f).d3hot then 3 else 0)
    | 0x50 => reg32 (0x11 + 0x60 * 256 + 2 ^ 16 * (3 + 2 ^ 14 * b2n c.msixMask + 2 ^ 15 * b2n c.msixEnable))
    | 0x54 => reg32 2
    | 0x58 => reg32 (0x800 + 2)
    | 0x60 => reg32 (0x10 + 2 * 2 ^ 16)
    | 0x64 => reg32 (2 + 2 ^ 15 + 2 ^ 28)
    | 0x68 => reg32 c.devCtl.toNat
    | 0x6C => reg32 (7 + 16 * (16 / max 1 s.linkCount))
    | 0x70 => reg32 (2 ^ 16 * (speedCode l.rate + 16 * l.width))
    | 0x154 => reg32 (if pf then s.flash.dsn.toNat % 2 ^ 32 else 0)
    | 0x158 => reg32 (if pf then s.flash.dsn.toNat / 2 ^ 32 else 0)
    | 0x178 => reg32 (if pf then c.sriov.toNat else 0)
    | 0x17C => reg32 (if pf then 7 + 7 * 2 ^ 16 else 0)
    | 0x180 => reg32 (if pf then c.numVfs.toNat else 0)
    | 0x194 => reg32 (if pf then barHalf c.vfBar0 0x10000 false else 0)
    | 0x198 => reg32 (if pf then barHalf c.vfBar0 0x10000 true else 0)
    | 0x19C => reg32 (if pf then barHalf c.vfBar2 0x1000 false else 0)
    | 0x1A0 => reg32 (if pf then barHalf c.vfBar2 0x1000 true else 0)
    | o => reg32 ((extHeader pf o).getD 0)

/-- A reader's cursor: the management interface's or a physical function's (R539). -/
def State.cursor (s : State) : Window → Nat
  | .mgmt => s.plog.cursor.toNat
  | .func k _ | .bar2 k _ | .config k _ => (s.fn k.val 0).plogCursor.toNat

/-- PLOG.CTRL (R538). Of the W1S bits, FREEZE reads 1 while the freeze it started lasts, and UNFREEZE from its writing to the
next freeze or reset (DESIGN CHOICE: R12 gives no clearing; log 102). -/
def State.plogCtrl (s : State) : Nat :=
  b2n s.plog.frozen + 2 * b2n s.plog.unfroze + 4 * b2n s.plog.frozen + 8 * b2n s.plog.erasing.isSome + 256 * s.plog.buffer.length

/-- The PLOG block as a reader sees it (R538, R539, R560). -/
def State.plogReg (s : State) (w : Window) (o : Nat) : Option RegVal :=
  if o = 0x000 then reg64 s.plogCtrl
  else if o = 0x008 then reg64 s.plog.newest
  else if o = 0x010 then reg64 s.plog.flashed
  else if o = 0x018 then reg64 (s.cursor w)
  else if 0x100 ≤ o ∧ o < 0x200 ∧ o % 8 = 0 then some (8, s.plog.trig.getD ((o - 0x100) / 8) 0)
  else if 0x200 ≤ o ∧ o < 0x240 ∧ o % 8 = 0 then some (8, s.plog.listCount.getD ((o - 0x200) / 8) 0)
  else if 0x300 ≤ o ∧ o < 0x400 ∧ o % 8 = 0 then
    let c := s.cursor w
    reg64 (field (s.plogSlot c) (256 * bitsOf c 1 0 + (o - 0x300)) 8)
  else if 0x400 ≤ o ∧ o < 0xB00 ∧ o % 4 = 0 then reg32 (s.plog.lists.getD ((o - 0x400) / 4) 0).toNat
  else if o = 0xFF8 then reg64 s.plog.lockViol
  else none

/-- State code of MGT.STATUS (R561; a module held in module reset reports boot, log 15). -/
def State.mgtState (s : State) : Nat :=
  match s.pwr.phase with
  | .noInput | .off | .standby => 0
  | .powerUp => 1
  | .boot | .inReset => 2
  | .running => if s.mgt.fatal then 5 else 3
  | .recovery => 4

/-- MGT.STATUS (R561). -/
def State.mgtStatus (s : State) : Nat :=
  s.mgtState + 256 * min (s.pwr.stage - 1) 7 + 4096 * s.pwr.strap.toNat + 2 ^ 14 * b2n s.ownerEnrolled
    + 2 ^ 15 * b2n s.sec.policyApplied.isSome

/-- The MGT block (R561 to R563). -/
def State.mgtReg (s : State) (o : Nat) : Option RegVal :=
  if o = 0x000 then reg64 ((if s.flash.orderIs256 then 2 else 1) + 256 * (if s.flash.orderIs256 then 256 else 512))
  else if o = 0x008 then reg64 s.spareBase
  else if o = 0x010 then reg64 (s.flash.fwVersion.toNat + 2 ^ 32 * s.flash.romVersion.toNat)
  else if o = 0x018 then reg64 s.mgtStatus
  else if o = 0x020 then some (8, s.mgt.events)
  else if o = 0x028 then some (8, s.mgt.mask)
  else if o = 0x030 then reg64 (wrapInt 16 s.pwr.temperature)
  else if o = 0x038 then reg64 (s.flash.hours + 2 ^ 32 * s.flash.powerCycles)
  else if o = 0x040 then reg64 (b2n s.mgt.locked)
  else if o = 0x048 then reg64 (s.mgt.cmdStatus.toNat + 256 * s.mgt.refusedCount)
  else if o = 0x050 then some (8, s.flash.dsn)
  else if o = 0xFF8 then reg64 s.mgt.lockViol
  else none

/-- The PWR block (R564). -/
def State.pwrReg (s : State) (o : Nat) : Option RegVal :=
  if o = 0x000 then reg64 ((List.range 8).foldl (fun a r => a + b2n (s.rail r).inRegulation * 2 ^ r) 0)
  else if o = 0x008 then reg64 (s.pwr.millivolts % 65536)
  else if o = 0x010 then reg64 (Config.telemetry 100 s.fresh).toNat
  else if o = 0xFF8 then reg64 s.mgt.pwrLockViol
  else none

/-- The XLAT block (R564). -/
def State.xlatReg (s : State) (o : Nat) : Option RegVal :=
  if o = 0x000 then reg64 (s.mem.walks.getD 0 0) else if o = 0x008 then reg64 (s.mem.walks.getD 1 0)
  else if o = 0x010 then reg64 (s.mem.walkHits.getD 0 0) else if o = 0x018 then reg64 (s.mem.walkHits.getD 1 0)
  else if o = 0xFF8 then reg64 s.mgt.xlatLockViol
  else none

/-- A bucket is live: armed or open, and not complete (R427, R436). -/
def Bucket.live (b : Bucket) : Bool := b.st == .armed || b.st == .opened

/-- Live buckets on the module (R427, R564). -/
def State.liveBuckets (s : State) : Nat :=
  s.lnk.colls.foldl (fun n c => n + (c.buckets.filter Bucket.live).length) 0

/-- The COLL block (R564). -/
def State.collReg (s : State) (o : Nat) : Option RegVal :=
  if o = 0x000 then reg64 (s.liveBuckets + 2 ^ 32 * s.lnk.colls.length)
  else if o = 0xFF8 then reg64 s.lnk.collLockViol
  else none

/-- The CORE block; its counters are 4 bytes wide (R565). -/
def State.coreReg (s : State) (o : Nat) : Option RegVal :=
  if o < 0x1800 ∧ o % 4 = 0 then reg32 ((s.core (o / 32)).rel.getD (o % 32 / 4) 0)
  else if 0x1800 ≤ o ∧ o < 0x1C00 ∧ o % 4 = 0 then reg32 (s.mesh.retries.getD ((o - 0x1800) / 4) 0)
  else if o = 0x1C00 ∨ o = 0x1C08 ∨ o = 0x1C10 then
    let k := (o - 0x1C00) / 8
    reg64 ((List.range 64).foldl (fun a n => a + b2n (s.isFenced (64 * k + n)) * 2 ^ n) 0)
  else if o = 0x1FF8 then reg64 s.mesh.coreLockViol
  else none

/-- The domains of the module blocks other than MGT, PWR and PLOG have power (R543, R533). -/
def State.powered (s : State) : Bool :=
  match s.pwr.phase with
  | .boot | .running | .recovery | .inReset => true
  | _ => false

/-- A module block by offset in the management window (R542). -/
def State.moduleReg (s : State) (w : Window) (o : Nat) : Option RegVal :=
  match o / 0x1000 with
  | 0x10 => s.wndReg (o % 0x1000) | 0x11 => s.memcReg (o % 0x1000) | 0x12 => s.lnkReg (o % 0x1000)
  | 0x13 => s.tmbReg (o % 0x1000) | 0x14 => s.plogReg w (o % 0x1000) | 0x15 => s.mgtReg (o % 0x1000)
  | 0x16 => s.pwrReg (o % 0x1000) | 0x17 => s.xlatReg (o % 0x1000) | 0x18 => s.collReg (o % 0x1000)
  | 0x20 => s.coreReg (o % 0x1000) | 0x21 => s.coreReg (0x1000 + o % 0x1000)
  | _ => none

/-- An offset of a block that answers in standby: PLOG, MGT and PWR (R543). -/
def standbyBlock (o : Nat) : Bool := inRange (o / 0x1000) 0x14 0x16

/-- The register at an offset of a window (R542, R543). -/
def State.regAt (s : State) (w : Window) (o : Nat) : Option RegVal :=
  match w with
  | .mgmt =>
    if s.powered || standbyBlock o then s.moduleReg w o else (s.moduleReg w o).map (fun r => (r.1, 0))
  | .func k f =>
    match o / 0x1000 with
    | 0 => s.hifReg k f (o % 0x1000)
    | 1 => s.secReg k f (o % 0x1000)
    | 2 => s.partReg (s.fnPart k f) (o % 0x1000)
    | 3 => s.trcReg (s.fnPart k f) (o % 0x1000)
    | _ => if f.val = 0 then s.moduleReg w o else none
  | .bar2 k f => s.bar2Reg k f o
  | .config k f => s.configReg k f o

/-- A read of 4 or 8 bytes in a window; where no register lies it reads as zero (R543). -/
def State.regRead (s : State) (w : Window) (o size : Nat) : Nat :=
  let half (a : Nat) : Nat :=
    match s.regAt w a with
    | some (_, v) => v.toNat % 2 ^ 32
    | none =>
      match s.regAt w (a - 4) with
      | some (8, v) => if a % 8 = 4 then v.toNat / 2 ^ 32 else 0
      | _ => 0
  if size = 4 then half o else half o + 2 ^ 32 * half (o + 4)

/-- A snapshot entry: value and state 0 read, 1 partition-private, 2 powered off, 3 no register (R533). -/
def State.snap (s : State) (o : Nat) : Nat × Nat :=
  if o / 0x1000 = 2 then (if (s.partReg (some 0) (o % 0x1000)).isSome then (1, 0) else (3, 0))
  else if o / 0x1000 = 3 then (if (s.trcReg (some 0) (o % 0x1000)).isSome then (1, 0) else (3, 0))
  else
    match s.moduleReg .mgmt o with
    | none => (3, 0)
    | some (_, v) => if s.powered || standbyBlock o then (0, v.toNat) else (2, 0)

end Sys2Proof.Machine
end

