-- ==== Sys2Proof/Machine/Log.lean ====
section
/-! DEFINITION. What the module writes for others to read: completion entries, event entries, MSI-X messages, trace
records and pit log records (R126, R131 to R135, R524 to R541). -/

namespace Sys2Proof.Machine

/-- Set a bit of MGT.EVENTS (R563). -/
def State.mgtEvent (s : State) (b : Nat) : State := s.modMgt (fun m => { m with events := m.events ||| BitVec.ofNat 64 (2 ^ b) })

/-- Entries of a ring (R111). -/
def Ring.entries (r : Ring) : Nat := r.size.toNat % 2 ^ 17
/-- The index after `i` in a ring (R113). -/
def Ring.succ (r : Ring) (i : Nat) : Nat := if i + 1 = r.entries then 0 else i + 1
/-- Entries between two ring indices, from `a` to `b` (R113). -/
def Ring.dist (r : Ring) (a b : Nat) : Nat := if a ≤ b then b - a else b + r.entries - a
/-- The producer has no free entry left (R113). -/
def Ring.full (r : Ring) : Bool := r.succ r.tail == r.head
/-- Advance the producer index, inverting PHASE at a wrap (R126, R131). -/
def Ring.push (r : Ring) : Ring := { r with tail := r.succ r.tail, phase := if r.tail + 1 = r.entries then !r.phase else r.phase }

/-- Change a function's vector state (R135): send on `v`, or leave it pending during a hold-off. -/
def Fn.msix (f : Fn) (v counted : Nat) : Fn :=
  if ((f.holdEnd.getD v none).isSome) then { f with holdPending := f.holdPending.set v true }
  else
    { f with msixSent := f.msixSent.modify v (· + 1),
             holdEnd := f.holdEnd.set v (if f.msiHoldoff = 0 then none else some (counted + f.msiHoldoff.toNat)),
             holdTicks := f.holdTicks.set v 0 }

/-- A vector of a function may send its message: MSI-X is enabled, and neither the function nor the entry masks it; a function
in D3hot sends none (R110, R134, PCI Express 7.0; log 110). -/
def Fn.msixOpen (f : Fn) (v : Nat) : Bool :=
  f.cfg.msixEnable && !f.cfg.msixMask && !(f.msixTable.getD v {}).mask && !f.d3hot

/-- A message leaves, as a write of the entry's data at its address, or becomes pending (R134). -/
def State.msixOut (s : State) (k f v : Nat) : State :=
  let fn := s.fn k f
  let e := fn.msixTable.getD v {}
  if fn.msixOpen v then
    (s.modFn k f (fun x => { x with msixPba := x.msixPba.set v false })).hostWrite k f e.addr.toNat (leBytes 4 e.data.toNat)
  else s.modFn k f (fun x => { x with msixPba := x.msixPba.set v true })

/-- Messages that were pending leave once their vector is open (R134). -/
def State.msixRelease (s : State) (k f : Nat) : State :=
  (List.range 4).foldl (fun s v => if (s.fn k f).msixPba.getD v false && (s.fn k f).msixOpen v then s.msixOut k f v else s) s

/-- Signal a vector of a function: its message follows at once unless a hold-off runs (R134, R135). -/
def State.msix (s : State) (k f v : Nat) : State :=
  let held := ((s.fn k f).holdEnd.getD v none).isSome
  let s := s.modFn k f (fun x => x.msix v s.time.counted)
  if held then s else s.msixOut k f v

/-- A completion entry's bytes (R126). -/
def completionBytes (job : BitVec 32) (kind : Nat) (status : BitVec 16) (sqHead : Nat) (phase : Bool) (detail : BitVec 32)
    (tag : BitVec 64) (stamp : BitVec 64) : Bytes :=
  leBytes 4 job.toNat ++ leBytes 1 kind ++ leBytes 1 0 ++ leBytes 2 status.toNat ++ leBytes 2 sqHead
    ++ leBytes 1 (b2n phase) ++ leBytes 1 0 ++ leBytes 4 detail.toNat ++ leBytes 8 tag.toNat ++ leBytes 8 stamp.toNat

/-- Write a completion entry to its reserved slot and signal vector 0 when IRQ is set (R121, R126, R134). -/
def State.complete (s : State) (k f : Nat) (job : BitVec 32) (kind : Nat) (status : BitVec 16) (detail : BitVec 32)
    (tag : BitVec 64) (irq : Bool) : State :=
  let fn := s.fn k f
  if !fn.cq.en then s
  else
    let s := s.hostWrite k f (fn.cq.base.toNat + 32 * fn.cq.tail)
      (completionBytes job kind status fn.sq.head fn.cq.phase detail tag s.stamp)
    let s := s.modFn k f (fun x => { x with cq := x.cq.push, reserved := x.reserved - 1 })
    if irq then s.msix k f 0 else s

/-- An event: code, severity, source and payload (R131). -/
structure Ev where
  code : Nat
  sev : Nat
  source : BitVec 16
  payload : Nat
  deriving DecidableEq, Repr

/-- An event entry's bytes (R131). -/
def eventBytes (e : Ev) (phase : Bool) (job : Option (BitVec 32)) (stamp : BitVec 64) : Bytes :=
  leBytes 2 e.code ++ leBytes 1 e.sev ++ leBytes 1 (b2n phase + 2 * b2n job.isSome) ++ leBytes 2 e.source.toNat
    ++ leBytes 2 0 ++ leBytes 4 ((job.getD 0).toNat) ++ leBytes 4 0 ++ leBytes 8 stamp.toNat ++ leBytes 8 e.payload

/-- Write an event to one function's event ring; a full ring drops and counts it (R131, R133; no ring, no entry, log 16). -/
def State.eventTo (s : State) (k f : Nat) (e : Ev) (job : Option (BitVec 32)) : State :=
  let fn := s.fn k f
  if !fn.eq.en then s
  else if fn.eq.full then s.modFn k f (fun x => { x with dropped := satAdd 32 x.dropped 1 })
  else
    let s := s.hostWrite k f (fn.eq.base.toNat + 32 * fn.eq.tail) (eventBytes e fn.eq.phase job s.stamp)
    let s := s.modFn k f (fun x => { x with eq := x.eq.push })
    s.msix k f 1

/-- Module events go to each physical function that asks for them (R131). -/
def State.eventPfs (s : State) (e : Ev) : State :=
  (List.range 4).foldl (fun s k => if (s.link k).moduleEvents then s.eventTo k 0 e none else s) s

/-- Fixed triggers that are event codes, with whether they flush (R531). -/
def fixedEventTrigger (code : Nat) : Option Bool :=
  if code = 0x0E07 then some true
  else if code = 0x0D02 ∨ code = 0x0E03 ∨ code = 0x0E06 ∨ code = 0x1001 then some false
  else none

/-- The enabled entry of the trigger table that names a code: its snapshot list (R532, R560). -/
def State.tableTrigger (s : State) (code : Nat) : Option Nat :=
  (s.plog.trig.find? (fun t => bitOf t.toNat 19 && bitsOf t.toNat 15 0 == code && decide (0x100 ≤ code))).map
    (fun t => bitsOf t.toNat 18 16)

/-- A snapshot list's offsets (R532, R560). -/
def State.listOffsets (s : State) (l : Nat) : List Nat :=
  let n := min (bitsOf (s.plog.listCount.getD l 0).toNat 5 0) 56
  (List.range n).map (fun i => bitsOf (s.plog.lists.getD (56 * l + i) 0).toNat 23 0)

/-- A pit log record's 1,024 bytes (R534). -/
def State.plogRecord (s : State) (code list payload : Nat) (flush : Bool) : Bytes :=
  let seq := s.plog.newest + 1
  let offs := s.listOffsets list
  let stamp := if s.time.on then s.stamp.toNat else s.time.mgmtTicks / 10
  let snaps := offs.flatMap (fun o =>
    let v := s.snap o
    leBytes 4 o ++ leBytes 1 v.1 ++ leBytes 3 0 ++ leBytes 8 v.2)
  sliceBytes (leBytes 8 seq ++ leBytes 2 code ++ leBytes 1 (b2n (!s.time.on) + 2 * b2n flush + 4 * b2n s.plog.frozen)
    ++ leBytes 1 list ++ leBytes 4 s.flash.hours ++ leBytes 4 s.flash.powerCycles ++ leBytes 8 stamp ++ leBytes 8 payload
    ++ leBytes 4 s.plog.dropped ++ leBytes 2 offs.length ++ leBytes 22 0 ++ snaps) 0 1016 ++ leBytes 8 seq

/-- Write the oldest buffered record to its flash slot; filling a circular sector starts the next sector's erase (R535
to R537). -/
def State.plogWriteOne (s : State) : State :=
  match s.plog.buffer with
  | [] => s
  | r :: rest =>
    let n := field r 0 8
    let slot := (n - 257) % 1088
    let s := s.flashWrite (plogSlotAddr n) r
    s.modPlog (fun p => { p with buffer := rest, flashed := n,
                                 erasing := if 256 < n ∧ slot % 64 = 63 then some ((slot / 64 + 1) % 17) else p.erasing })

/-- Write buffered records until none is left or a sector erase begins; freezing stops it except under the named flush
sequences (R537, R538). -/
def State.plogDrain : Nat → Bool → State → State
  | 0, _, s => s
  | n + 1, force, s =>
    if s.plog.buffer.isEmpty || s.plog.erasing.isSome || (s.plog.frozen && !force) then s
    else State.plogDrain n force s.plogWriteOne

/-- A flush of R537: it abandons a flash commit in progress (R568) and writes the buffer. -/
def State.plogFlush (s : State) (force : Bool) : State :=
  let s := if s.flash.commitBusy.isSome then s.modFlash (fun f => { f with commitAbandoned := true }) else s
  s.plogDrain 64 force

/-- Take a pit log record into the buffer, or drop and count it (R531, R537, R541; log 17). -/
def State.plogTake (s : State) (code list payload : Nat) (flush : Bool) : State :=
  if 64 ≤ s.plog.buffer.length then
    let s := s.modPlog (fun p => { p with dropped := satAdd 32 p.dropped 1 })
    (s.mgtEvent 10).eventPfs { code := 0x1005, sev := 1, source := srcDbg, payload := s.plog.dropped }
  else
    let r := s.plogRecord code list payload flush
    s.modPlog (fun p => { p with buffer := p.buffer ++ [r], newest := p.newest + 1, dropped := 0 })

/-- A fixed trigger of R531 that is no event: its record from list 0. -/
def State.plogFixed (s : State) (code payload : Nat) : State := s.plogTake code 0 payload false
/-- A fixed trigger that flushes (R531, R537). -/
def State.plogFixedFlush (s : State) (code payload : Nat) : State := (s.plogTake code 0 payload true).plogFlush false

/-- The pit log's record of an event: a fixed trigger takes one from list 0, and an enabled table entry takes one from
its own list and flushes for severity error (R531, R532; log 17). -/
def State.plogEvent (s : State) (e : Ev) : State :=
  let s :=
    match fixedEventTrigger e.code with
    | some fl => if fl then s.plogFixedFlush e.code e.payload else s.plogFixed e.code e.payload
    | none => s
  match s.tableTrigger e.code with
  | some l =>
    let fl := e.sev == 2
    let s := s.plogTake e.code l e.payload fl
    if fl then s.plogFlush false else s
  | none => s

/-- A module event (R131). -/
def State.eventModule (s : State) (e : Ev) : State := (s.eventPfs e).plogEvent e

/-- An event for one function, without a job (R119, R123). -/
def State.eventFn (s : State) (k f : Nat) (e : Ev) : State := (s.eventTo k f e none).plogEvent e

/-- An event for a whole partition (R131). -/
def State.eventPart (s : State) (p : Nat) (e : Ev) : State :=
  ((s.partFns p).foldl (fun s kf => s.eventTo kf.1 kf.2 e none) s).plogEvent e

/-- An event for a partition and for the module (R541, R505). -/
def State.eventPartModule (s : State) (p : Nat) (e : Ev) : State :=
  (((s.partFns p).foldl (fun s kf => s.eventTo kf.1 kf.2 e none) s).eventPfs e).plogEvent e

/-- An event tied to a job goes to the function that submitted it (R131). -/
def State.eventJob (s : State) (ser : Nat) (e : Ev) : State :=
  match s.job ser with
  | some j => (s.eventTo j.link j.fn e (some j.id)).plogEvent e
  | none => s

/-- Records of trace waiting in DBG, in bytes (R528). -/
def State.trcBuffered (s : State) : Nat := s.parts.foldl (fun n p => p.trcBuf.foldl (fun m r => m + r.length) n) 0

/-- A trace record's header and body, padded to whole 32-byte units (R526). -/
def traceBytes (stamp : Nat) (kind p : Nat) (source : BitVec 16) (seq : Nat) (units : Nat) (body : Bytes) : Bytes :=
  sliceBytes (leBytes 8 stamp ++ leBytes 1 kind ++ leBytes 1 units ++ leBytes 1 0 ++ leBytes 1 p
    ++ leBytes 2 source.toNat ++ leBytes 2 seq ++ body) 0 (32 * units)

/-- A partition's trace is configured and on (R524, R556). -/
def Part.traceOn (p : Part) : Bool := bitOf p.trcCfg.toNat 16 && p.trcActiveSize != 0

/-- Bytes of the region a buffered record list will still take, when WRAP is 0 (R524, R528). -/
def Part.trcRoom (p : Part) (n : Nat) : Bool :=
  bitOf p.trcCfg.toNat 17 || decide (p.trcHead + p.trcBuf.foldl (fun m r => m + r.length) 0 + n ≤ 4096 * p.trcActiveSize)

/-- Put one record into a partition's trace buffer. -/
def State.tracePush (s : State) (p : Nat) (stamp kind : Nat) (source : BitVec 16) (units : Nat) (body : Bytes) : State :=
  s.modPart p (fun q => { q with trcBuf := q.trcBuf ++ [traceBytes stamp kind p source q.trcSeq.toNat units body],
                                 trcSeq := q.trcSeq + 1 })

/-- A trace record as it happens (R525 to R528): dropped and counted without room, with a DROPPED record first once there
is room again. Kinds 0x07 and 0x09 ignore the kind mask (R524; log 18). -/
def State.trace (s : State) (p kind : Nat) (source : BitVec 16) (units : Nat) (body : Bytes) : State :=
  let P := s.part p
  let wanted := kind == 7 || kind == 9 || bitOf P.trcCfg.toNat kind
  if !(P.traceOn && wanted) then s
  else
    let need := 32 * units + (if P.trcDropped = 0 then 0 else 32)
    if decide (262144 < s.trcBuffered + need) || !P.trcRoom need then
      s.modPart p (fun q => { q with trcDropped := q.trcDropped + 1 })
    else
      let st := s.stamp.toNat
      let s := if P.trcDropped = 0 then s
        else (s.tracePush p st 9 srcDbg 1 (leBytes 8 P.trcDropped)).modPart p (fun q => { q with trcDropped := 0 })
      s.tracePush p st kind source units body

end Sys2Proof.Machine
end

