-- ==== Sys2Proof/Machine/Cache.lean ====
section
/-! DEFINITION. The memory groups as every access meets them: the physical map, the memory-side cache with its pins and
poison, the DRAM bursts, and what a core needs to send an access (R344 to R358, R372, R376, R377, R380, R381). -/

namespace Sys2Proof.Machine

/-- Row of a DPA (R347). -/
def dpaRow (dpa : Nat) : Nat := bitsOf dpa 38 22
/-- Channel of a DPA (R347). -/
def dpaChannel (dpa : Nat) : Nat := bitsOf dpa 13 8 ^^^ bitsOf (dpaRow dpa) 5 0
/-- Bank of a DPA (R347). -/
def dpaBank (dpa : Nat) : Nat := bitsOf dpa 17 14 ^^^ bitsOf (dpaRow dpa) 9 6
/-- Memory group of a DPA (R347). -/
def dpaGroup (dpa : Nat) : Nat := dpaChannel dpa / 8
/-- Memory-side cache set of a DPA within its group (R350). -/
def dpaSet (dpa : Nat) : Nat := (dpa / 2 ^ 14 * 8 + dpaChannel dpa % 8) % 6144

/-- The router that a request for an address uses: channel bit [2] picks the lower or the higher of the group's two (R18,
R347). -/
def groupRouter (dpa : Nat) : Nat × Nat :=
  (groupRow (dpaGroup dpa), groupColumn (dpaGroup dpa) + b2n (bitOf (dpaChannel dpa) 2))

/-- The partition whose ranges hold an address (R348, R349). -/
def State.dpaPart (s : State) (d : Nat) : Option Nat := (List.range 8).find? (fun p => (s.part p).valid && (s.part p).owns d)

/-- Blocks that [a, a + n) touches (R343). -/
def blocksOf (a n : Nat) : List Nat := if n = 0 then [] else (List.range ((a + n - 1) / 256 - a / 256 + 1)).map (· + a / 256)
/-- The sectors of a block. -/
def blockSectors (block : Nat) : List Nat := (List.range 8).map (· + 8 * block)

/-- The key of a block's ciphertext: its partition's, or the module key of this boot (R355). -/
def State.blockKey (s : State) (block : Nat) : Bool × Nat :=
  match s.dpaPart (256 * block) with
  | some p => (true, (s.part p).keySerial.getD 0)
  | none => (false, s.mem.moduleKeyEpoch)
/-- The ciphertext of a block: the tweak is DPA bits [38:8] as a little-endian 128-bit value, before any remapping (R355,
R377). -/
def State.cipherBlock (s : State) (block : Nat) : Bytes :=
  Config.aesXts (s.blockKey block) (leBytes 16 block) (s.dramRead (256 * block) 256)
/-- The metadata word of a sector's burst as it is written: CHECK, POISON, and Reserved bits of zero (R344). -/
def State.metadata (s : State) (x : Nat) : BitVec 32 :=
  let poison : BitVec 22 := if s.mem.poison.contains x then 1 else 0
  poison ++ Config.secDed (sliceBytes (s.cipherBlock (x / 8)) (32 * (x % 8)) 32) poison
/-- A metadata word breaks the check code by a Reserved bit that reads 1 (R344). -/
def reservedError (m : BitVec 32) : Bool := bitsOf m.toNat 31 11 != 0
/-- The sector whose burst lies at sector `x` of DRAM: a spare page holds a retired page's (R377). -/
def State.sectorAt (s : State) (x : Nat) : Nat :=
  if 32 * x < s.spareBase then x
  else
    match s.flash.retired[(32 * x - s.spareBase) / 65536]? with
    | some e => 2048 * e.page + x % 2048
    | none => x

/-- Errors that a block's bursts have taken since they were last read: a single-bit error is correctable; more bits, or a
non-zero Reserved field, are not (R344, R345; log 117). -/
def State.upsetBursts (s : State) (block : Nat) (errors : List (Fin 8 × BurstError)) : State :=
  errors.foldl (fun s e =>
    let x := 8 * block + e.1.val
    s.modMem (fun m =>
      match e.2 with
      | .single => if m.bad.contains x then m else { m with flip := insertSorted x m.flip }
      | .multiple | .reserved => { m with bad := insertSorted x m.bad, flip := m.flip.filter (· != x) })) s

/-- A controller asks for a page to be retired (R376); a page of the spare pool cannot be one (R378). -/
def State.askRetire (s : State) (page reason group : Nat) : State :=
  if decide (s.spareBase ≤ 65536 * page) || s.mem.retireReq.any (fun r => r.1 == page) || s.flash.retired.any (fun e => e.page == page) then s
  else s.modMem (fun m => { m with retireReq := m.retireReq ++ [(page, reason, group)] })

/-- A controller has read a block of DRAM, which lies at block `at_`: errors corrected and uncorrectable are counted, and the latter
reported (R345, R376, R380, R381). -/
def State.readBlock (s : State) (block at_ : Nat) (scrub : Bool) : State :=
  let d := 256 * at_
  let sx := blockSectors at_
  let ce := (sx.filter (fun x => s.mem.flip.contains x && !s.mem.bad.contains x)).length
  let ue := (sx.filter (fun x => s.mem.bad.contains x)).length
  let s := s.modMem (fun m => { m with ecc := m.ecc.modify (dpaChannel d) (fun e => (satAdd 32 e.1 ce, satAdd 32 e.2 ue)) })
  if ue = 0 then s
  else
    (s.eventModule { code := 0x0B02, sev := 2, source := srcGroup (dpaGroup d), payload := block % 2 ^ 31 + (if scrub then 2 ^ 31 else 0) }).askRetire
      (block / 256) (if scrub then 2 else 1) (dpaGroup d)

/-- Count a hit, a miss or a refusal of a group; the counters hold at 2^48 - 1 (R381). -/
def bump48 (l : List Nat) (g : Nat) : List Nat := l.modify g (fun n => satAdd 48 n 1)

/-- A hit: the line is the most recently used, and a write makes it dirty (R351, R352). -/
def State.mscHit (s : State) (block : Nat) (write : Bool) : State :=
  s.modMem (fun m =>
    { m with useClock := m.useClock + 1, hits := bump48 m.hits (dpaGroup (256 * block)),
             msc := m.msc.map (fun l =>
               if l.block = block ∧ !l.reorder then { l with lru := m.useClock, dirty := l.dirty || write } else l) })

/-- Lines in the set of a block (R350). -/
def State.setLines (s : State) (block : Nat) : List MscLine :=
  let d := 256 * block
  s.mem.msc.filter (fun l => dpaGroup (256 * l.block) == dpaGroup d && dpaSet (256 * l.block) == dpaSet d)
/-- Ways that a partition's mask enables (R352). -/
def State.enabledWays (s : State) (part : Nat) : List Nat := (List.range 16).filter (fun w => bitOf (s.part part).mscWays w)

/-- The way that a miss of a partition allocates: the lowest enabled invalid way, else the least recently used enabled way
that is not pinned (R352, R353). -/
def State.victim (s : State) (part block : Nat) : Option (Nat × Option MscLine) :=
  let ways := s.enabledWays part
  let lines := s.setLines block
  match ways.find? (fun w => !lines.any (fun l => l.way == w)) with
  | some w => some (w, none)
  | none =>
    let free := lines.filter (fun l => ways.contains l.way && !l.pinned)
    (free.foldl (fun (a : Option MscLine) l => match a with | some y => if l.lru < y.lru then some l else some y | none => some l)
      none).map (fun l => (l.way, some l))

/-- Sectors of a block are written to DRAM with a valid check code, the poisoned ones with POISON set (R344, R354). -/
def State.writeBursts (s : State) (sectors : List Nat) : State :=
  let bursts := sectors.map s.burstOf
  s.modMem (fun m => { m with bad := m.bad.filter (fun x => !bursts.contains x), flip := m.flip.filter (fun x => !bursts.contains x) })
/-- Sectors become poisoned (R354, R372). -/
def State.poisonAll (s : State) (xs : List Nat) : State := xs.foldl State.dramPoison s

/-- A line leaves the cache: its uncorrectable sectors are poisoned, a dirty line is written whole, and a clean one's poisoned
sectors are (R354, R372). -/
def State.evict (s : State) (l : MscLine) : State :=
  let s := s.poisonAll l.bad
  let sx := blockSectors l.block
  let s := s.writeBursts (if l.dirty then sx else sx.filter (fun x => s.mem.poison.contains x))
  s.modMem (fun m => { m with msc := m.msc.filter (fun x => x != l) })

/-- The sectors of a block whose bursts are uncorrectable (R345). -/
def State.badSectors (s : State) (block : Nat) : List Nat := (blockSectors block).filter (fun x => s.mem.bad.contains (s.burstOf x))

/-- A block that has been read, or written whole, is allocated for its partition; a mask that leaves no way passes a write through
to DRAM (R351, R352, R354). -/
def State.mscFill (s : State) (block : Nat) (write : Bool) : State :=
  if (s.mem.line block).isSome then
    s.modMem (fun m => { m with msc := m.msc.map (fun l =>
      if l.block = block ∧ !l.reorder then { l with dirty := l.dirty || write } else l) })
  else
    let bad := s.badSectors block
    match (s.dpaPart (256 * block)).bind (fun p => (s.victim p block).map (fun v => (p, v))) with
    | none => if write then (s.poisonAll bad).writeBursts (blockSectors block) else s
    | some (p, w, old) =>
      let s := match old with | some l => s.evict l | none => s
      let s := s.poisonAll bad
      s.modMem (fun m =>
        { m with useClock := m.useClock + 1,
                 msc := m.msc ++ [{ block := block, way := w, part := some p, dirty := write, lru := m.useClock }] })

/-- An access to one block goes through the group that holds it: a hit, or a read of DRAM and a fill; a write of the whole block
reads nothing (R351, R352). -/
def State.access (s : State) (block : Nat) (write whole : Bool) : State :=
  if (s.mem.line block).isSome then s.mscHit block write
  else
    let s := s.modMem (fun m => { m with misses := bump48 m.misses (dpaGroup (256 * block)) })
    (if write && whole then s else s.readBlock block (s.remap (256 * block) / 256) false).mscFill block write

/-- An access to [a, a + n) goes through the groups, block by block (R351). -/
def State.touch (s : State) (a n : Nat) (write : Bool) : State :=
  (blocksOf a n).foldl (fun s b => s.access b write (decide (a ≤ 256 * b) && decide (256 * b + 256 ≤ a + n))) s

/-- A write to memory through the memory groups (R351, R354). -/
def State.memWrite (s : State) (a : Nat) (bs : Bytes) : State := (s.touch a bs.length true).dramWrite a bs

/-- One more pin in the set of a block leaves an enabled way of the partition unpinned (R353). -/
def State.canPin (s : State) (part block : Nat) : Bool :=
  let ways := s.enabledWays part
  let lines := s.setLines block
  decide (ways.countP (fun w => lines.any (fun l => l.way == w && l.pinned)) + 1 < ways.length)
/-- Pin a way for an accumulator line or a reorder slot of a block, where R353 allows it (R433). -/
def State.pinWay (s : State) (part block : Nat) (reorder : Bool) : State :=
  if !s.canPin part block then s
  else if !reorder && (s.mem.line block).isSome then
    s.modMem (fun m => { m with msc := m.msc.map (fun l =>
      if l.block = block ∧ !l.reorder then { l with pinned := true, dirty := true } else l) })
  else
    match s.victim part block with
    | none => s
    | some (w, old) =>
      let s := match old with | some l => s.evict l | none => s
      s.modMem (fun m =>
        { m with useClock := m.useClock + 1,
                 msc := m.msc ++ [{ block := block, way := w, part := some part, dirty := !reorder, lru := m.useClock, pinned := true,
                                    reorder := reorder }] })
/-- The accumulator line of a block is pinned no more (R433). -/
def State.unpinLine (s : State) (block : Nat) : State :=
  s.modMem (fun m => { m with msc := m.msc.map (fun l => if l.block = block ∧ !l.reorder then { l with pinned := false } else l) })
/-- The uncorrectable sectors, from 0 to 7, that a Tipple finds in the accumulator line of a block (R372, R435). -/
def State.lineUpsets (s : State) (block : Nat) : List Nat :=
  match s.mem.line block with
  | some l => (l.bad.filter (fun x => x / 8 == block)).map (· % 8)
  | none => []
/-- The accumulator line of a block is rewritten with valid check bits (R435). -/
def State.mendLine (s : State) (block : Nat) : State :=
  s.modMem (fun m => { m with msc := m.msc.map (fun l => if l.block = block ∧ !l.reorder then { l with bad := [] } else l) })
/-- A reorder slot of a block is free again (R433). -/
def State.dropReorder (s : State) (block : Nat) : State :=
  s.modMem (fun m => { m with msc := m.msc.eraseP (fun l => l.block == block && l.reorder) })

/-- A bank's queues (R358); an unlisted bank is empty. -/
def State.bank (s : State) (ch b : Nat) : Bank := lookupD {} (16 * ch + b) s.mem.banks
/-- Change a bank. -/
def State.modBank (s : State) (ch b : Nat) (f : Bank → Bank) : State :=
  s.modMem (fun m => { m with banks := setKey (16 * ch + b) (f (lookupD {} (16 * ch + b) m.banks)) m.banks })

/-- A requester's bit in a wake set: cores first, then edge agents, in ascending order (R359). -/
def reqIndex (r : Requester) : Nat := match r with | .core n => n | .agent n => 192 + n
/-- The requester is a core. -/
def reqCore (r : Requester) : Bool := match r with | .core _ => true | .agent _ => false
/-- Entries of a queue in use or reserved (R358, R359). -/
def Bank.used (x : Bank) (core : Bool) : Nat :=
  (if core then x.coreQ.length else x.edgeQ.length) + (x.reserved.filter (fun r => reqCore r == core)).length
/-- Entries of a queue (R358). -/
def queueSize (core : Bool) : Nat := if core then 32 else 4

/-- A core may send its accesses to [d, d + n) now, which a command makes and finishes in one step: injection goes on, a request
slot is free, no bank of them holds 8 of its slots, and no full queue would refuse one (R356 to R358, R468; log 118). -/
def State.maySend (s : State) (n d len : Nat) : Bool :=
  let c := s.core n
  !s.mesh.injectStopped && decide (c.slots.length < 48) && (blocksOf d len).all (fun b =>
    let a := 256 * b
    let at_ := s.remap a
    decide ((c.slots.filter (fun x => x.channel == dpaChannel a && x.bank == dpaBank a)).length < 8)
      && ((s.mem.line b).isSome || decide ((s.bank (dpaChannel at_) (dpaBank at_)).used true < queueSize true)))

end Sys2Proof.Machine
end

