-- ==== Sys2Proof/Machine/Mesh.lean ====
section
/-! DEFINITION. The mesh: virtual channels, the places of the agents, and the routes of flits with their detours (R17 to R20, R27,
R28, R347, R468, R469). -/

namespace Sys2Proof.Machine

/-- Traffic of the mesh by kind (R28). -/
inductive MeshTraffic where
  | control | barrier | request | response | accumulate
  deriving DecidableEq, Repr

/-- The virtual channel of a kind of traffic (R28). -/
def MeshTraffic.vc : MeshTraffic → Nat
  | .control | .barrier => 0
  | .request => 1
  | .response => 2
  | .accumulate => 3

/-- A source may inject traffic of a kind: after a router's failure VC1 to VC3 wait until injection resumes (R468). -/
def State.injects (s : State) (k : MeshTraffic) : Bool := k.vc == 0 || !s.mesh.injectStopped

/-- The translation walkers that serve a half (R18, R366). -/
def walkerRouter (half : Nat) : Nat × Nat := if half = 0 then (0, 15) else (15, 0)
/-- The PCIe controller and the host bulk mover (R18). -/
def hostRouter : Nat × Nat := (0, 6)
/-- The router without a local port (R18, R19). -/
def bareRouter : Nat × Nat := (15, 9)
/-- The router that a SOURCE code names (R131). -/
def State.sourceRouter (s : State) (src : BitVec 16) : Nat × Nat :=
  if bitOf src.toNat 15 then (bitsOf src.toNat 14 8, bitsOf src.toNat 7 0) else s.corePos src.toNat

/-- From `x` to `y` in steps of one. -/
def stepsTo (x y : Nat) : List Nat :=
  if x ≤ y then (List.range (y - x + 1)).map (x + ·) else (List.range (x - y + 1)).map (x - ·)

/-- The route of a flit: along the source's row, then along the destination's column (R27). -/
def meshRoute (a b : Nat × Nat) : List (Nat × Nat) :=
  (stepsTo a.2 b.2).map (fun c => (a.1, c)) ++ ((stepsTo a.1 b.1).drop 1).map (fun r => (r, b.2))

/-- The detour row and column of a failed router (R469). -/
def detourLines (f : Nat × Nat) : Nat × Nat := (if f.1 = 14 then f.1 - 1 else f.1 + 1, if f.2 = 15 then f.2 - 1 else f.2 + 1)

/-- What replaces a failed router between its neighbours `p` and `n` on a route: a row segment passes it on the detour row, a
column segment on the detour column, and a turn cuts the corner (R469; the corner is DEDUCED, log 119). -/
def detourVia (f p n : Nat × Nat) : List (Nat × Nat) :=
  let d := detourLines f
  if p.1 = f.1 ∧ n.1 = f.1 then [(d.1, p.2), (d.1, f.2), (d.1, n.2)]
  else if p.2 = f.2 ∧ n.2 = f.2 then [(p.1, d.2), (f.1, d.2), (n.1, d.2)]
  else [(n.1, p.2)]

/-- A route with its detour round one failed router (R469). -/
def detourRoute (f : Nat × Nat) : List (Nat × Nat) → List (Nat × Nat)
  | p :: x :: n :: rest => if x = f then p :: detourVia f p n ++ detourRoute f (n :: rest) else p :: detourRoute f (x :: n :: rest)
  | l => l

/-- The route of a flit under the tables in force (R27, R469). -/
def State.route (s : State) (a b : Nat × Nat) : List (Nat × Nat) := s.mesh.failed.foldl (fun r f => detourRoute f r) (meshRoute a b)

/-- A flit, or the answer to it, crosses a router. -/
def State.crosses (s : State) (a b f : Nat × Nat) : Bool := (s.route a b).contains f || (s.route b a).contains f

end Sys2Proof.Machine
end

