-- ==== Sys2Proof/Machine/Translate.lean ====
section
/-! DEFINITION. Translation tables, walks and the translation caches (R363 to R369, R374). -/

namespace Sys2Proof.Machine

/-- Outcomes of a walk (R369). -/
inductive Walk where
  | page (base size dpa : Nat) (w x : Bool)
  | notPresent | malformed | range
  deriving DecidableEq, Repr

/-- The half of a core and its walker set (R20, R366). -/
def halfOf (n : Nat) : Nat := if clusterOf n < 8 then 0 else 1

/-- ROOT of a partition: the start of its range 0 (R363, R365). -/
def Part.root (p : Part) : Nat := match p.ranges with | [] => 0 | r :: _ => r.1

/-- Reserved bits of a table entry are set (R364). -/
def entryReserved (e : Nat) : Bool := bitsOf e 11 4 != 0 || bitsOf e 63 39 != 0
/-- ADDR of a table entry as a DPA (R364). -/
def entryAddr (e : Nat) : Nat := bitsOf e 38 12 * 4096

/-- A level-1 entry whose ADDR its level misaligns (R364). -/
def leafMisaligned (e : Nat) : Bool := bitOf e 1 && entryAddr e % 2 ^ 25 != 0

/-- A table entry read through the memory group: none when its sector is poisoned (R374). -/
def State.tableEntry (s : State) (dpa : Nat) : Option Nat :=
  if s.dramPoisoned dpa 8 then none else some (leNat (s.dramRead dpa 8))

/-- The level-2 part of a walk (R363, R364, R369). -/
def State.walk2 (s : State) (P : Part) (table va : Nat) (w x : Bool) : Walk :=
  match s.tableEntry (table + 8 * bitsOf va 24 16) with
  | none => .malformed
  | some e =>
    if !bitOf e 0 then .notPresent
    else if entryReserved e || !bitOf e 1 || entryAddr e % 65536 != 0 then .malformed
    else if !P.owns (entryAddr e) then .range
    else .page (va / 65536 * 65536) 65536 (entryAddr e) (w && bitOf e 2) (x && bitOf e 3)

/-- What a level-1 entry leads to (R363, R364, R369). -/
def State.walk1e (s : State) (P : Part) (e va : Nat) (w x : Bool) : Walk :=
  if !bitOf e 0 then .notPresent
  else if entryReserved e || leafMisaligned e then .malformed
  else if !P.owns (entryAddr e) then .range
  else if bitOf e 1 then .page (va / 2 ^ 25 * 2 ^ 25) (2 ^ 25) (entryAddr e) (w && bitOf e 2) (x && bitOf e 3)
  else s.walk2 P (entryAddr e) va (w && bitOf e 2) (x && bitOf e 3)

/-- A walk of the tables: the level-0 and level-1 entries read, if any, and the outcome (R363, R364, R369). -/
def State.walkTables (s : State) (p va : Nat) : Option Nat × Option Nat × Walk :=
  let P := s.part p
  match s.tableEntry (P.root + 8 * bitsOf va 47 34) with
  | none => (none, none, .malformed)
  | some e0 =>
    if !bitOf e0 0 then (none, none, .notPresent)
    else if entryReserved e0 || bitOf e0 1 then (none, none, .malformed)
    else if !P.owns (entryAddr e0) then (some e0, none, .range)
    else
      match s.tableEntry (entryAddr e0 + 8 * bitsOf va 33 25) with
      | none => (some e0, none, .malformed)
      | some e1 => (some e0, some e1, s.walk1e P e1 va (bitOf e0 2) (bitOf e0 3))

/-- SUBCODE of an access that a walk does not allow (R369): 1 not present, 2 permission, 3 malformed, 4 range. -/
def Walk.sub (r : Walk) (write fetch : Bool) : Option Nat :=
  match r with
  | .page _ _ _ w x => if (write && !w) || (fetch && !x) then some 2 else none
  | .notPresent => some 1
  | .malformed => some 3
  | .range => some 4

/-- An agent other than a core translates an address: its DPA or SUBCODE (R366, R369). -/
def State.xlateAgent (s : State) (p va : Nat) (write : Bool) : Nat ⊕ Nat :=
  let r := (s.walkTables p va).2.2
  match r.sub write false, r with
  | some e, _ => .inr e
  | none, .page b _ d _ _ => .inl (d + (va - b))
  | none, _ => .inr 1

/-- The walk cache entry for a level and address prefix (R366). -/
def State.cachedEntry (s : State) (half p level index : Nat) : Option Nat :=
  ((s.mem.walkCache.getD half []).find? (fun e => e.part == p && e.level == level && e.index == index)).map
    (fun e => e.entry.toNat)

/-- Insert an entry in a walk cache of 4,096 entries, newest first (R366, log 19). -/
def cacheInsert (l : List WalkEntry) (e : WalkEntry) : List WalkEntry :=
  (e :: l.filter (fun x => !(x.part == e.part && x.level == e.level && x.index == e.index))).take 4096

/-- A 48-bit counter's next value. -/
def incr48 (n : Nat) : Nat := (n + 1) % 2 ^ 48

/-- Table entries that the rest of a walk reads after a level-1 entry (R363). -/
def walk1Reads (P : Part) (e va : Nat) : List Nat :=
  if bitOf e 0 && !bitOf e 1 && !entryReserved e && P.owns (entryAddr e) then [entryAddr e + 8 * bitsOf va 24 16] else []
/-- Table entries that the rest of a walk reads after a level-0 entry (R363). -/
def State.walk0Reads (s : State) (P : Part) (e va : Nat) : List Nat :=
  if bitOf e 0 && !bitOf e 1 && !entryReserved e && P.owns (entryAddr e) then
    let d := entryAddr e + 8 * bitsOf va 33 25
    d :: (match s.tableEntry d with | some e1 => walk1Reads P e1 va | none => [])
  else []
/-- Table entries that a whole walk reads (R363). -/
def State.walkReads (s : State) (p va : Nat) : List Nat :=
  let P := s.part p
  let d := P.root + 8 * bitsOf va 47 34
  d :: (match s.tableEntry d with | some e0 => s.walk0Reads P e0 va | none => [])
/-- Reads of table entries go through their memory groups (R351, R366). -/
def State.touchTables (s : State) (ds : List Nat) : State := ds.foldl (fun s d => s.touch d 8 false) s

/-- A walker set holds a table entry, unless it is not present or malformed (R367). -/
def State.walkHold (s : State) (half p level index e : Nat) : State :=
  if !bitOf e 0 || entryReserved e || (level == 1 && leafMisaligned e) then s
  else
    let x : WalkEntry := { part := p, level := level, index := index, entry := BitVec.ofNat 64 e }
    s.modMem (fun m => { m with walkCache := m.walkCache.modify half (fun l => cacheInsert l x) })

/-- A walker set's walk: the walk cache first, then the tables through the memory-side cache; entries that are not present or
malformed are not held (R351, R366, R367). Walks and walk-cache hits are counted (R564). -/
def State.walk (s : State) (half p va : Nat) : State × Walk :=
  let s := s.modMem (fun m => { m with walks := m.walks.modify half incr48 })
  let hit (s : State) : State := s.modMem (fun m => { m with walkHits := m.walkHits.modify half incr48 })
  let P := s.part p
  let i0 := bitsOf va 47 34
  let i1 := bitsOf va 47 25
  match s.cachedEntry half p 0 i0, s.cachedEntry half p 1 i1 with
  | some e0, some e1 => ((hit s).touchTables (walk1Reads P e1 va), s.walk1e P e1 va (bitOf e0 2) (bitOf e0 3))
  | some e0, none =>
    let t := (hit s).touchTables (s.walk0Reads P e0 va)
    if !P.owns (entryAddr e0) then (t, .range)
    else
      match s.tableEntry (entryAddr e0 + 8 * bitsOf va 33 25) with
      | none => (t, .malformed)
      | some e1 => (t.walkHold half p 1 i1 e1, s.walk1e P e1 va (bitOf e0 2) (bitOf e0 3))
  | none, _ =>
    let (a, b, r) := s.walkTables p va
    let t := s.touchTables (s.walkReads p va)
    let t := match a with | some e0 => t.walkHold half p 0 i0 e0 | none => t
    let t := match b with | some e1 => t.walkHold half p 1 i1 e1 | none => t
    (t, r)

/-- A core's translation buffer entry for an address (R366). -/
def Core.tlbHit (c : Core) (p va : Nat) : Option TlbEntry :=
  c.tlb.find? (fun e => e.part == p && decide (e.base ≤ va) && decide (va < e.base + e.size))

/-- A core translates an address through its translation buffer and its walker set (R366, R367): a DPA or a SUBCODE. The
walk uses address bits [47:16] only (R363, log 22). -/
def State.xlate (s : State) (n p va : Nat) (write fetch : Bool) : State × (Nat ⊕ Nat) :=
  let va := va % 2 ^ 48
  match (s.core n).tlbHit p va with
  | some e =>
    if (write && !e.w) || (fetch && !e.x) then (s, .inr 2) else (s, .inl (e.dpa + (va - e.base)))
  | none =>
    let (s, r) := s.walk (halfOf n) p va
    match r with
    | .page b sz d w x =>
      let e : TlbEntry := { part := p, base := b, size := sz, dpa := d, w := w, x := x }
      let s := s.modCore n (fun c => { c with tlb := (e :: c.tlb).take 64 })
      if (write && !w) || (fetch && !x) then (s, .inr 2) else (s, .inl (d + (va - b)))
    | r => (s, .inr ((r.sub write fetch).getD 1))

/-- The pieces of [va, va + len) that lie in one 64 KiB page each, as (address, length). -/
def pagePieces : Nat → Nat → Nat → List (Nat × Nat)
  | 0, _, _ => []
  | fuel + 1, va, len =>
    if len = 0 then []
    else
      let m := min len (65536 - va % 65536)
      (va, m) :: pagePieces fuel (va + m) (len - m)

/-- Pages that a range can touch. -/
def pageFuel (len : Nat) : Nat := len / 65536 + 2

/-- A core translates every page of a range: the physical pieces, or the SUBCODE and address of the first failure. -/
def State.xlateRange (s : State) (n p va len : Nat) (write : Bool) : State × (List (Nat × Nat) ⊕ (Nat × Nat)) :=
  (pagePieces (pageFuel len) va len).foldl (fun acc pc =>
    match acc with
    | (s, .inr e) => (s, .inr e)
    | (s, .inl ps) =>
      match s.xlate n p pc.1 write false with
      | (s, .inl d) => (s, .inl (ps ++ [(d, pc.2)]))
      | (s, .inr sub) => (s, .inr (sub, pc.1))) (s, .inl [])

/-- An agent translates every page of a range. -/
def State.xlateRangeAgent (s : State) (p va len : Nat) (write : Bool) : List (Nat × Nat) ⊕ (Nat × Nat) :=
  (pagePieces (pageFuel len) va len).foldl (fun acc pc =>
    match acc with
    | .inr e => .inr e
    | .inl ps =>
      match s.xlateAgent p pc.1 write with
      | .inl d => .inl (ps ++ [(d, pc.2)])
      | .inr sub => .inr (sub, pc.1)) (.inl [])

/-- Bytes of physical pieces in order. -/
def State.readPieces (s : State) (ps : List (Nat × Nat)) : Bytes := ps.flatMap (fun p => s.dramRead p.1 p.2)
/-- Some piece holds poisoned data. -/
def State.poisonedPieces (s : State) (ps : List (Nat × Nat)) : Bool := ps.any (fun p => s.dramPoisoned p.1 p.2)
/-- Write bytes over physical pieces in order (R351). -/
def State.writePieces (s : State) : List (Nat × Nat) → Bytes → State
  | [], _ => s
  | p :: ps, bs => State.writePieces (s.memWrite p.1 (bs.take p.2)) ps (bs.drop p.2)
/-- Reads of physical pieces go through their memory groups (R351). -/
def State.touchPieces (s : State) (ps : List (Nat × Nat)) : State := ps.foldl (fun s p => s.touch p.1 p.2 false) s

/-- The walks of an agent over [va, va + n) read their table entries through the memory groups (R351). -/
def State.touchWalks (s : State) (p va n : Nat) : State :=
  (pagePieces (pageFuel n) va n).foldl (fun s pc => s.touchTables (s.walkReads p pc.1)) s
/-- An agent's read of [va, va + n): its walks and its data go through the memory groups (R351). -/
def State.touchVa (s : State) (p va n : Nat) : State :=
  let t := s.touchWalks p va n
  match s.xlateRangeAgent p va n false with
  | .inl ps => t.touchPieces ps
  | .inr _ => t

/-- Invalidate a partition in both walker sets and in the translation buffers of its pool (R367). -/
def State.invalidatePart (s : State) (p : Nat) : State :=
  let s := s.modMem (fun m => { m with walkCache := m.walkCache.map (fun l => l.filter (fun e => e.part != p)) })
  { s with cores := (List.zip (List.range s.cores.length) s.cores).map (fun nc =>
      if (s.part p).inPool nc.1 then { nc.2 with tlb := nc.2.tlb.filter (fun e => e.part != p) } else nc.2) }

end Sys2Proof.Machine
end

