-- ==== Sys2Proof/Machine/Runs.lean ====
section
/-! DEFINITION. How a core's run opens and closes: share charges, epochs, trace records, cluster clocks, clearing (R34,
R35, R167 to R169, R212, R213, R320, R518, R527). -/

namespace Sys2Proof.Machine

/-- A run of this kind is charged to its partition (R169, R455, R460). -/
def RunKind.chargeable : RunKind → Bool
  | .shadow | .repeatRun => false
  | _ => true

/-- Code of a run kind in trace records (R527). -/
def RunKind.code : RunKind → Nat
  | .run => 0 | .replay => 1 | .repeatRun => 2 | .shadow => 3 | .arbiter => 4

/-- Add a charge of `ticks` to a partition (R169). -/
def Part.charge (p : Part) (ticks : Nat) : Part :=
  if p.share = 0 then p
  else
    let t := ticks * 65536 + p.carry
    { p with service := (p.service + t / p.share) % 2 ^ 64, carry := t % p.share }

/-- Take a charge of `ticks` back, for a run that R169 leaves uncharged (log 23). -/
def Part.uncharge (p : Part) (ticks : Nat) : Part :=
  if p.share = 0 then p
  else
    let t := p.service * p.share + p.carry - ticks * 65536
    { p with service := t / p.share, carry := t % p.share }

/-- The charge of R169 for a core, at 1,024 held ticks or at its release. -/
def State.chargeCore (s : State) (n : Nat) : State :=
  let c := s.core n
  let s := if c.kind.chargeable then s.modPart c.part (fun p => p.charge c.heldTicks) else s
  s.modCore n (fun x => { x with heldTicks := 0, charged := x.charged + c.heldTicks })

/-- Take back what a run was charged (R169, log 23). -/
def State.unchargeCore (s : State) (n : Nat) : State :=
  let c := s.core n
  let s := if c.kind.chargeable then s.modPart c.part (fun p => p.uncharge c.charged) else s
  s.modCore n (fun x => { x with heldTicks := 0, charged := 0 })

/-- The 18 words of an epoch record (R213, R555). -/
def Epoch.words (e : Epoch) : List (BitVec 64) :=
  [BitVec.ofNat 64 (e.number.toNat + e.state * 2 ^ 32 + e.part * 2 ^ 40 + e.task * 2 ^ 48), BitVec.ofNat 64 e.jobId.toNat]
    ++ (List.range 16).map (fun k => BitVec.ofNat 64 (e.counts.getD k 0))

/-- Body of a TASK_START or of the start of a TASK_END record (R527). -/
def Core.taskBody (c : Core) : Bytes :=
  leBytes 4 c.epoch.jobId.toNat ++ leBytes 2 c.task ++ leBytes 1 c.cls.toNat ++ leBytes 1 c.kind.code

/-- TASK_START (R527). -/
def State.traceStart (s : State) (n : Nat) : State :=
  let c := s.core n
  s.trace c.part 1 (coreSource n) 1 (c.taskBody ++ leBytes 8 c.startTag.toNat)

/-- TASK_END and EPOCH at an epoch's close (R523, R527). -/
def State.traceEnd (s : State) (n : Nat) (committed : Bool) (status : Nat) : State :=
  let c := s.core n
  let e := c.epoch
  let s := s.trace c.part 2 (coreSource n) 2 (c.taskBody ++ leBytes 1 (b2n (!committed)) ++ leBytes 1 0 ++ leBytes 2 status
    ++ leBytes 4 e.number.toNat ++ leBytes 8 (e.counts.getD 0 0) ++ leBytes 8 (e.counts.getD 1 0)
    ++ leBytes 8 (e.counts.getD 14 0))
  s.trace c.part 3 (coreSource n) 5 (leBytes 4 e.number.toNat ++ leBytes 1 (if committed then 1 else 2) ++ leBytes 3 0
    ++ leBytes 4 e.jobId.toNat ++ leBytes 2 e.task ++ leBytes 2 0
    ++ (List.range 16).flatMap (fun k => leBytes 8 (e.counts.getD k 0)))

/-- The partitions whose pool holds a core of a cluster (R518). -/
def State.clusterParts (s : State) (c : Nat) : List Nat :=
  (List.range 8).filter (fun p => (List.range 12).any (fun i => (s.part p).inPool (12 * c + i)))

/-- No core of the cluster holds a placed task (R34). -/
def State.clusterIdle (s : State) (c : Nat) : Bool := (List.range 12).all (fun i => (s.core (12 * c + i)).phase == .idle)

/-- A cluster without a placed task is clock-stopped, with GAP_BEGIN records (R34, R518). -/
def State.clusterStop (s : State) (c : Nat) : State :=
  if s.clusterIdle c && s.wnd.clusters.getD c .stopped == .running then
    let st := s.stamp
    let s := s.modWnd (fun w => { w with clusters := w.clusters.set c .stopped, gapStamp := w.gapStamp.set c st })
    (s.clusterParts c).foldl (fun s p => s.trace p 4 srcDbg 1 (leBytes 1 c)) s
  else s

/-- A restarted cluster runs, with GAP_END records (R35, R518). -/
def State.clusterRun (s : State) (c : Nat) : State :=
  let g := s.wnd.gapStamp.getD c 0
  let s := s.modWnd (fun w => { w with clusters := w.clusters.set c .running })
  (s.clusterParts c).foldl (fun s p => s.trace p 5 srcDbg 1 (leBytes 1 c ++ leBytes 7 0 ++ leBytes 8 g.toNat)) s

/-- What a core keeps after its run: pillars, scratchpad, accumulators and counts of its own (R172, R361, R388). A run that
ended before it started left the previous task's data, and one that ended while clearing left part of it (R167, R184). -/
def Core.afterRun (c : Core) (st : Nat) : Core :=
  let e := { c.epoch with state := st }
  { c with
    phase := .idle, kind := .run, queues := List.replicate 5 {}, stall := none, fetchStopped := false, effects := [],
    stageUsed := 0, pval := none, cacheMode := false, issuedAny := false, cacheLines := [], firstMiss := none, streams := [],
    driftDone := [], attend := none, numStore := [], held := [], building := [], runPuts := (0, 0, 0), epoch := e, frozen := e,
    heldTicks := 0, runTicks := 0, charged := 0,
    lastPart := if c.phase = .waitClock then c.lastPart else if c.phase = .clearing then none else some c.part,
    lastJob := if c.phase = .waitClock then c.lastJob else if c.phase = .clearing then none else some c.job,
    slots := (c.slots.filter (fun x => !x.waiting)).map (fun x => { x with dropped := true }),
    crc := none, ended := none, dissentCrc := none, awaitAck := false, signalsSent := false }

/-- End a core's run: the last charge, the epoch's close, trace records, and the core's release (R154, R169, R212).
`st` is 1 for a release and 2 for a discard; `charged` says whether R169 charges the run. The cluster keeps its clock. -/
def State.closeRunKeep (s : State) (n st status : Nat) (charged : Bool) : State :=
  if (s.core n).phase == .idle then s
  else
    let s := if charged then s.chargeCore n else s.unchargeCore n
    let s := if (s.core n).phase == .waitClock then s else s.traceEnd n (st == 1) status
    s.modCore n (fun c => if c.phase == .waitClock then { c.afterRun c.epoch.state with epoch := c.epoch, frozen := c.frozen }
      else c.afterRun st)

/-- End a core's run and stop its cluster's clock when no core of it holds a task (R34, R154, R212). -/
def State.closeRun (s : State) (n st status : Nat) (charged : Bool) : State :=
  if (s.core n).phase == .idle then s else (s.closeRunKeep n st status charged).clusterStop (clusterOf n)

/-- Bytes of an allocation (R383). -/
def Pillar.bytes (p : Pillar) : Nat := p.slots.length * p.slotBytes + p.spEntries * p.entryBytes
/-- RES_TOP of a core (R383). -/
def Core.topOfPillars (c : Core) : Nat := c.pillars.foldl (fun t p => max t (p.base + p.bytes)) 0

/-- Core clearing of R167: everything above the resident area and the accumulators become zero with valid check bits
(R320). -/
def Core.clear (c : Core) : Core :=
  let keepW (l : List Nat) := l.filter (fun w => decide (16 * w < c.resTop))
  { c with sp := Mem1.keep (fun a => decide (a < c.resTop)) c.sp, missing := keepW c.missing, poison := keepW c.poison,
           badWords := keepW c.badWords, flipWords := keepW c.flipWords, acc := [], accUpsets := [] }

/-- Zero a range of the scratchpad with valid check bits (R385, R320). -/
def Core.zeroRange (c : Core) (a n : Nat) : Core :=
  let out (w : Nat) := decide (16 * w + 16 ≤ a) || decide (a + n ≤ 16 * w)
  { c with sp := Mem1.keep (fun x => decide (x < a) || decide (a + n ≤ x)) c.sp, missing := c.missing.filter out,
           poison := c.poison.filter out, badWords := c.badWords.filter out, flipWords := c.flipWords.filter out }

/-- A pillar ends: its allocation is zeroed and its directory emptied (R385). -/
def Core.endPillars (c : Core) (p : Pillar → Bool) : Core :=
  let gone := c.pillars.filter p
  let c := gone.foldl (fun c x => c.zeroRange x.base x.bytes) c
  { c with pillars := c.pillars.filter (fun x => !p x) }

/-- Pillar `index` of a partition on a core (R382). -/
def Core.pillar (c : Core) (part index : Nat) : Option Pillar := c.pillars.find? (fun x => x.part == part && x.index == index)

/-- A pillar number names an existing pillar of a partition (R382). -/
def State.pillarExists (s : State) (part num : Nat) : Bool := decide (num < 3072) && ((s.core (num / 16)).pillar part (num % 16)).isSome

/-- A core in use must be cleared before this partition's task starts (R167). -/
def Core.needsClear (c : Core) (part : Nat) : Bool := c.lastPart != some part

/-- The epoch opens as a run starts on a core (R212). -/
def Core.openEpoch (c : Core) (jobId : BitVec 32) : Core :=
  { c with epoch := { number := c.epoch.number + 1, state := 0, part := c.part, jobId := jobId, task := c.task,
                      counts := List.replicate 16 0 } }

end Sys2Proof.Machine
end

