-- ==== Sys2Proof/Machine/Staged.lean ====
section
/-! DEFINITION. Collective descriptors as a core reads them, and the checks of a task that becomes STAGED (R425, R426, R429,
R431, R442). -/

namespace Sys2Proof.Machine

/-- NODE_ID (R413). -/
def State.nodeId (s : State) : Nat := bitsOf s.lnk.node.toNat 11 0

/-- A port's route is UP (R411, R442). -/
def State.portUp (s : State) (p : Nat) : Bool := (s.port p).st == .up

/-- A descriptor of R425 from its 128 bytes. -/
def parseDesc (b : Bytes) : CollDesc :=
  { kind := byteAt b 0, topology := byteAt b 1, upPort := byteAt b 2, ranks := field b 4 2, myRank := field b 6 2,
    key := BitVec.ofNat 32 (field b 8 4), buckets := field b 12 4, bucketTable := field b 16 8, nodeTable := field b 24 8,
    parts := field b 32 2, lateBeats := field b 34 2, giveUpBeats := field b 36 4, recvVa := field b 40 8,
    recvBytes := field b 48 8, recordVa := field b 56 8, completeEvents := bitOf (byteAt b 64) 0 }

/-- Bytes of a partition's memory as an edge agent reads them; none when they do not translate or are poisoned. -/
def State.readVa (s : State) (part va n : Nat) : Option Bytes :=
  match s.xlateRangeAgent part va n false with
  | .inl ps => if s.poisonedPieces ps then none else some (s.readPieces ps)
  | .inr _ => none

/-- PART.COLL_COUNT; a value above 256 acts as 0 (R553). -/
def Part.collTable (p : Part) : Nat := let n := bitsOf p.collCount.toNat 8 0; if n ≤ 256 then n else 0

/-- The 128 bytes of a collective descriptor (R425). -/
def State.descBytes (s : State) (part n : Nat) : Option Bytes :=
  let P := s.part part
  if n < P.collTable then s.readVa part (P.collBase.toNat + 128 * n) 128 else none

/-- A bucket entry's 32 bytes (R426). -/
def State.bucketEntry (s : State) (part : Nat) (d : CollDesc) (b : Nat) : Option Bytes := s.readVa part (d.bucketTable + 32 * b) 32
/-- A rank's node and port from the node table (R425). -/
def State.nodeEntry (s : State) (part : Nat) (d : CollDesc) (r : Nat) : Option (Nat × Nat) :=
  (s.readVa part (d.nodeTable + 4 * r) 4).map (fun b => (bitsOf (leNat b) 11 0, bitsOf (leNat b) 18 16))

/-- The remote-accumulate header of R431 by fields. -/
structure AccHeader where
  coll : Nat
  bucket : Nat
  rank : Nat
  part : Nat
  flags : Nat
  tile : Nat
  offset : Nat
  rest : Nat
  deriving DecidableEq, Repr

/-- Read the header from bytes [63:8] of MX_DRAIN (R431). -/
def parseAccHeader (b : Bytes) : AccHeader :=
  { coll := field b 0 2, bucket := field b 2 2, rank := field b 4 2, part := byteAt b 6, flags := byteAt b 7,
    tile := field b 8 4, offset := field b 12 2, rest := field b 14 42 }

/-- Lines of a tile named by a bucket entry (R426). -/
def tileLinesOf (entry : Bytes) (tile : Nat) : Nat :=
  let total := field entry 0 4
  let per := field entry 4 2
  if per = 0 then 0 else min per (total - tile * per)

/-- The adding point of a tile under a descriptor is another module: its rank (R431). -/
def CollDesc.adderRank (d : CollDesc) (tile : Nat) : Nat := if d.topology = 3 then tile % max 1 d.ranks else d.myRank

/-- The check of R429 for one effect, with the route it needs (R442): false when the check fails. An ARM's KIND is COLL's to
refuse (R425, R427). -/
def State.stagedEffect (s : State) (part : Nat) (e : Effect) : Bool × Option Nat :=
  match e with
  | .linkSend coll rank arg _ data _ =>
    match s.descBytes part coll with
    | some b =>
      let d := parseDesc b
      let node := s.nodeEntry part d rank
      ((d.kind == 3 || d.kind == 4) && decide (rank < d.ranks) && decide (arg + data.length ≤ d.recvBytes) && node.isSome,
        node.bind (fun n => if n.1 = s.nodeId then none else some n.2))
    | none => (false, none)
  | .arm coll _ _ =>
    match s.descBytes part coll with
    | some _ => (true, none)
    | none => (false, none)
  | .barrierArrive coll _ _ =>
    match s.descBytes part coll with
    | some b => (byteAt b 0 == 2, none)
    | none => (false, none)
  | .remoteAcc header _ lines _ =>
    let h := parseAccHeader header
    match s.descBytes part h.coll with
    | some b =>
      let d := parseDesc b
      match s.bucketEntry part d h.bucket with
      | some be =>
        let ok := d.kind == 1 && decide (h.coll < 256) && decide (h.bucket < d.buckets) && h.rank == d.myRank
          && decide (h.part < d.parts) && decide (h.flags < 2) && h.rest == 0
          && decide (h.offset + lines.length ≤ tileLinesOf be h.tile)
        let a := d.adderRank h.tile
        (ok, if a = d.myRank then none else (s.nodeEntry part d a).map (·.2))
      | none => (false, none)
    | none => (false, none)
  | _ => (true, none)

/-- The reads of the descriptor that an effect's check makes go through the memory groups (R351). -/
def State.touchEffect (s : State) (part : Nat) (e : Effect) : State :=
  let desc (n : Nat) : State := s.touchVa part ((s.part part).collBase.toNat + 128 * n) 128
  match e with
  | .linkSend coll .. | .arm coll .. | .barrierArrive coll .. => desc coll
  | .remoteAcc header .. => desc (parseAccHeader header).coll
  | _ => s

/-- The address of the ISSUE of an effect (R210). -/
def Effect.pc : Effect → Nat
  | .remoteAcc _ _ _ pc | .linkSend _ _ _ _ _ pc | .arm _ _ pc | .barrierArrive _ _ pc => pc
  | _ => 0

/-- The STAGED checks of a run: R429 first, then the routes of R442. -/
def State.stagedCause (s : State) (n : Nat) : Option Cause :=
  let c := s.core n
  match c.effects.find? (fun e => !(s.stagedEffect c.part e).1) with
  | some e => some (.exception 0x15 e.pc 0)
  | none =>
    (c.effects.findSome? (fun e => (s.stagedEffect c.part e).2.bind (fun p => if s.portUp p then none else some p))).map .link

end Sys2Proof.Machine
end

