-- ==== Sys2Proof/Machine/Jobs.lean ====
section
/-! DEFINITION. Causes of discard, task states, predicates and the end of jobs (R138 to R162, R166, R171). -/

namespace Sys2Proof.Machine

/-- Job-end status of a cause (R158, R160, R207, R208). -/
def Cause.status : Cause → Nat
  | .xlat .. => 0x100 | .poison => 0x101 | .bankConflict .. => 0x102 | .sequence _ => 0x103 | .staging => 0x104
  | .weightVersion _ => 0x105 | .kvTable .. => 0x106 | .stash => 0x107 | .hardware .. => 0x108 | .link _ => 0x109
  | .runLimit | .noCore | .noPillar | .exception .. => 0x10A
  | .displaced | .predicate | .aborted | .reset => 0

/-- SUBCODE of a cause (R162, R166, R173, R207, R305, R318, R369, R386, R392, R453). -/
def Cause.sub : Cause → Nat
  | .xlat s _ _ => s | .bankConflict q _ => q | .weightVersion s => s | .kvTable s _ => s | .hardware .. => 1
  | .runLimit => 1 | .noCore => 2 | .noPillar => 3 | .exception n _ _ => n
  | _ => 0

/-- The cause is replayed (R158, R369). -/
def Cause.replayed : Cause → Bool
  | .xlat s _ _ => s == 1
  | .kvTable .. | .hardware .. | .link _ | .displaced => true
  | _ => false

/-- The discard counts toward REPLAY_LIMIT (R158). -/
def Cause.counted : Cause → Bool
  | .displaced => false
  | c => c.replayed

/-- The event that a cause writes for the task's job (R210, R305, R318, R337, R371). -/
def Cause.event (c : Cause) (core : Nat) : Option Ev :=
  match c with
  | .xlat sub va kind => some { code := 0x0B00, sev := 1, source := coreSource core,
                                payload := va % 2 ^ 48 + sub * 2 ^ 48 + kind * 2 ^ 52 }
  | .kvTable sub h => some { code := 0x0900, sev := 0, source := coreSource core, payload := h % 2 ^ 48 + sub * 2 ^ 48 }
  | .bankConflict _ p | .sequence p => some { code := 0x0A00, sev := 2, source := coreSource core, payload := p }
  | .exception n va code => some { code := 0x0600, sev := 2, source := coreSource core,
                                   payload := va % 2 ^ 48 + n * 2 ^ 48 + code * 2 ^ 56 }
  | _ => none

/-- DETAIL of a fault that arises from a task (R162). -/
def taskDetail (sub core task : Nat) : BitVec 32 := BitVec.ofNat 32 (2 ^ 31 + sub % 128 * 2 ^ 24 + core % 256 * 2 ^ 16 + task % 65536)

/-- A state that an R171 active partition has a task in. -/
def TaskState.active : TaskState → Bool
  | .ready | .running | .speculative | .staged => true
  | _ => false

/-- A final state (R138). -/
def TaskState.final : TaskState → Bool
  | .committed | .discarded => true
  | _ => false

/-- A partition has a READY, RUNNING, SPECULATIVE or STAGED task (R171). -/
def State.partActive (s : State) (p : Nat) : Bool :=
  s.wnd.jobs.any (fun j => j.part == p && j.phase == .live && j.tasks.any (fun t => t.st.active))

/-- R171: a partition that has just become active takes at least the lowest service count of the other active ones. -/
def State.raiseService (s : State) (p : Nat) : State :=
  let others := (List.range 8).filter (fun q => q != p && s.partActive q)
  match others with
  | [] => s
  | q :: qs =>
    let m := qs.foldl (fun m r => min m (s.part r).service) (s.part q).service
    s.modPart p (fun x => { x with service := max x.service m })

/-- Change one task's state, with the raise of R171 when its partition becomes active. -/
def State.setTask (s : State) (ser t : Nat) (f : TaskSt → TaskSt) : State :=
  match s.job ser with
  | none => s
  | some j =>
    let was := s.partActive j.part
    let s := s.modTask ser t f
    if !was && s.partActive j.part then s.raiseService j.part else s

/-- FLAGS of a task entry (R142). -/
def TaskSt.flag (t : TaskSt) (b : Nat) : Bool := bitOf t.flags.toNat b
/-- The task is bound: CORE_FIXED, or learning with AFFINITY (R454). -/
def TaskSt.bound (t : TaskSt) : Bool := t.flag 2 || (t.cls == 1 && t.affinity != 0xFFFF)

/-- What a task's predicate says: some true commits, some false discards, none unresolved (R139, R142). -/
def Job.predState (j : Job) (t : TaskSt) : Option Bool :=
  if t.pred = 0xFF#8 then some true
  else ((j.preds.getD t.pred.toNat default).value).map (fun v => v != t.flag 1)

/-- An edge satisfies its TO task (R145). -/
def Job.edgeMet (j : Job) (e : Edge) : Bool :=
  match j.tasks[e.src]? with
  | some f => (f.st == .committed && f.delivered) || (e.resolve && f.st == .discarded)
  | none => true

/-- The logical cores running a task, repeats apart. -/
def State.runsOf (s : State) (ser t : Nat) : List Nat :=
  (List.range 192).filter (fun n =>
    let c := s.core n
    c.phase != .idle && c.kind != .repeatRun && c.job == ser && c.task == t)

/-- Discard every run of a task (R139, R154). -/
def State.discardRuns (s : State) (ser t status : Nat) (charged : Bool) : State :=
  (s.runsOf ser t).foldl (fun s n => s.closeRun n 2 status charged) s

/-- A task that is given up for good: its runs end and it becomes DISCARDED. -/
def State.dropTask (s : State) (ser t status : Nat) : State :=
  (s.discardRuns ser t status true).modTask ser t (fun x => { x with st := .discarded, pair := none, heldGrant := false })

/-- The cores of a job's pool that a task may ever take, freeness apart (R165, R166). -/
def State.mayTake (s : State) (j : Job) (t : TaskSt) : List Nat :=
  let pool := (List.range 192).filter (fun n => s.inPool j.part n)
  if t.flag 2 then pool.filter (· == t.coreFix)
  else if t.cls = 2 then pool.filter isAttention
  else if t.cls = 1 && t.affinity != 0xFFFF then pool.filter (· == t.affinity / 16)
  else pool

/-- No core can ever take the task: R166, leaving AFFINITY tasks to R386. -/
def State.notPlaceable (s : State) (j : Job) (t : TaskSt) : Bool :=
  if t.cls = 1 && t.affinity != 0xFFFF && !t.flag 2 then false else (s.mayTake j t).isEmpty

/-- Whether a job-end entry may be written: no task runs or delivers (R159, R161). -/
def Job.done (j : Job) : Bool :=
  (j.ending.isSome && j.phase != .live) ||
    (j.phase == .live && j.tasks.all (fun t => t.st == .discarded || (t.st == .committed && t.delivered)))

/-- Write the job-end entry and its acknowledgements and drop the job (R125, R129, R134, R159, R161). -/
def State.endJob (s : State) (ser : Nat) : State :=
  match s.job ser with
  | none => s
  | some j =>
    if !j.done then s
    else
      let (st, det) := j.ending.getD (if j.specDiscard then 3 else 0, 0)
      let s := s.complete j.link j.fn j.id 0 st det j.userTag j.irq
      let s := j.acks.foldl (fun s a => s.complete j.link j.fn j.id 1 a.1 0 0 a.2) s
      s.dropJob ser

/-- A job ends for a fault or abort: every uncommitted task is discarded, and the first ending stands (R159). -/
def State.failJob (s : State) (ser status : Nat) (detail : BitVec 32) : State :=
  match s.job ser with
  | none => s
  | some j =>
    if j.ending.isSome then s
    else
      let s := s.modJob ser (fun j => { j with ending := some (BitVec.ofNat 16 status, detail) })
      let s := (List.range j.tasks.length).foldl (fun s t =>
        match s.task ser t with
        | some x => if x.st.final then s else s.dropTask ser t status
        | none => s) s
      s.endJob ser

/-- Discard a task without replay and end its job (R158, R162). -/
def State.failTask (s : State) (ser t status sub core : Nat) : State :=
  (s.dropTask ser t status).failJob ser status (taskDetail sub core t)

/-- TASK_VALUE predicates whose setting task is DISCARDED resolve false (R148). -/
def Job.resolveDiscarded (j : Job) : Job :=
  { j with preds := j.preds.map (fun p =>
      if p.source = 1 ∧ p.value = none ∧ (j.tasks.getD p.task {}).st = .discarded then { p with value := some false } else p) }

/-- A QUEUED task's next state under R139: discarded by its predicate or an edge, or ready. -/
inductive Settle where
  | stay | byPredicate | byEdge | ready | stagedNow | runningNow
  deriving DecidableEq, Repr

/-- What R139 does now with one task; `finished` says that its run has executed TEND. A READY task whose predicate resolves to
the discard sense is discarded for that cause (R138, R158). -/
def Job.settleTask (j : Job) (i : Nat) (t : TaskSt) (finished : Bool) : Settle :=
  let ps := j.predState t
  match t.st with
  | .queued =>
    if ps = some false then .byPredicate
    else if j.edges.any (fun e => e.dst == i && !e.resolve && (j.tasks.getD e.src {}).st == .discarded) then .byEdge
    else if j.edges.all (fun e => e.dst != i || j.edgeMet e) && t.notBeforeMet && (ps == some true || t.flag 0) then .ready
    else .stay
  | .ready => if ps = some false then .byPredicate else .stay
  | .speculative =>
    if ps = some false then .byPredicate else if ps = some true then (if finished then .stagedNow else .runningNow) else .stay
  | _ => .stay

/-- The run of a task has finished: its core executed TEND and its checks are done (R139, R203). -/
def State.finished (s : State) (ser t : Nat) : Bool :=
  let l := s.runsOf ser t
  !l.isEmpty && l.all (fun n => (s.core n).phase == .finished)

/-- REPLAY_LIMIT in force (R141). -/
def Job.limit (j : Job) : Nat := if j.replayLimit = 0 then 8 else j.replayLimit

/-- A discarded run's task returns to READY, or stays discarded at the limit and ends the job with `status` and `sub`
(R139, R158). -/
def State.replayTask (s : State) (ser t core status sub : Nat) (counted : Bool) (f : TaskSt → TaskSt) : State :=
  match s.job ser, s.task ser t with
  | some j, some x =>
    let d := x.discards + b2n counted
    let s := s.modTask ser t (fun x => { x with discards := d, lastCore := core, pair := none, heldGrant := false, excludeCores := [] })
    if counted && decide (j.limit ≤ d) then s.failTask ser t status sub core
    else s.setTask ser t (fun x => f { x with st := .ready })
  | _, _ => s

/-- RETRY_BEATS of a partition; 0 acts as 1 (R370). -/
def Part.retryBeats (p : Part) : Nat := max 1 (bitsOf p.xlatCfg.toNat 15 0)

/-- What a cause does to a task whose runs have ended (R158). -/
def State.causeEffect (s : State) (ser t core : Nat) (c : Cause) : State :=
  match s.job ser, s.task ser t with
  | some j, some _ =>
    let s := s.modTask ser t (fun x => { x with lastCore := core })
    let s := match c.event core with | some e => s.eventJob ser e | none => s
    if c.replayed then
      s.replayTask ser t core c.status c.sub c.counted (fun x =>
        match c with
        | .xlat .. => { x with retryBeat := some (s.time.counted + (s.part j.part).retryBeats) }
        | .link p => { x with routeDown := some p }
        | _ => x)
    else s.failTask ser t c.status c.sub core
  | _, _ => s

/-- A task whose run has finished becomes STAGED: its core makes the checks of R429 and R442, and a failure discards the run
(R139). -/
def State.becomeStaged (s : State) (ser t : Nat) : State :=
  match (s.runsOf ser t).head? with
  | none => s
  | some n =>
    let k := s.stagedCause n
    let s := (s.core n).effects.foldl (fun s e => s.touchEffect (s.core n).part e) s
    match k with
    | none => s.modTask ser t (fun x => { x with st := .staged })
    | some c => (s.closeRun n 2 c.status true).causeEffect ser t n c

/-- A RUNNING task whose run has finished becomes STAGED (R139). -/
def State.stageRunning (s : State) (ser t : Nat) : State :=
  match s.task ser t with
  | some x => if x.st == TaskState.running then s.becomeStaged ser t else s
  | none => s

/-- A run of the task is judged by rows of its own before the task can become STAGED (R457, R462, R463). -/
def TaskSt.underJudgement (t : TaskSt) : Bool := t.pair.isSome || t.heldGrant

/-- Apply R139 once to task `i`; true when something changed. -/
def State.settleOne (s : State) (ser i : Nat) : State × Bool :=
  match s.job ser with
  | none => (s, false)
  | some j =>
    match j.tasks[i]? with
    | none => (s, false)
    | some t =>
      match j.settleTask i t (s.finished ser i && !t.underJudgement) with
      | .stay => (s, false)
      | .byPredicate =>
        let s := s.dropTask ser i 0
        (if t.flag 0 then s.modJob ser (fun j => { j with specDiscard := true }) else s, true)
      | .byEdge => (s.dropTask ser i 0, true)
      | .stagedNow => (s.becomeStaged ser i, true)
      | .runningNow => (s.modTask ser i (fun x => { x with st := .running }), true)
      | .ready =>
        if s.notPlaceable j t then (s.failTask ser i 0x10A 2 t.lastCore, true)
        else (s.setTask ser i (fun x => { x with st := .ready }), true)

/-- Apply R139 and R148 to a job until nothing changes, then end it if every task has ended. -/
def State.settle : Nat → State → Nat → State
  | 0, s, ser => s.endJob ser
  | k + 1, s, ser =>
    match s.job ser with
    | none => s
    | some j =>
      if j.phase != .live then s.endJob ser
      else
        let s := s.modJob ser Job.resolveDiscarded
        let r := (List.range j.tasks.length).foldl (fun a i => let b := a.1.settleOne ser i; (b.1, a.2 || b.2)) (s, false)
        if r.2 then State.settle k r.1 ser else r.1.endJob ser

/-- Rounds that settling a job can take: each changes some task's state, at most three times. -/
def Job.rounds (j : Job) : Nat := 3 * j.tasks.length + 1

/-- Bring a job's tasks up to date (R139, R148, R159, R161). -/
def State.settleJob (s : State) (ser : Nat) : State :=
  match s.job ser with
  | none => s
  | some j => s.settle j.rounds ser

/-- Bring every job up to date. -/
def State.settleAll (s : State) : State := s.wnd.serials.foldl (fun s ser => s.settleJob ser) s

/-- A cause reaches the Winder for a task whose runs have ended (R158, R159). -/
def State.applyCause (s : State) (ser t core : Nat) (c : Cause) : State :=
  match s.job ser, s.task ser t with
  | some _, some _ => (s.causeEffect ser t core c).settleJob ser
  | _, _ => s

/-- The run is one of a shadowed pair or its arbiter, a repeat, or a bound task's replay that serves as the repeat: how it
ended is judged by rows of its own (R456, R457, R462, R463). -/
def State.judged (s : State) (n : Nat) : Bool :=
  let c := s.core n
  c.kind == .repeatRun || c.kind == .arbiter ||
    (match s.task c.job c.task with | some t => t.underJudgement | none => false)

/-- A core's run meets a cause (R158, R207, R208). -/
def State.endRun (s : State) (n : Nat) (c : Cause) : State :=
  let k := s.core n
  if k.phase == .idle || k.phase == .delivering then s
  else if s.judged n then s.modCore n (fun x => { x with phase := .finished, ended := some (.cause c), stall := none })
  else (s.closeRun n 2 c.status true).applyCause k.job k.task n c

/-- Resolve a job's bucket predicates for a completed bucket (R148, R440). -/
def Pred.bucket (p : Pred) (coll bucket : Nat) (status : BitVec 8) : Pred :=
  if (p.source = 2 ∨ p.source = 3) ∧ p.coll = coll ∧ p.first ≤ bucket ∧ bucket < p.first + p.count ∧ p.value = none then
    let seen := (p.seen.filter (fun x => x.1 != bucket)) ++ [(bucket, status)]
    let bad (x : Nat × BitVec 8) : Bool :=
      bitOf x.2.toNat 0 || bitOf x.2.toNat 1 || (p.source == 3 && bitOf x.2.toNat 2)
    { p with seen := seen, value := if seen.length = p.count then some (!seen.any bad) else none }
  else p

end Sys2Proof.Machine
end

