-- ==== Sys2Proof/Machine/Place.lean ====
section
/-! DEFINITION. Tallies, placement of READY tasks, the start of runs and the rows that drive them (R144, R153, R164 to
R174, R184, R320, R336, R337, R370, R394, R404, R455, R459, R460, R463). -/

namespace Sys2Proof.Machine

/-- Filled slots of a tally, modulo 2^32 (R334). -/
def Tally.filled (t : Tally) : Nat := (t.fill - t.drain).toNat

/-- PAYLOAD of a sequence fault (R318, R337). -/
def sequencePayload (actor tally : Nat) (drain : Bool) (count filled size : Nat) : Nat :=
  2 + actor * 16 + tally * 256 + b2n drain * 2 ^ 14 + count % 256 * 2 ^ 15 + min filled 255 * 2 ^ 23 + size % 256 * 2 ^ 31

/-- A fill or drain of a tally by an actor (R336, R337); a remote signal (actor 7) on an unconfigured tally has no
condition. -/
def Core.tallyOp (c : Core) (t : Nat) (drain : Bool) (n actor : Nat) : Core ⊕ Cause :=
  let x := c.tally t
  let go : Core := c.modTally t (fun x => if drain then { x with drain := x.drain + BitVec.ofNat 32 n }
    else { x with fill := x.fill + BitVec.ofNat 32 n })
  match x.size with
  | none => .inl go
  | some sz =>
    let ok := if drain then decide (n ≤ x.filled) else decide (x.filled + n ≤ sz)
    if ok then .inl go else .inr (.sequence (sequencePayload actor t drain n x.filled sz))

/-- Apply a committed signal to a running core (R153, R336). -/
def State.applySignal (s : State) (n : Nat) (g : Signal) : State :=
  match (s.core n).tallyOp g.tally g.drain g.count 7 with
  | .inl c => s.modCore n (fun _ => c)
  | .inr f => s.endRun n f

/-- The input gate of R404 holds a READY learning task back. -/
def TaskSt.gated (t : TaskSt) : Bool :=
  let tag := t.tag.toNat
  t.cls == 1 && bitOf tag 50 &&
    decide ((t.signals.filter (fun g => g.tally == bitsOf tag 49 44 && !g.drain)).foldl (fun a g => a + g.count) 0 < bitsOf tag 58 51)

/-- A READY task that may be placed now, cores apart (R141, R370, R404, R442). -/
def Job.placeable (j : Job) (t : TaskSt) : Bool :=
  j.phase == .live && j.ending.isNone && j.startMet && t.st == .ready && t.retryBeat.isNone && t.routeDown.isNone && !t.gated

/-- A core is free (R165). -/
def State.free (s : State) (n : Nat) : Bool := (s.core n).phase == .idle

/-- Cores that a task may take, freeness apart, after a replay's exclusions; with no other core in the pool
the excluded ones serve (R165, R455, R463; log 58). -/
def State.allowed (s : State) (j : Job) (t : TaskSt) : List Nat :=
  let l := s.mayTake j t
  let l := if t.cls = 1 && t.affinity != 0xFFFF then l.filter (fun n => n == t.affinity / 16 || t.flag 2) else l
  if t.bound || t.excludeCores.isEmpty then l
  else
    let far := l.filter (fun n => !t.excludeCores.any (fun x => clusterOf x == clusterOf n))
    let rest := l.filter (fun n => !t.excludeCores.contains n)
    if !far.isEmpty then far else if rest.isEmpty then l else rest

/-- A generation task, or a learning task without AFFINITY, that takes an ordinary core where one is free (R165). -/
def TaskSt.plain (t : TaskSt) : Bool := !t.flag 2 && (t.cls == 0 || (t.cls == 1 && t.affinity == 0xFFFF))

/-- Free cores that a task may take now: a generation task takes an attention core only when no ordinary core of the pool is
free (R165). -/
def State.eligible (s : State) (j : Job) (t : TaskSt) (taken : List Nat) : List Nat :=
  let l := (s.allowed j t).filter (fun n => s.free n && !taken.contains n)
  if t.plain then
    let ordinaryFree := (List.range 192).any (fun n => s.inPool j.part n && !isAttention n && s.free n && !taken.contains n)
    if ordinaryFree then l.filter (fun n => !isAttention n) else l
  else l

/-- The task is shadowed (R459). -/
def Job.shadowed (j : Job) (i : Nat) (t : TaskSt) : Bool :=
  j.shadow && !t.bound && !t.flag 3 && (i ^^^ bitsOf j.id.toNat 15 0) % 2 ^ j.shadowShift == 0

/-- The core of a shadow run beside a primary: some (some n), wait (some none), or no second core at all (none) (R460, with the
exclusions of R455 and R463). -/
def State.shadowCore (s : State) (j : Job) (t : TaskSt) (primary : Nat) : Option (Option Nat) :=
  let all := (s.allowed j t).filter (· != primary)
  let far (n : Nat) : Bool := clusterOf n != clusterOf primary
  let now := s.eligible j t [primary]
  if all.isEmpty then none
  else
    match now.find? far with
    | some m => some (some m)
    | none => if all.any (fun n => far n && !(t.plain && isAttention n)) then some none else some now.head?

/-- The first placeable task of a partition that is not zeroing (R492), in order of ring position and task index, for which a core
is eligible. Jobs that came by different submission rings stand in the order they were consumed in (DESIGN CHOICE, log 114: R170
names only a job's ring position). -/
def State.firstReady (s : State) (p n : Nat) : Option (Nat × Nat) :=
  let js := s.jobList.filter (fun x => x.2.part == p && !(s.part p).zeroing)
  (js.flatMap (fun x => (List.range x.2.tasks.length).filterMap (fun i =>
    match x.2.tasks[i]? with
    | some t => if x.2.placeable t && (s.eligible x.2 t []).contains n then some (x.1, i) else none
    | none => none))).head?

/-- The winner for a free core: the lowest service count, then the lowest partition number (R170). -/
def State.winner (s : State) (n : Nat) : Option (Nat × Nat) :=
  let cands := (List.range 8).filterMap (fun p => (s.firstReady p n).map (fun w => ((s.part p).service, w)))
  match cands with
  | [] => none
  | c :: cs => some (cs.foldl (fun b x => if x.1 < b.1 then x else b) c).2

/-- The task entry and recorded signals that a run starts with: the task's own, or for a repeat those it was placed with, whose
job may have ended (R153, R455, R458). -/
def State.startOf (s : State) (n : Nat) : Option TaskSt :=
  let c := s.core n
  if c.kind = .repeatRun then some c.start else s.task c.job c.task

/-- The run begins at PROGRAM: registers, tallies with the recorded signals, instruction cache, and the weight version
check (R144, R153, R184, R394). -/
def State.begin (s : State) (n : Nat) : State :=
  let c := s.core n
  match s.startOf n with
  | none => s
  | some t =>
    let s := s.modCore n (fun c =>
      { c with phase := .executing, pc := t.program,
               g := (((List.replicate 32 (0 : BitVec 64)).set 1 t.argAddr).set 2 (BitVec.ofNat 64 c.task)).set 3 t.tag,
               p := true :: List.replicate 7 false, queues := List.replicate 5 {}, tallies := List.replicate 64 {},
               effects := [], stageUsed := 0, pval := none, fetchStopped := false, stall := none, slot0 := {}, slot1 := {}, pass := {}, attend := none,
               streams := [], driftDone := [], creditAt := s.time.ticks, lastStream := 0,
               credit := (max 1 (bitsOf (s.part c.part).fetch.toNat 31 16) * 1024 : Nat),
               icache := if c.lastJob = some c.job then c.icache else [],
               icacheUpsets := if c.lastJob = some c.job then c.icacheUpsets else [] })
    let s := t.signals.foldl (fun s g => s.applySignal n g) s
    let ver := bitsOf t.tag.toNat 31 0
    if t.cls = 1 && t.affinity != 0xFFFF && ver != 0xFFFFFFFF then
      let pl := ((s.core (t.affinity / 16)).pillar c.part (t.affinity % 16)).getD default
      if pl.slots.any (fun x => x.st == .live ver) then s
      else s.endRun n (.weightVersion (match pl.newest with | some m => if ver ≤ m then 1 else 2 | none => 2))
    else s

/-- A run starts on a core whose cluster is clocked: the epoch opens, and the core clears first where R167 asks (R167,
R212, R383). -/
def State.startOnCore (s : State) (n : Nat) : State :=
  let c := s.core n
  let s := s.modCore n (fun c => { (c.openEpoch c.jobId) with resTop := c.topOfPillars, phase := .clearing })
  let s := s.traceStart n
  if c.needsClear c.part then s else s.begin n

/-- Put a run of a task on a free core, restarting a stopped cluster; the translation caches are invalidated before a job's
first task (R35, R138, R165, R367). -/
def State.startRun (s : State) (n ser t : Nat) (kind : RunKind) : State :=
  match s.job ser, s.task ser t with
  | some j, some x =>
    let s := if j.invalidated then s else (s.invalidatePart j.part).modJob ser (fun j => { j with invalidated := true })
    let s := s.modCore n (fun c => { c with phase := .waitClock, job := ser, task := t, part := j.part, kind := kind, taskCount := j.tasks.length,
                                            cls := x.cls, startTag := x.tag, heldTicks := 0, runTicks := 0, charged := 0, jobId := j.id,
                                            stagingKib := j.stagingKib, start := x })
    let s := s.modTask ser t (fun x => { x with runs := x.runs + 1, lastCore := n })
    match s.wnd.clusters.getD (clusterOf n) .stopped with
    | .running => s.startOnCore n
    | _ => s.modWnd (fun w => { w with clusters := w.clusters.set (clusterOf n) .restarting })
  | _, _ => s

/-- The task's AFFINITY pillar does not exist (R386). -/
def State.lacksPillar (s : State) (j : Job) (t : TaskSt) : Bool :=
  t.cls == 1 && t.affinity != 0xFFFF && !s.pillarExists j.part t.affinity

/-- Place a READY task on its lowest eligible core, with its shadow or as an arbiter where due; a task without its AFFINITY
pillar is discarded (R139, R165, R386, R455, R460, R463). -/
def State.placeTask (s : State) (ser i : Nat) : State :=
  match s.job ser, s.task ser i with
  | some j, some t =>
    match (s.eligible j t []).head? with
    | none => s
    | some n =>
      if s.lacksPillar j t then s.failTask ser i 0x10A 3 t.lastCore
      else
        let run (s : State) : State :=
          s.modTask ser i (fun x => { x with st := if j.predState t = none then .speculative else .running })
        let kind : RunKind := if t.runs = 0 then .run else .replay
        match t.pair with
        | some p =>
          let s := run (s.modTask ser i (fun x => { x with pair := some { p with arbiter := some n } }))
          s.startRun n ser i .arbiter
        | none =>
          if j.shadowed i t then
            match s.shadowCore j t n with
            | none =>
              let s := s.modPart j.part (fun q => { q with shadowSkip := satAdd 48 q.shadowSkip 1 })
              (run s).startRun n ser i kind
            | some none => s
            | some (some m) =>
              let s := s.modPart j.part (fun q => { q with shadowRuns := satAdd 48 q.shadowRuns 1 })
              let s := run (s.modTask ser i (fun x => { x with pair := some { primary := n, shadow := m } }))
              (s.startRun n ser i kind).startRun m ser i .shadow
          else (run s).startRun n ser i kind
  | _, _ => s

/-- READY tasks that would be placed but whose AFFINITY pillar has ended with its core: R166, R386, SUBCODE 0x03. -/
def State.endPillarless (s : State) : State :=
  s.wnd.serials.foldl (fun s ser =>
    match s.job ser with
    | none => s
    | some j => (List.range j.tasks.length).foldl (fun s i =>
        match s.job ser, s.task ser i with
        | some j, some t =>
          if j.placeable t && s.lacksPillar j t && (s.mayTake j t).isEmpty then
            s.failTask ser i 0x10A 3 t.lastCore
          else s
        | _, _ => s) s) s

/-- A finished SPECULATIVE task is displaced when another partition with a lower service count has a READY task for its
core (R173). -/
def State.displace (s : State) (n : Nat) : State :=
  let c := s.core n
  match s.task c.job c.task with
  | some t =>
    if t.st == .speculative && c.phase == .finished && t.pair.isNone && c.kind != .repeatRun then
      let freed := s.closeRun n 2 0 true
      match freed.winner n with
      | some w =>
        match s.job w.1 with
        | some j =>
          if j.part != c.part && decide ((s.part j.part).service < (s.part c.part).service) then
            freed.replayTask c.job c.task n 0 0 false id
          else s
        | none => s
      | none => s
    else s
  | none => s

/-- TASK_PLACE: a core is free, or holds a finished speculative task that R173 displaces, and the Winder places the winning
task (R165, R166, R170, R173, R386, R460). -/
def execTaskPlace (core : Nat) (s : State) : Res :=
  if !s.active || decide (192 ≤ core) || s.isFenced core then .next s
  else
    let s := s.endPillarless
    let s := if (s.core core).phase == .idle then s else s.displace core
    if !s.free core then .next s
    else
      match s.winner core with
      | some w => .next (s.placeTask w.1 w.2)
      | none => .next s

/-- CORE_CLEAR_COMPLETE: clearing ends and the task begins at PROGRAM (R167, R320). -/
def execCoreClearComplete (core : Nat) (s : State) : Res :=
  if s.running && (s.core core).phase == .clearing then .next ((s.modCore core Core.clear).begin core) else .next s

/-- RUN_LIMIT_EXPIRY: a run longer than its partition's limit is discarded and its job ends (R173). -/
def execRunLimitExpiry (core : Nat) (s : State) : Res :=
  let c := s.core core
  let limit := (s.part c.part).runLimit
  if s.running && (c.phase == .executing || c.phase == .clearing) && limit != 0 && decide (limit < c.runTicks) then
    .next (s.endRun core .runLimit)
  else .next s

/-- SHARE_CHARGE: 1,024 held ticks are charged (R169). -/
def execShareCharge (core : Nat) (s : State) : Res :=
  if s.running && decide (1024 ≤ (s.core core).heldTicks) then .next (s.chargeCore core) else .next s

/-- XLAT_RETRY_EXPIRY: enough beats have been counted and the task may be placed again (R370). -/
def execXlatRetryExpiry (job task : Nat) (s : State) : Res :=
  match s.task job task with
  | some t =>
    match t.retryBeat with
    | some b => if b ≤ s.time.counted then .next (s.modTask job task (fun x => { x with retryBeat := none })) else .next s
    | none => .next s
  | none => .next s

/-- SIGNAL_DROPPED for a signal that no run will see (R153). -/
def State.signalDropped (s : State) (g : Signal) : State :=
  let e : Ev := { code := 0x0501, sev := 1, source := g.source,
                  payload := g.task % 65536 + g.tally * 2 ^ 16 + b2n g.drain * 2 ^ 22 + g.count * 2 ^ 24 }
  (s.eventTo g.link g.fn e (some g.id)).plogEvent e

/-- A committed signal reaches its destination (R153). A link signal that names no task of its live job is dropped like one whose
task has ended (DESIGN CHOICE, log 115: the table of R153 has no row for it). -/
def State.deliverSignal (s : State) (g : Signal) : State :=
  match s.task g.job g.task with
  | none => s.signalDropped g
  | some t =>
    if t.st.final then s.signalDropped g
    else
      let s := s.modTask g.job g.task (fun t => { t with signals := t.signals ++ [g] })
      (s.runsOf g.job g.task).foldl (fun s n =>
        if (s.core n).phase == .executing && (s.core n).job == g.job && (s.core n).task == g.task then s.applySignal n g else s) s

/-- Two signals go to one destination: one task, or tasks placed in one cluster (R153, R341). -/
def State.sameDest (s : State) (g h : Signal) : Bool :=
  (g.job == h.job && g.task == h.task)
    || (s.runsOf g.job g.task).any (fun n => (s.runsOf h.job h.task).any (fun m => clusterOf n == clusterOf m))

/-- TALLY_SIGNAL_DELIVERY: a signal in flight arrives (R153). The mesh keeps the order of the signals between one source and one
destination, so a later one waits (R341). -/
def execTallySignalDelivery (index : Nat) (s : State) : Res :=
  match s.wnd.signals[index]? with
  | some g =>
    if (s.wnd.signals.take index).any (fun h => h.source == g.source && s.sameDest g h) then .next s
    else .next ((s.modWnd (fun w => { w with signals := w.signals.eraseIdx index })).deliverSignal g)
  | none => .next s

end Sys2Proof.Machine
end

