-- ==== Sys2Proof/Machine/Packets.lean ====
section
/-! DEFINITION. Packets, flits and the ports' send side (R414 to R418, R422, R424). -/

namespace Sys2Proof.Machine

/-- Message kinds of R417. -/
def msgContrib : BitVec 8 := 1
/-- PARTIAL (R417). -/
def msgPartial : BitVec 8 := 2
/-- RESULT (R417). -/
def msgResult : BitVec 8 := 3
/-- SEND (R417). -/
def msgSend : BitVec 8 := 4
/-- BARRIER_ARRIVE (R417). -/
def msgArrive : BitVec 8 := 5
/-- BARRIER_RELEASE (R417). -/
def msgRelease : BitVec 8 := 6
/-- ACK (R417). -/
def msgAck : BitVec 8 := 7
/-- BUSY (R417). -/
def msgBusy : BitVec 8 := 8
/-- WAKE (R417). -/
def msgWake : BitVec 8 := 9

/-- The virtual channel of a message kind; none for a reserved one (R417). -/
def msgVc (m : BitVec 8) : Option (BitVec 2) :=
  match m.toNat with
  | 1 | 2 => some 3 | 3 | 7 | 8 => some 2 | 4 => some 1 | 5 | 6 | 9 => some 0 | _ => none

/-- A data message: one with a TAG count, acknowledged by ACK (R416, R424; log 28). -/
def isData (m : BitVec 8) : Bool := decide (1 ≤ m.toNat) && decide (m.toNat ≤ 4)

/-- The lines of a packet as bytes. -/
def lineBytes (l : Line) : Bytes := l.flatMap (fun w => leBytes 4 w.toNat)
/-- 64 words of a 256-byte line. -/
def bytesLine (bs : Bytes) (off : Nat) : Line := (List.range 64).map (fun i => BitVec.ofNat 32 (field bs (off + 4 * i) 4))

/-- A packet's payload: the header of R416 and the data. -/
def packetBytes (p : Packet) : Bytes :=
  let by16 : Bytes :=
    match p.msg.toNat with
    | 1 | 2 | 3 => leBytes 4 p.tile.toNat ++ leBytes 2 p.offset.toNat ++ leBytes 2 p.lines.length
    | 4 => leBytes 4 p.sigJob.toNat ++ leBytes 2 p.sigTask.toNat ++ leBytes 1 p.sigTally.toNat ++ leBytes 1 p.sigCount.toNat
    | _ => leBytes 8 0
  leBytes 1 p.msg.toNat ++ leBytes 1 p.status.toNat ++ leBytes 1 p.part.toNat ++ leBytes 1 (b2n p.sig)
    ++ leBytes 4 p.key.toNat ++ leBytes 4 p.tag.toNat ++ leBytes 2 p.bucket.toNat ++ leBytes 2 p.rank.toNat ++ by16
    ++ leBytes 8 p.addr.toNat ++ p.lines.flatMap lineBytes ++ p.data

/-- A packet from a payload (R416): the inverse of `packetBytes`. -/
def parsePacket (port : Nat) (vc : BitVec 2) (src dst : BitVec 12) (poison : List Nat) (b : Bytes) : Packet :=
  let msg := BitVec.ofNat 8 (byteAt b 0)
  let lined := decide (1 ≤ msg.toNat) && decide (msg.toNat ≤ 3)
  let n := if lined then field b 22 2 else 0
  { port := port, src := src, dst := dst, vc := vc, msg := msg, status := BitVec.ofNat 8 (byteAt b 1),
    part := BitVec.ofNat 8 (byteAt b 2), sig := bitOf (byteAt b 3) 0, key := BitVec.ofNat 32 (field b 4 4),
    tag := BitVec.ofNat 32 (field b 8 4), bucket := BitVec.ofNat 16 (field b 12 2), rank := BitVec.ofNat 16 (field b 14 2),
    tile := if lined then BitVec.ofNat 32 (field b 16 4) else 0, offset := if lined then BitVec.ofNat 16 (field b 20 2) else 0,
    sigJob := if msg = 4 then BitVec.ofNat 32 (field b 16 4) else 0,
    sigTask := if msg = 4 then BitVec.ofNat 16 (field b 20 2) else 0,
    sigTally := if msg = 4 then BitVec.ofNat 8 (byteAt b 22) else 0,
    sigCount := if msg = 4 then BitVec.ofNat 8 (byteAt b 23) else 0,
    addr := BitVec.ofNat 64 (field b 24 8),
    lines := (List.range n).map (fun i => bytesLine b (32 + 256 * i)),
    data := if lined then [] else b.drop 32, poison := poison }

/-- The 16 header bytes of a flit (R414). -/
def flitHeader (f : Flit) : Bytes :=
  leBytes 1 (f.vc.toNat + 4 * f.typ.toNat + 16 * b2n f.first + 32 * b2n f.last + 64 * b2n f.nak) ++ leBytes 1 f.len.toNat
    ++ leBytes 2 f.hopSeq.toNat ++ leBytes 2 f.ackSeq.toNat ++ leBytes 1 (f.creditVc.toNat + 4 * f.credit.toNat)
    ++ leBytes 1 f.poison.toNat ++ leBytes 2 f.src.toNat ++ leBytes 2 f.dst.toNat ++ leBytes 4 f.e2eSeq.toNat

/-- The header as the tag authenticates it, with the hop fields zero (R422). -/
def flitAad (f : Flit) : Bytes :=
  flitHeader { f with hopSeq := 0, ackSeq := 0, nak := false, creditVc := 0, credit := 0, poison := 0 }

/-- The nonce of R422. -/
def flitNonce (src dst : BitVec 12) (vc : BitVec 2) (ctr : Nat) : Bytes :=
  leBytes 12 (ctr % 2 ^ 64 + vc.toNat * 2 ^ 64 + dst.toNat * 2 ^ 72 + src.toNat * 2 ^ 84)

/-- The keys with a peer (R422). -/
def State.linkKey (s : State) (node : Nat) : Option LinkKey := s.lnk.keys.find? (fun k => k.node == node)

/-- Flits of a packet (R416). -/
def flitCount (p : Packet) : Nat := max 1 (ceilDiv (packetBytes p).length 224)

/-- A DATA flit of this module sealed under a key with counter `ctr` (R422). -/
def sealFlit (k : LinkKey) (f : Flit) (plain : Bytes) (ctr : Nat) : Flit :=
  let f := { f with e2eSeq := BitVec.ofNat 32 ctr }
  let ct := Config.gcmSeal k.kOut (flitNonce f.src f.dst f.vc ctr) (flitAad f) plain
  { f with payload := sliceBytes ct 0 224, tag := sliceBytes ct 224 16 }

/-- Flit `i` of a packet, before it is sealed, with its clear payload (R414, R416). -/
def clearFlit (p : Packet) (i : Nat) : Flit × Bytes :=
  let b := packetBytes p
  let poison := (List.range 7).foldl (fun a j => a + b2n (decide (1 ≤ 7 * i + j) && p.poison.contains (7 * i + j - 1)) * 2 ^ j) 0
  ({ vc := p.vc, typ := 1, first := i == 0, last := i + 1 == flitCount p, len := BitVec.ofNat 8 (min 224 (b.length - 224 * i)),
     poison := BitVec.ofNat 8 poison, src := p.src, dst := p.dst }, sliceBytes b (224 * i) 224)

/-- The flits of a packet under a key, its counter starting at `ctr` (R414, R416, R422). -/
def packetFlits (k : LinkKey) (p : Packet) (ctr : Nat) : List Flit :=
  (List.range (flitCount p)).map (fun i => sealFlit k (clearFlit p i).1 (clearFlit p i).2 (ctr + i))

/-- A clear HANDSHAKE packet on VC0, which has no packet header and no tag (R414, R503). -/
def handshakeFlits (src dst : BitVec 12) (b : Bytes) : List Flit :=
  let n := max 1 (ceilDiv b.length 224)
  (List.range n).map (fun i =>
    { vc := 0, typ := 2, first := i == 0, last := i + 1 == n, len := BitVec.ofNat 8 (min 224 (b.length - 224 * i)),
      src := src, dst := dst, payload := sliceBytes b (224 * i) 224, tag := List.replicate 16 0 })

/-- The hop fields of a flit that leaves: what is acknowledged or asked for again, and one channel's credit (R414, R415, R418). -/
def PortSt.stampHop (p : PortSt) (f : Flit) : PortSt × Flit :=
  let v := ((List.range 4).find? (fun v => p.creditsOwed.getD v 0 != 0)).getD 0
  let n := min 63 (p.creditsOwed.getD v 0)
  ({ p with creditsOwed := p.creditsOwed.modify v (· - n), nakPending := none, ackDue := false },
    { f with nak := p.nakPending.isSome, ackSeq := p.nakPending.getD p.rxSeq, creditVc := BitVec.ofNat 2 v, credit := BitVec.ofNat 6 n })

/-- The port has hop fields to send. -/
def PortSt.owes (p : PortSt) : Bool := p.nakPending.isSome || p.ackDue || p.creditsOwed.any (· != 0)

/-- IDLE flits carry what no DATA flit has taken with it; they take no place in the hop sequence (R414, R418; log 121). -/
def PortSt.idle : Nat → PortSt → PortSt
  | 0, p => p
  | n + 1, p =>
    if p.st = .up ∧ p.owes then
      let (p, f) := p.stampHop { hopSeq := p.txSeq - 1, payload := List.replicate 224 0, tag := List.replicate 16 0 }
      PortSt.idle n { p with sent := p.sent ++ [f] }
    else p

/-- The flits from a hop sequence number onward leave once more (R415). -/
def PortSt.resendFrom (p : PortSt) (seq : BitVec 16) : PortSt :=
  { p with sent := p.sent ++ (p.replay.filter (fun g => decide ((g.1.hopSeq - seq).toNat < 2 ^ 15))).map (·.1) }
/-- Every flit that has not been acknowledged leaves once more (R415). -/
def PortSt.resendAll (p : PortSt) : PortSt := { p with sent := p.sent ++ p.replay.map (·.1) }

/-- The keys with a peer let this module send (R422 to R424). -/
def State.canSeal (s : State) (p : Packet) : Bool := (s.linkKey p.dst.toNat).isSome

/-- Whose flit of a virtual channel goes next from a port, where there is credit for one: a packet under way goes on, and a
forwarded packet goes before a new one of this module; 1 a forwarded one (R416, R418; log 121). -/
def State.nextOn (s : State) (port v : Nat) : Option Bool :=
  let p := s.port port
  let own := p.txq.any (fun x => x.pkt.vc.toNat == v && s.canSeal x.pkt)
  let fwd := p.fwd.any (fun f => f.vc.toNat == v)
  if p.credits.getD v 0 = 0 then none
  else
    match p.mid.getD v none with
    | some true => if fwd then some true else none
    | some false => if own then some false else none
    | none => if fwd then some true else if own then some false else none

/-- The virtual channel that a port serves next: VC0 first, then VC1 to VC3 in round-robin order (R419). -/
def State.nextVc (s : State) (port : Nat) : Option (Nat × Bool) :=
  let l := (s.port port).lastVc
  ([0, l % 3 + 1, (l + 1) % 3 + 1, (l + 2) % 3 + 1].find? (fun v => (s.nextOn port v).isSome)).bind (fun v =>
    (s.nextOn port v).map (fun k => (v, k)))

/-- A flit leaves a port for the first time: it takes the next hop sequence number and a credit, and is kept for replay (R415,
R416, R418, R419). -/
def PortSt.put (p : PortSt) (f : Flit) (plain : Bytes) (fwd : Bool) : PortSt :=
  let v := f.vc.toNat
  let (p, f) := p.stampHop { f with hopSeq := p.txSeq }
  { p with txSeq := p.txSeq + 1, replay := p.replay ++ [(f, plain)], sent := p.sent ++ [f], credits := p.credits.modify v (· - 1),
           lastVc := if v = 0 then p.lastVc else v, mid := p.mid.set v (if f.last then none else some fwd) }

/-- The forwarded flit of a channel that has waited longest leaves, and its place in the other ring port's buffer is free
(R418). -/
def State.putForwarded (s : State) (port v : Nat) : State :=
  match (s.port port).fwd.findIdx? (fun f => f.vc.toNat == v) with
  | none => s
  | some i =>
    let f := (s.port port).fwd.getD i {}
    (s.modPort port (fun p => { p with fwd := p.fwd.eraseIdx i }.put f [] true)).modPort (1 - port) (fun p =>
      { p with creditsOwed := p.creditsOwed.modify v (· + 1) })

/-- The next flit of this module's own packets on a channel is sealed and leaves; a packet under way goes on first (R416,
R422). -/
def State.putOwn (s : State) (port v : Nat) : State :=
  let p := s.port port
  let mine (x : TxItem) : Bool := x.pkt.vc.toNat == v && s.canSeal x.pkt
  let at_ := match p.txq.findIdx? (fun x => mine x && x.left != 0) with | some i => some i | none => p.txq.findIdx? mine
  match at_ with
  | none => s
  | some i =>
    let x := p.txq.getD i default
    match s.linkKey x.pkt.dst.toNat with
    | none => s
    | some k =>
      let ctr := k.ctrOut.getD v 0
      let (f, plain) := clearFlit x.pkt x.left
      let s := s.modLnk (fun l => { l with keys := l.keys.map (fun y =>
        if y.node = k.node then { y with ctrOut := y.ctrOut.set v (ctr + 1) } else y) })
      let q := if f.last then p.txq.eraseIdx i else p.txq.set i { x with left := x.left + 1 }
      s.modPort port (fun p => { p with txq := q }.put (sealFlit k f plain ctr) plain false)

/-- Send waiting flits while there is credit and room in the replay buffer (R415, R418, R419). -/
def State.pumpData : Nat → State → Nat → State
  | 0, s, _ => s
  | n + 1, s, port =>
    if (s.port port).st != .up || decide (512 ≤ (s.port port).replay.length) then s
    else
      match s.nextVc port with
      | none => s
      | some (v, fwd) => State.pumpData n (if fwd then s.putForwarded port v else s.putOwn port v) port

/-- Flits that wait at a port. -/
def PortSt.waiting (p : PortSt) : Nat := p.fwd.length + (p.txq.map (fun x => flitCount x.pkt)).sum

/-- A port sends what it may; what its hop fields and the other ring port's still owe goes in IDLE flits (R414, R418). -/
def State.pump (s : State) (port : Nat) : State :=
  let s := s.pumpData (s.port port).waiting port
  let idle (s : State) (q : Nat) : State := s.modPort q (fun p => PortSt.idle (p.creditsOwed.sum + 2) p)
  if port < 2 then idle (idle s port) (1 - port) else idle s port

/-- Put a packet on a port: it is sealed flit by flit as it leaves, and waits for the key of its destination (R422 to R424). -/
def State.emit (s : State) (port : Nat) (p : Packet) : State :=
  (s.modPort port (fun x => { x with txq := x.txq ++ [{ pkt := p }] })).pump port

/-- The next TAG for a destination and channel, counted from 1 (R416). -/
def State.nextTag (s : State) (node vc : Nat) : Nat :=
  ((s.lnk.txTag.find? (fun x => x.1 == node && x.2.1 == vc)).map (fun x => x.2.2)).getD 0 + 1

/-- Send a data packet: it gets its TAG and is kept until it is acknowledged (R416, R424, R433). -/
def State.sendData (s : State) (port : Nat) (core : Option Nat) (p : Packet) : State :=
  let tag := s.nextTag p.dst.toNat p.vc.toNat
  let p := { p with src := BitVec.ofNat 12 s.nodeId, tag := BitVec.ofNat 32 tag, port := port }
  let s := s.modLnk (fun l =>
    { l with txTag := (p.dst.toNat, p.vc.toNat, tag) :: l.txTag.filter (fun x => !(x.1 == p.dst.toNat && x.2.1 == p.vc.toNat)),
             tx := l.tx ++ [{ pkt := p, port := port, core := core }] })
  s.emit port p

/-- Send a control packet: ACK, BUSY, WAKE or a barrier message (R417). -/
def State.sendCtl (s : State) (port : Nat) (p : Packet) : State :=
  let p := { p with src := BitVec.ofNat 12 s.nodeId, port := port }
  (s.modLnk (fun l => { l with ctl := l.ctl ++ [p] })).emit port p

/-- Resend a kept packet (R424, R433). -/
def State.resend (s : State) (t : TxPacket) : State := s.emit t.port t.pkt

/-- Answer a packet with ACK or BUSY on the port it came by (R416, R417). -/
def State.answer (s : State) (msg : BitVec 8) (p : Packet) : State :=
  let rank := ((s.lnk.colls.find? (fun c => c.desc.key == p.key)).map (fun c => c.desc.myRank)).getD 0
  s.sendCtl p.port { dst := p.src, vc := 2, msg := msg, key := p.key, tag := p.tag, bucket := p.bucket, rank := BitVec.ofNat 16 rank }

end Sys2Proof.Machine
end

