-- ==== Sys2Proof/Machine/Fold.lean ====
section
/-! DEFINITION. Rank-ordered addition at the adding points, results and their path, wakes, link signals, and the
module-fatal fault (R430 to R439, R470, R471). -/

namespace Sys2Proof.Machine

/-- A module-fatal fault (R64, R471): FAULT_N, the event with its flushed record, and the end of every live job that still
has an ungranted task. `kind` is 1 Tipple, 2 edge router, 3 route-around limit. -/
def State.moduleFatal (s : State) (kind row column : Nat) (source : BitVec 16) : State :=
  if s.mgt.fatal then s
  else
    let s := s.modMgt (fun m => { m with fatal := true })
    let s := (s.modPwr (fun p => { p with faultN := true })).mgtEvent 9
    let s := s.eventModule { code := 0x0E07, sev := 2, source := source, payload := kind + 16 * column + 256 * row }
    s.wnd.serials.foldl (fun s ser =>
      match s.job ser with
      | some j => if j.phase == .live && j.tasks.all (fun t => t.st.final) then s else s.failJob ser 0x108 0xFFFFFFFF#32
      | none => s) s

/-- Change collective `i`. -/
def State.modColl (s : State) (i : Nat) (f : Coll → Coll) : State := s.modLnk (fun l => { l with colls := l.colls.modify i f })
/-- Collective `i`. -/
def State.coll (s : State) (i : Nat) : Coll := s.lnk.colls.getD i default
/-- Change a bucket. -/
def State.modBucket (s : State) (i b : Nat) (f : Bucket → Bucket) : State :=
  s.modColl i (fun c => { c with buckets := c.buckets.modify b f })
/-- A bucket. -/
def State.bucket (s : State) (i b : Nat) : Bucket := (s.coll i).buckets.getD b {}

/-- The armed collective with a key that lists a source node, of one of some kinds (R430). -/
def State.findColl (s : State) (key : BitVec 32) (src : Nat) (kinds : List Nat) : Option Nat :=
  s.lnk.colls.findIdx? (fun c => c.desc.key == key && kinds.contains c.desc.kind && c.nodes.any (fun n => n.1 == src))

/-- CHAIN or RING (R425). -/
def Coll.chained (c : Coll) : Bool := c.desc.topology != 3
/-- A PARTIAL comes first at this rank (R432). -/
def Coll.hasPartial (c : Coll) : Bool := c.chained && c.desc.myRank != 0
/-- Terms of a line at this module (R432). -/
def Coll.terms (c : Coll) : Nat := if c.chained then c.desc.parts + b2n c.hasPartial else c.desc.ranks * c.desc.parts
/-- Position of the contribution (rank, part) in the fold (R432). -/
def Coll.termOf (c : Coll) (rank part : Nat) : Nat := if c.chained then b2n c.hasPartial + part else rank * c.desc.parts + part
/-- The rank and part of a term; a PARTIAL counts as part 0 of the rank before (R432, R437). -/
def Coll.termName (c : Coll) (t : Nat) : Nat × Nat :=
  if c.chained then (if c.hasPartial && t == 0 then (c.desc.myRank - 1, 0) else (c.desc.myRank, t - b2n c.hasPartial))
  else (t / max 1 c.desc.parts, t % max 1 c.desc.parts)
/-- The rank that is the adding point of a tile for this module's contributions (R431). -/
def Coll.adder (c : Coll) (tile : Nat) : Nat := if c.chained then c.desc.myRank else tile % max 1 c.desc.ranks
/-- Node and port of a rank (R425). -/
def Coll.rankNode (c : Coll) (r : Nat) : Nat × Nat := c.nodes.getD r (0, 0)

/-- Lines of tile `t` (R426). -/
def Bucket.tileSize (b : Bucket) (t : Nat) : Nat := min b.tileLines (b.lines - t * b.tileLines)
/-- Tiles of the bucket (R426). -/
def Bucket.tileCount (b : Bucket) : Nat := if b.tileLines = 0 then 0 else ceilDiv b.lines b.tileLines

/-- The word is a NaN or an infinity (R241). -/
def f32Special (w : F32) : Bool := bitsOf w.toNat 30 23 == 255
/-- The word is a NaN (R241). -/
def f32IsNan (w : F32) : Bool := f32Special w && bitsOf w.toNat 22 0 != 0

/-- One addition of the fold, with its saturation (R432). -/
def addLine (a t : Line) : Line × Bool :=
  let r := List.zipWith fadd a t
  (r.map (·.1), r.any (fun x => x.2.sat))

/-- The status that a packet gives one of its lines: a contribution says NaN and infinity of the line's own values, and SAT for
all its lines; a PARTIAL or a RESULT carries the status of its lines (R431, R434). -/
def termStatus (msg status : BitVec 8) (line : Line) : BitVec 8 :=
  if msg = msgContrib then
    (status &&& 0xFC#8) ||| (if line.any f32IsNan then 1 else 0) ||| (if line.any (fun w => f32Special w && !f32IsNan w) then 2 else 0)
  else status

/-- Fold the next term into a line (R432, R434, R435). -/
def LineSt.foldTerm (x : LineSt) (zac isPartial : Bool) (status : BitVec 8) (line : Line) (poison : List Nat) : LineSt :=
  let swap := zac && !isPartial && poison.isEmpty && line.any f32Special
  let t := if swap then List.replicate 64 0#32 else line
  let st := (if swap then 0x10#8 else status) ||| (if poison.isEmpty then 0 else 0x21#8)
  match x.acc with
  | none => { x with acc := some t, next := x.next + 1, status := x.status ||| st, poison := poison }
  | some a =>
    let r := addLine a t
    { x with acc := some r.1, next := x.next + 1, status := x.status ||| st ||| (if r.2 then 4 else 0),
             poison := poison.foldl (fun l k => insertSorted k l) x.poison }

/-- Fold every held term whose turn has come (R432, R433). -/
def LineSt.drain (zac hasPartial : Bool) : Nat → LineSt → LineSt
  | 0, x => x
  | n + 1, x =>
    match x.held.find? (fun h => h.term == x.next) with
    | some h =>
      LineSt.drain zac hasPartial n
        ({ x with held := x.held.filter (fun y => y.term != h.term) }.foldTerm zac (hasPartial && h.term == 0) h.status h.line h.poison)
    | none => x

/-- What a Tipple does with a line of a term (R433, R437, R468). -/
inductive Take where
  | accepted (x : LineSt) | busy | duplicate | late
  deriving DecidableEq, Repr

/-- Offer term `t` to a line; `pinOk` says that a reorder slot can be pinned (R353, R432, R433). -/
def LineSt.offer (x : LineSt) (zac hasPartial : Bool) (terms t : Nat) (status : BitVec 8) (line : Line) (poison : List Nat)
    (pinOk : Bool) : Take :=
  if x.gaveUp then .late
  else if t < x.next || x.held.any (fun h => h.term == t) then .duplicate
  else if t = x.next then
    let y := LineSt.drain zac hasPartial (x.held.length + 1) (x.foldTerm zac (hasPartial && t == 0) status line poison)
    .accepted { y with finished := y.next == terms }
  else if pinOk then .accepted { x with held := x.held ++ [{ term := t, status := status, line := line, poison := poison }] }
  else .busy

/-- The line leaves out every term that has not arrived (R437). A line to which no term ever came takes `free` (log 31). -/
def LineSt.giveUp (x : LineSt) (zac hasPartial : Bool) (free : Line) : LineSt :=
  if x.finished then x
  else
    let hs := x.held.foldl (fun (l : List HeldTerm) h => (l.takeWhile (fun y => y.term < h.term)) ++ [h] ++ l.dropWhile (fun y => y.term < h.term)) []
    let y := hs.foldl (fun y h => y.foldTerm zac (hasPartial && h.term == 0) h.status h.line h.poison) { x with held := [] }
    { y with acc := some (y.acc.getD free), status := y.status ||| 0x09#8, gaveUp := true, finished := true }

/-- DPA at which a bucket's line `l` is summed and stored, if it translates (R426, R431). -/
def State.lineDpa (s : State) (part : Nat) (b : Bucket) (l : Nat) : Option Nat :=
  match s.xlateAgent part (b.resultVa.toNat + 256 * l) true with
  | .inl d => some d
  | .inr _ => none

/-- A reorder slot for a bucket's line can be pinned (R353). -/
def State.pinOk (s : State) (part : Nat) (b : Bucket) (l : Nat) : Bool :=
  match s.lineDpa part b l with
  | some d => s.canPin part (d / 256)
  | none => false

/-- The pins of a line follow its terms: the accumulator line is pinned with its first term, each held term has a reorder slot, and
a term that is folded or left out frees its slot (R353, R433; log 25). -/
def State.pinLine (s : State) (part block : Nat) (x y : LineSt) : State :=
  let s := if x.acc.isNone && y.acc.isSome then s.pinWay part block false else s
  let s := (List.range (x.held.length - y.held.length)).foldl (fun (s : State) _ => s.dropReorder block) s
  if x.held.length < y.held.length then s.pinWay part block true else s

/-- Cut the lines of a tile that a packet carries into runs of at most 55 with one status (R416, R431). -/
def lineRuns : Nat → List (Nat × LineSt) → List (List (Nat × LineSt))
  | 0, _ => []
  | _, [] => []
  | n + 1, x :: xs =>
    let run := ((List.zip (List.range 54) xs).takeWhile (fun k => k.2.1 == x.1 + k.1 + 1 && k.2.2.status == x.2.status)).map (·.2)
    (x :: run) :: lineRuns n (xs.drop run.length)

/-- A packet of lines of a tile. -/
def linesPacket (msg : BitVec 8) (c : Coll) (bucket tile : Nat) (dst : Nat) (run : List (Nat × LineSt)) : Packet :=
  { dst := BitVec.ofNat 12 dst, vc := (msgVc msg).getD 0, msg := msg, key := c.desc.key, bucket := BitVec.ofNat 16 bucket,
    rank := BitVec.ofNat 16 c.desc.myRank, tile := BitVec.ofNat 32 tile,
    offset := BitVec.ofNat 16 ((run.head?.map (·.1)).getD 0),
    status := (run.head?.map (fun x => x.2.status)).getD 0, lines := run.map (fun x => x.2.acc.getD []),
    poison := (List.zip (List.range run.length) run).flatMap (fun k => k.2.2.poison.map (· + 8 * k.1)) }

/-- Write one result line at this module and release its pin (R354, R433, R435, R438). A RESULT_VA that does not translate drops the
write (log 27). -/
def State.writeResult (s : State) (i b l : Nat) (line : Line) (status : BitVec 8) (poison : List Nat) : State :=
  let bk := s.bucket i b
  if bk.written.contains l then s
  else
    let s := match s.lineDpa (s.coll i).part bk l with
      | some d =>
        let s := (s.touchWalks (s.coll i).part (bk.resultVa.toNat + 256 * l) 256).memWrite d (lineBytes line)
        (poison.foldl (fun (s : State) k => s.dramPoison (d / 32 + k)) s).unpinLine (d / 256)
      | none => s
    s.modBucket i b (fun x => { x with written := insertSorted l x.written, status := x.status ||| status,
                                       replaced := satAdd 32 x.replaced (b2n (bitOf status.toNat 4)) })

/-- Ranks that this rank forwards a result to, with the port (R438). -/
def Coll.resultTo (c : Coll) (origin : Bool) : List (Nat × Nat) :=
  let r := c.desc.myRank
  let n := c.desc.ranks
  match c.desc.topology with
  | 1 => if r = 0 then [] else [c.rankNode (r - 1)]
  | 2 => if origin then (if n ≤ 1 then [] else [((c.rankNode 0).1, c.desc.upPort)])
         else if r + 2 < n then [((c.rankNode (r + 1)).1, c.desc.upPort)] else []
  | _ => if origin then ((List.range n).filter (· != r)).map c.rankNode else []

/-- Send finished lines onward: a PARTIAL to the next rank, or the result here and along its path (R432, R438). -/
def State.sendFinished (s : State) (i b t : Nat) (done : List (Nat × LineSt)) : State :=
  let c := s.coll i
  let bk := s.bucket i b
  let runs := lineRuns done.length done
  if c.chained && decide (c.desc.myRank + 1 < c.desc.ranks) then
    runs.foldl (fun s run =>
      s.sendData c.desc.upPort none (linesPacket msgPartial c b t (c.rankNode (c.desc.myRank + 1)).1 run)) s
  else
    let s := done.foldl (fun s x => s.writeResult i b (t * bk.tileLines + x.1) (x.2.acc.getD []) x.2.status x.2.poison) s
    runs.foldl (fun s run => (c.resultTo true).foldl (fun s d => s.sendData d.2 none (linesPacket msgResult c b t d.1 run)) s) s

/-- Wake senders that a tile answered BUSY, in ascending order of node; a local sender's packets are marked to be offered
again (R416, R433; log 30). -/
def State.wakeTile (s : State) (i b t : Nat) (who : Nat → Bool) : State :=
  let c := s.coll i
  let ws := ((s.bucket i b).tiles.getD t {}).waiters.filter who
  let s := s.modBucket i b (fun x => { x with tiles := x.tiles.modify t (fun y => { y with waiters := y.waiters.filter (fun n => !who n) }) })
  ws.foldl (fun s n =>
    if n = s.nodeId then
      s.modLnk (fun l => { l with tx := l.tx.map (fun x =>
        if x.port = 6 ∧ x.part = c.part ∧ x.pkt.key = c.desc.key ∧ x.pkt.bucket.toNat = b then { x with busy := false } else x) })
    else
      let port := ((c.nodes.find? (fun x => x.1 == n)).map (·.2)).getD 0
      s.sendCtl port { dst := BitVec.ofNat 12 n, vc := 0, msg := msgWake, key := c.desc.key, bucket := BitVec.ofNat 16 b,
                       rank := BitVec.ofNat 16 c.desc.myRank }) s

/-- The nodes whose terms are next in some line of a tile (R432, R433). -/
def Coll.nextNodes (c : Coll) (tile : TileSt) : List Nat :=
  (tile.lines.filter (fun x => !x.finished)).map (fun x => (c.rankNode (c.termName x.next).1).1)

/-- Pins of a partition have freed: every sender that waits at one of its OPEN buckets is woken (R353, R433). -/
def State.wakePart (s : State) (part : Nat) : State :=
  (List.range s.lnk.colls.length).foldl (fun (s : State) i =>
    if (s.coll i).part = part then
      (List.range (s.coll i).buckets.length).foldl (fun (s : State) b =>
        if (s.bucket i b).st = .opened then
          (List.range (s.bucket i b).tiles.length).foldl (fun (s : State) t => s.wakeTile i b t (fun _ => true)) s
        else s) s
    else s) s

/-- Whether a packet of terms was accepted, or the sender must keep it. -/
inductive Answer where
  | ack | busy
  deriving DecidableEq, Repr

/-- CONTRIB_REFUSED (R444). -/
def State.contribRefused (s : State) (i b src reason : Nat) : State :=
  s.eventPart (s.coll i).part { code := 0x0D06, sev := 1, source := srcColl,
                                payload := (s.coll i).number + b * 2 ^ 8 + src * 2 ^ 20 + reason * 2 ^ 32 }

/-- Record a sender in a tile's wake set (R433). -/
def State.addWaiter (s : State) (i b t node : Nat) : State :=
  s.modBucket i b (fun x => { x with tiles := x.tiles.modify t (fun y => { y with waiters := insertSorted node y.waiters }) })

/-- What became of the lines of a packet: the tile with them, whether some was taken, and whether one was a duplicate, came after a
give-up or was refused; `freed` when a reorder slot came free. -/
structure Offered where
  tile : TileSt
  fresh : Bool := false
  dup : Bool := false
  late : Bool := false
  busy : Bool := false
  freed : Bool := false
  deriving DecidableEq, Repr

/-- Offer line `k` of a packet to its tile: an upset sector of the accumulator line counts as poison of a term, and the pins
follow what the Tipple does (R432, R433, R435). -/
def State.offerLine (s : State) (i b t term : Nat) (p : Packet) (o : Offered) (k : Nat) : State × Offered :=
  let c := s.coll i
  let bk := s.bucket i b
  let off := p.offset.toNat + k
  let l := t * bk.tileLines + off
  let x := o.tile.lines.getD off {}
  let block := (s.lineDpa c.part bk l).map (· / 256)
  let upsets := if term = x.next ∧ x.acc.isSome then (block.map s.lineUpsets).getD [] else []
  let x' := if upsets.isEmpty then x
    else { x with poison := upsets.foldl (fun q k => insertSorted k q) x.poison, status := x.status ||| 0x21#8 }
  let line := p.lines.getD k []
  match x'.offer bk.zac c.hasPartial c.terms term (termStatus p.msg p.status line) line
      ((p.poison.filter (fun q => q / 8 == k)).map (· % 8)) (s.pinOk c.part bk l) with
  | .accepted y =>
    let s := match block with
      | some d => (if upsets.isEmpty then s else s.mendLine d).pinLine c.part d x y
      | none => s
    (s, { o with tile := { o.tile with lines := o.tile.lines.set off y }, fresh := true,
                 freed := o.freed || decide (y.held.length < x.held.length) })
  | .busy => (s, { o with busy := true })
  | .duplicate => (s, { o with dup := true })
  | .late => (s, { o with late := true })

/-- Offer the lines of a packet to their tile (R432, R433). -/
def State.offerLines (s : State) (i b t term : Nat) (p : Packet) : State × Offered :=
  (List.range p.lines.length).foldl (fun x k => x.1.offerLine i b t term p x.2 k) (s, { tile := (s.bucket i b).tiles.getD t {} })

/-- A finished line of this module is its result, which is written here (R432, R438). -/
def Coll.ends (c : Coll) : Bool := !(c.chained && decide (c.desc.myRank + 1 < c.desc.ranks))

/-- Terms of one packet arrive at their adding point. Its next terms are added even where a pin for another of its lines is
refused; the packet is then BUSY, and what it brings again later is no duplicate of a contributor (R432, R433, R436, R437,
R468; log 120). -/
def State.contribute (s : State) (i : Nat) (p : Packet) (term : Nat) : State × Answer :=
  let b := p.bucket.toNat
  let t := p.tile.toNat
  match (s.bucket i b).st with
  | .complete => (s.contribRefused i b p.src.toNat 1, .ack)
  | .opened =>
    let old := ((s.bucket i b).tiles.getD t {}).lines
    let (s, o) := s.offerLines i b t term p
    let idx := (List.range o.tile.lines.length).filter (fun k => (o.tile.lines.getD k {}).finished && !(old.getD k {}).finished)
    let s := s.modBucket i b (fun x => { x with tiles := x.tiles.set t o.tile })
    let s := if o.dup && !o.fresh && !o.busy then s.contribRefused i b p.src.toNat 2 else s
    let s := if o.late && !o.busy then s.contribRefused i b p.src.toNat 3 else s
    let s := s.sendFinished i b t (idx.map (fun k => (k, o.tile.lines.getD k {})))
    let c := s.coll i
    let s := if o.freed || (c.ends && !idx.isEmpty) then s.wakePart c.part else s.wakeTile i b t (c.nextNodes o.tile).contains
    if o.busy then (s.addWaiter i b t p.src.toNat, .busy) else (s, .ack)
  | _ => (s.addWaiter i b t p.src.toNat, .busy)

/-- A packet's fields name lines of a bucket of the collective (R416, R426, R431). -/
def State.linesFit (s : State) (i : Nat) (p : Packet) : Bool :=
  let c := s.coll i
  let bk := s.bucket i p.bucket.toNat
  decide (p.bucket.toNat < c.buckets.length) && decide (p.tile.toNat < bk.tileCount) && !p.lines.isEmpty
    && decide (p.offset.toNat + p.lines.length ≤ bk.tileSize p.tile.toNat)

/-- Offer again every local contribution that is not waiting for a wake (R433, log 30). -/
def State.retryLocal : Nat → State → State
  | 0, s => s
  | n + 1, s =>
    match s.lnk.tx.findIdx? (fun x => x.port == 6 && !x.busy) with
    | none => s
    | some k =>
      let x := s.lnk.tx.getD k default
      match s.lnk.colls.findIdx? (fun c => c.part == x.part && c.desc.key == x.pkt.key && c.desc.kind == 1) with
      | none => State.retryLocal n (s.modLnk (fun l => { l with tx := l.tx.modify k (fun y => { y with busy := true }) }))
      | some i =>
        match s.contribute i x.pkt ((s.coll i).termOf x.pkt.rank.toNat x.pkt.part.toNat) with
        | (s, .ack) => State.retryLocal n (s.modLnk (fun l => { l with tx := l.tx.eraseIdx k }))
        | (s, .busy) => State.retryLocal n (s.modLnk (fun l => { l with tx := l.tx.modify k (fun y => { y with busy := true }) }))

/-- Offer the local contributions: each of them leaves, and may wake the rest, at most once. -/
def State.offerLocal (s : State) : State := s.retryLocal (s.lnk.tx.length * (s.lnk.tx.length + 1) + 1)

/-- Open a bucket and wake its senders (R433, R436). -/
def State.openBucket (s : State) (i b : Nat) : State :=
  let s := s.modBucket i b (fun x => { x with st := .opened, openedAt := s.time.counted })
  let s := (List.range (s.bucket i b).tiles.length).foldl (fun s t => s.wakeTile i b t (fun _ => true)) s
  let c := s.coll i
  let key := c.desc.key
  let s := s.modLnk (fun l => { l with tx := l.tx.map (fun x =>
    if x.port = 6 ∧ x.part = c.part ∧ x.pkt.key = key ∧ x.pkt.bucket.toNat = b then { x with busy := false } else x) })
  let mine (x : Nat × Nat × Nat) : Bool := x.2.1 == key.toNat && x.2.2 == b && (s.coll i).nodes.any (fun n => n.1 == x.1)
  let ws := (s.lnk.keyWaiters.filter mine).map (·.1)
  let s := s.modLnk (fun l => { l with keyWaiters := l.keyWaiters.filter (fun x => !mine x) })
  let s := ws.foldl (fun s n =>
    let port := (((s.coll i).nodes.find? (fun x => x.1 == n)).map (·.2)).getD 0
    s.sendCtl port { dst := BitVec.ofNat 12 n, vc := 0, msg := msgWake, key := key, bucket := BitVec.ofNat 16 b,
                     rank := BitVec.ofNat 16 c.desc.myRank }) s
  s.offerLocal

/-- The live job of a partition with a JOB_ID (R124, R430). -/
def State.liveJob (s : State) (part : Nat) (id : BitVec 32) : Option Nat :=
  (s.jobList.find? (fun x => x.2.part == part && x.2.id == id)).map (·.1)

/-- Fill signals that wait in a partition for their jobs: each link message brings as many as its SIG_COUNT (R430). -/
def Part.waitingSignals (p : Part) : Nat := p.waitSignals.foldl (fun n g => n + g.count) 0

/-- The fill signals of a link message reach their task, or wait for its job (R153, R430); false when more than 1,024 would
wait. -/
def State.linkSignal (s : State) (part : Nat) (g : LinkSignal) : State × Bool :=
  match s.liveJob part g.job with
  | some ser =>
    match s.job ser with
    | some j =>
      if j.phase == .fetching then
        if decide (1024 < (s.part part).waitingSignals + g.count) then (s, false)
        else (s.modPart part (fun p => { p with waitSignals := p.waitSignals ++ [g] }), true)
      else
        (s.deliverSignal { job := ser, task := g.task, tally := g.tally, drain := false, count := g.count, source := g.source,
                           id := j.id, link := j.link, fn := j.fn }, true)
    | none => (s, true)
  | none =>
    if decide (1024 < (s.part part).waitingSignals + g.count) then (s, false)
    else (s.modPart part (fun p => { p with waitSignals := p.waitSignals ++ [g] }), true)

/-- Apply signals in order; those that the limit of R430 refuses stay. -/
def State.applySignals (s : State) (part : Nat) (l : List LinkSignal) : State × List LinkSignal :=
  l.foldl (fun (x : State × List LinkSignal) g =>
    match x.1.linkSignal part g with
    | (t, true) => (t, x.2)
    | (_, false) => (x.1, x.2 ++ [g])) (s, [])

/-- Senders of SEND packets that the limit of 1,024 waiting signals refused are woken, in ascending order of node; a packet
of this module itself is offered again (R430, R433). -/
def State.wakeSenders (s : State) (part : Nat) : State :=
  let ws := (s.part part).busyWaiters
  let s := s.modPart part (fun p => { p with busyWaiters := [] })
  ws.foldl (fun s w =>
    let key := BitVec.ofNat 32 w.2
    if w.1 = s.nodeId then
      let mine (x : TxPacket) : Bool := x.port == 7 && x.busy && x.pkt.key == key
      s.modLnk (fun l => { l with recvPend := l.recvPend ++ (l.tx.filter mine).map (·.pkt),
                                  tx := l.tx.map (fun x => if mine x then { x with busy := false } else x) })
    else
      let c := (s.lnk.colls.find? (fun c => c.part == part && c.desc.key == key)).getD default
      let port := ((c.nodes.find? (fun n => n.1 == w.1)).map (·.2)).getD 0
      s.sendCtl port { dst := BitVec.ofNat 12 w.1, vc := 0, msg := msgWake, key := key, rank := BitVec.ofNat 16 c.desc.myRank }) s

/-- The waiting signals of a job that has just been validated are applied (R430). -/
def State.takeWaiting (s : State) (ser : Nat) : State :=
  match s.job ser with
  | none => s
  | some j =>
    let mine := (s.part j.part).waitSignals.filter (fun g => g.job == j.id)
    let s := s.modPart j.part (fun p => { p with waitSignals := p.waitSignals.filter (fun g => g.job != j.id) })
    let s := mine.foldl (fun s g => (s.linkSignal j.part g).1) s
    if mine.isEmpty then s else s.wakeSenders j.part

end Sys2Proof.Machine
end

