-- ==== Sys2Proof/Machine/Commit.lean ====
section
/-! DEFINITION. Staging, the STAGED checks, the grant and delivery (R149 to R157, R270, R388, R399, R429, R442, R448,
R461, R530). -/

namespace Sys2Proof.Machine

/-- Staging bytes of an effect with `n` data bytes (R149). -/
def stageSize (n : Nat) : Nat := 64 + roundUp n 64

/-- Stage an effect: none when it does not fit (R149, R151). The header's bytes beyond those the spec states are opaque
(log 12). -/
def Core.stage (c : Core) (e : Effect) (key : List Nat) (data : Bytes) : Option Core :=
  let size := stageSize data.length
  if c.stageUsed + size > 1024 * c.stagingKib then none
  else
    let hdr := sliceBytes (Config.effectHeader key) 0 64
    let c := c.spWrite (c.stageBase + c.stageUsed) (hdr ++ sliceBytes data 0 (size - 64))
    let e' := { c.epoch with counts := c.epoch.counts.set 14 (c.stageUsed + size) }
    some { c with effects := c.effects ++ [e], stageUsed := c.stageUsed + size, epoch := e' }

/-- CRC-64 of the staged effects, as the headers and padded data stand in staging (R461). -/
def Core.stagedCrc (c : Core) : BitVec 64 := BitVec.ofNat 64 (crc64 (c.spRead c.stageBase c.stageUsed))

/-- TEND's end: the queues are drained and the checks clean, so the run is finished. A RUNNING task becomes STAGED now, with its
checks; a SPECULATIVE one when its predicate resolves, and a judged one at its judgement (R139, R203, R429, R442, R448, R461,
R462; log 116). -/
def State.finishRun (s : State) (n : Nat) : State :=
  let c := s.core n
  let crc := c.stagedCrc
  if s.judged n then s.modCore n (fun c => { c with phase := .finished, stall := none, crc := some crc, ended := some (.clean crc) })
  else
    let s := s.modCore n (fun c => { c with phase := .finished, stall := none, crc := some crc })
    (s.stageRunning c.job c.task).settleJob c.job

/-- A version's slot of a pillar (R391). -/
def Pillar.slotOf (p : Pillar) (v : Nat) : Nat := if p.slots.length = 0 then 0 else v % p.slots.length
/-- The state of a version's slot (R391). -/
def Pillar.slotState (p : Pillar) (v : Nat) : SlotState := (p.slots.getD (p.slotOf v) {}).st
/-- Set the state of a slot (R391). -/
def Pillar.setSlot (p : Pillar) (k : Nat) (st : SlotState) : Pillar := { p with slots := p.slots.set k { st := st } }

/-- Change pillar `index` of a partition on a core. -/
def Core.modPillar (c : Core) (part index : Nat) (f : Pillar → Pillar) : Core :=
  { c with pillars := c.pillars.map (fun p => if p.part = part ∧ p.index = index then f p else p) }

/-- Apply one held resident change at the grant (R385, R388, R390, R391, R396, R398). -/
def Core.applyHeld (c : Core) (h : Held) : Core :=
  match h with
  | .define part index base slotBytes slots policy spEntries entryBytes ovfVa ovfEntries =>
    { c with pillars := c.pillars ++ [{
        part := part, index := index, base := base, slotBytes := slotBytes,
        slots := (List.range slots).map (fun k => { st := if c.building.contains (index, k) then .building else .free }),
        policy := policy, spEntries := spEntries, entryBytes := entryBytes, ovfVa := BitVec.ofNat 64 ovfVa,
        ovfEntries := ovfEntries, definedBy := c.job }] }
  | .release index => c.endPillars (fun p => p.part == c.part && p.index == index)
  | .publish index v => c.modPillar c.part index (fun p => { p.setSlot (p.slotOf v) (.live v) with newest := some v })
  | .retire index v =>
    c.modPillar c.part index (fun p =>
      match p.slotState v with
      | .live x => if x = v then p.setSlot (p.slotOf v) .free else p
      | .building => p.setSlot (p.slotOf v) .free
      | .free => p)
  | .put index key place length =>
    c.modPillar c.part index (fun p =>
      { p with stash := p.stash.filter (fun e => e.key != key) ++ [{ key := key, place := place, length := length }] })
  | .freeKey index key => c.modPillar c.part index (fun p => { p with stash := p.stash.filter (fun e => e.key != key) })

/-- Sectors of staged data that lie in uncorrectable staging words (R450), as sector numbers of the data. -/
def Core.badStaged (c : Core) (off n : Nat) : List Nat :=
  (List.range (ceilDiv n 32)).filter (fun k =>
    c.badWords.contains ((off + 64 + 32 * k) / 16) || c.badWords.contains ((off + 64 + 32 * k) / 16 + 1))

/-- DPA of byte `i` of physical pieces. -/
def pieceAt : List (Nat × Nat) → Nat → Nat
  | [], _ => 0
  | (d, n) :: ps, i => if i < n then d + i else pieceAt ps (i - n)

/-- A tensor watch copies the overlapping bytes of a delivered write (R530). -/
def State.watchCopy (s : State) (n va : Nat) (data : Bytes) : State :=
  let c := s.core n
  match s.job c.job, s.task c.job c.task with
  | some j, some t =>
    j.watch.foldl (fun s w =>
      let lo := max va w.va
      let hi := min (va + data.length) (w.va + w.length)
      let learn := t.cls == 1
      let ok := (w.version == 0xFFFFFFFF || (learn && w.version == bitsOf t.tag.toNat 31 0))
        && (w.mb == 0xFF || (learn && w.mb == bitsOf t.tag.toNat 37 32))
      if decide (lo < hi) && ok then
        let bs := (data.drop (lo - va)).take (hi - lo)
        let dst := w.dest + (lo - w.va)
        let r := s.xlateRangeAgent c.part dst (hi - lo) true
        let s := s.touchWalks c.part dst (hi - lo)
        let s := match r with | .inl ps => s.writePieces ps bs | .inr _ => s
        let failed := match r with | .inl _ => false | .inr _ => true
        s.trace c.part 8 (coreSource n) 2 (leBytes 1 w.index ++ leBytes 1 (b2n failed) ++ leBytes 2 c.task ++ leBytes 4 j.id.toNat
          ++ leBytes 8 dst ++ leBytes 8 lo ++ leBytes 4 (hi - lo)
          ++ leBytes 4 (if learn then bitsOf t.tag.toNat 31 0 else w.version)
          ++ leBytes 1 (if learn then bitsOf t.tag.toNat 37 32 else w.mb))
      else s) s
  | _, _ => s

/-- Data bytes of a SEND that one packet carries: 64 flits of 224 bytes less the packet header (R416; log 29). -/
def sendChunk : Nat := 14304

/-- The armed collective of a partition and number (R425). -/
def State.armedColl (s : State) (part num : Nat) : Option Nat :=
  s.lnk.colls.findIdx? (fun c => c.part == part && c.number == num)

/-- When every rank has arrived, rank 0 sends the releases and applies its own signals (R430, R519). -/
def State.barrierCheck (s : State) (i : Nat) : State :=
  let c := s.coll i
  if c.desc.myRank = 0 ∧ (List.range c.desc.ranks).all (fun r => c.arrivals.contains r) then
    let t3 := s.stamp
    let s := (List.range c.desc.ranks).foldl (fun (s : State) r =>
      if r = 0 then s
      else
        let t2 := ((c.arriveStamps.find? (fun x => x.1 == r)).map (fun x => x.2.2)).getD 0
        s.sendCtl (c.rankNode r).2 {
          dst := BitVec.ofNat 12 (c.rankNode r).1, vc := 0, msg := msgRelease, key := c.desc.key,
          rank := 0, data := leBytes 8 t2.toNat ++ leBytes 8 t3.toNat }) s
    let (s, left) := s.applySignals c.part c.keptSignals
    s.modColl i (fun c => { c with arrivals := [], arriveStamps := [], keptSignals := left })
  else s

/-- A local barrier arrival: the signal is kept, and rank 0 is told (R430, R519; without an armed barrier nothing is sent,
log 32). -/
def State.barrierArrive (s : State) (part num : Nat) (sg : Option LinkSignal) : State :=
  match s.armedColl part num with
  | none => s
  | some i =>
    let t1 := s.stamp
    let s := s.modColl i (fun c => { c with keptSignals := c.keptSignals ++ sg.toList, t1 := t1 })
    let c := s.coll i
    if c.desc.myRank = 0 then
      (s.modColl i (fun c => { c with arrivals := insertSorted 0 c.arrivals })).barrierCheck i
    else
      s.sendCtl (c.rankNode 0).2 {
        dst := BitVec.ofNat 12 (c.rankNode 0).1, vc := 0, msg := msgArrive, key := c.desc.key,
        rank := BitVec.ofNat 16 c.desc.myRank, data := leBytes 8 t1.toNat }

/-- A packet to this module itself stays inside it (R430). -/
def State.sendSelf (s : State) (core : Option Nat) (p : Packet) : State :=
  let tag := s.nextTag p.dst.toNat p.vc.toNat
  let p := { p with src := BitVec.ofNat 12 s.nodeId, tag := BitVec.ofNat 32 tag, port := 6 }
  s.modLnk (fun l =>
    { l with txTag := (p.dst.toNat, p.vc.toNat, tag) :: l.txTag.filter (fun x => !(x.1 == p.dst.toNat && x.2.1 == p.vc.toNat)),
             tx := l.tx ++ [{ pkt := p, port := 7, core := core }], recvPend := l.recvPend ++ [p] })

/-- Staging bytes that an effect takes (R149). -/
def Effect.size : Effect → Nat
  | .dramWrite _ _ d => stageSize d.length
  | .remoteAcc _ _ l _ => stageSize (256 * l.length)
  | .linkSend _ _ _ _ d _ => stageSize d.length
  | _ => 64

/-- Corrected single-bit errors of the words read are counted (R449). -/
def Core.countFlips (c : Core) (ws : List Nat) : Core :=
  (ws.filter (fun w => c.flipWords.contains w)).foldl (fun (c : Core) _ => c.countRel 2) c

/-- Deliver one effect of a granted commit (R154 step 4, R430, R431, R450); `off` is its place in staging. -/
def State.deliver (s : State) (n off : Nat) (e : Effect) : State :=
  let s := s.modCore n (fun c => c.countFlips (wordsOf off e.size))
  let c := s.core n
  match e with
  | .dramWrite va pieces data =>
    let s := s.writePieces pieces data
    let s := (c.badStaged off data.length).foldl (fun (s : State) k =>
      (sectorsOf (pieceAt pieces (32 * k)) (min 32 (data.length - 32 * k))).foldl State.dramPoison s) s
    s.watchCopy n va data
  | .remoteAcc header status lines _ =>
    let h := parseAccHeader header
    match s.descBytes c.part h.coll with
    | none => s
    | some b =>
      let d := parseDesc b
      let bad := c.badStaged off (256 * lines.length)
      let a := d.adderRank h.tile
      let s := (List.range (ceilDiv lines.length 55)).foldl (fun (s : State) k =>
        let ls := (lines.drop (55 * k)).take 55
        let p : Packet := {
          vc := 3, msg := msgContrib, status := status, part := BitVec.ofNat 8 h.part, key := d.key,
          bucket := BitVec.ofNat 16 h.bucket, rank := BitVec.ofNat 16 h.rank, tile := BitVec.ofNat 32 h.tile,
          offset := BitVec.ofNat 16 (h.offset + 55 * k), lines := ls,
          poison := (bad.filter (fun q => inRange (q / 8) (55 * k) (55 * k + 54))).map (fun q => q - 440 * k) }
        if a = d.myRank then
          let p := { p with src := BitVec.ofNat 12 s.nodeId, dst := BitVec.ofNat 12 s.nodeId, port := 6 }
          s.modLnk (fun l => { l with tx := l.tx ++ [{ pkt := p, port := 6, part := c.part, core := some n }] })
        else
          match s.nodeEntry c.part d a with
          | some nd => s.sendData nd.2 (some n) { p with dst := BitVec.ofNat 12 nd.1 }
          | none => s) s
      s.offerLocal
  | .linkSend coll rank arg sg data _ =>
    match s.descBytes c.part coll with
    | none => s
    | some b =>
      let d := parseDesc b
      match s.nodeEntry c.part d rank with
      | none => s
      | some nd =>
        let m := max 1 (ceilDiv data.length sendChunk)
        let bad := c.badStaged off data.length
        let per := sendChunk / 32
        (List.range m).foldl (fun (s : State) k =>
          let last := k + 1 == m
          let p : Packet := {
            dst := BitVec.ofNat 12 nd.1, vc := 1, msg := msgSend, key := d.key,
            rank := BitVec.ofNat 16 d.myRank, addr := BitVec.ofNat 64 (arg + sendChunk * k),
            data := (data.drop (sendChunk * k)).take sendChunk,
            poison := (bad.filter (fun q => decide (per * k ≤ q) && decide (q < per * (k + 1)))).map (· - per * k) }
          let p := match sg with
            | some g => if last then { p with sig := true, sigJob := g.job, sigTask := BitVec.ofNat 16 g.task,
                                              sigTally := BitVec.ofNat 8 g.tally, sigCount := BitVec.ofNat 8 g.count } else p
            | none => p
          if nd.1 = s.nodeId then s.sendSelf (some n) p else s.sendData nd.2 (some n) p) s
  | .arm coll base _ => s.modLnk (fun l => { l with armPending := l.armPending ++ [{ part := c.part, coll := coll, base := base }] })
  | .barrierArrive coll sg _ => s.barrierArrive c.part coll sg
  | .tallySignal .. | .predValue _ => s

/-- Deliver a run's effects in staging order (R149, R154). -/
def State.deliverAll (s : State) (n : Nat) : Nat → List Effect → State
  | _, [] => s
  | off, e :: es => State.deliverAll (s.deliver n off e) n (off + e.size) es

/-- A repeat of the task is still running, so its grant is held (R455, R463). -/
def State.repeating (s : State) (ser t : Nat) : Bool :=
  (List.range 192).any (fun n => let c := s.core n; c.phase != .idle && c.kind == .repeatRun && c.job == ser && c.task == t)

/-- What the Winder and the core do at a grant (R154, R270, R388, R399). -/
def State.grant (s : State) (n : Nat) : State :=
  let c := s.core n
  let s := s.modTask c.job c.task (fun t => { t with st := .committed, lastCore := n })
  let s := s.modPart c.part (fun p =>
    { p with num := numMerge p.num c.numStore,
             stash := (satAdd 48 p.stash.1 c.runPuts.1, satAdd 48 p.stash.2.1 c.runPuts.2.1, satAdd 48 p.stash.2.2 c.runPuts.2.2) })
  let s := if c.runPuts.2.1 + c.runPuts.2.2 = 0 then s
    else
      let pn := ((s.task c.job c.task).map (·.affinity)).getD 0
      s.eventJob c.job { code := 0x0C01, sev := 0, source := coreSource n,
                         payload := pn % 4096 + c.runPuts.2.1 % 1024 * 2 ^ 12 + c.runPuts.2.2 % 1024 * 2 ^ 22 }
  let s := s.modCore n (fun c => { c.held.foldl Core.applyHeld c with held := [], phase := .delivering, awaitAck := true,
                                                                      signalsSent := false })
  s.deliverAll n (c.stageBase) c.effects

/-- COMMIT_REQUEST: the Winder grants a STAGED task, or leaves it while its repeat runs or the module is fatal (R154, R157,
R455, R471). -/
def execCommitRequest (core : Nat) (s : State) : Res :=
  let c := s.core core
  match s.task c.job c.task with
  | some t =>
    if s.active && c.phase == .finished && c.kind != .repeatRun && c.kind != .shadow && t.st == .staged && t.pair.isNone
        && !t.heldGrant && !s.repeating c.job c.task then
      .next (s.grant core)
    else .next s
  | none => .next s

/-- The signals and the predicate value of a commit are delivered (R148, R154 step 5). -/
def State.sendSignals (s : State) (n : Nat) : State :=
  let c := s.core n
  match s.job c.job with
  | none => s
  | some j =>
    let sigs := c.effects.filterMap (fun e =>
      match e with
      | .tallySignal task tally drain count =>
        some { job := c.job, task := task, tally := tally, drain := drain, count := count, source := coreSource n,
               id := j.id, link := j.link, fn := j.fn : Signal }
      | _ => none)
    let s := s.modWnd (fun w => { w with signals := w.signals ++ sigs })
    let v := c.pval.getD false
    let s := s.modJob c.job (fun j => { j with preds := j.preds.map (fun p =>
      if p.source = 1 ∧ p.task = c.task ∧ p.value = none then { p with value := some v } else p) })
    let s := s.modCore n (fun c => { c with awaitAck := false, signalsSent := true })
    s.settleJob c.job

/-- DELIVERY_WRITES_ACKED: every DRAM write and remote accumulate is acknowledged (R154 step 5). -/
def execDeliveryWritesAcked (core : Nat) (s : State) : Res :=
  let c := s.core core
  if s.running && c.phase == .delivering && c.awaitAck && s.maySend core 0 0
      && !s.lnk.tx.any (fun x => x.core == some core && x.pkt.msg == msgContrib) then
    .next (s.sendSignals core)
  else .next s

/-- Release a delivered task's core and let its successors go on (R154 step 6, R159, R443). -/
def State.deliveryDone (s : State) (n : Nat) : State :=
  let c := s.core n
  let s := s.modTask c.job c.task (fun t => { t with delivered := true })
  let s := s.closeRun n 1 0 true
  let s := match s.task c.job c.task with
    | some t => if t.linkFail then s.failJob c.job 0x109 (taskDetail 0 n c.task) else s
    | none => s
  s.settleJob c.job

/-- DELIVERY_COMPLETE: nothing of the commit is left to deliver, its tally signals included (R154 steps 5 and 6). -/
def execDeliveryComplete (core : Nat) (s : State) : Res :=
  let c := s.core core
  if s.running && c.phase == .delivering && c.signalsSent && !s.lnk.tx.any (fun x => x.core == some core)
      && !s.wnd.signals.any (fun g => g.job == c.job && g.source == coreSource core) then
    .next (s.deliveryDone core)
  else .next s

/-- A reset takes a job away: delivering commits complete first, every other run is discarded, and no completion entry is
written (R100, R137). `pillarsToo` also ends the pillars that the job defined (R385). -/
def State.killJob (s : State) (ser : Nat) (pillarsToo : Bool) : State :=
  match s.job ser with
  | none => s
  | some j =>
    let s := (List.range j.tasks.length).foldl (fun s t =>
      (s.runsOf ser t).foldl (fun s n =>
        if (s.core n).phase == .delivering then
          (s.modLnk (fun l => { l with tx := l.tx.map (fun x => if x.core = some n then { x with core := none } else x) })).closeRun
            n 1 0 true
        else s.closeRun n 2 0 true) s) s
    let s := s.dropJob ser
    if pillarsToo then { s with cores := s.cores.map (fun c => c.endPillars (fun p => p.definedBy == ser)) } else s

end Sys2Proof.Machine
end

