-- ==== Sys2Proof/Machine/Consume.lean ====
section
/-! DEFINITION. Hardware errors and their replays, the pillars a run may read, and the consumption of scratchpad words
(R310, R331, R332, R384, R449 to R458, R474, R475). -/

namespace Sys2Proof.Machine

/-- The residue modulo 15 of n × 2^q (R446). -/
def residue15 (v : Int × Nat) : Nat := (v.1 % 15).toNat * 2 ^ (v.2 % 4) % 15
/-- The residue that the checker predicts from the operands: the sum of the products' (R446). -/
def predictedResidue (l : List ((Int × Nat) × (Int × Nat))) : Nat :=
  (l.map (fun p => residue15 p.1 * residue15 p.2 % 15)).sum % 15
/-- A check finds the error: a residue check only where the path's result has another residue than its operands give (R446). -/
def checkFinds : HwKind → Bool
  | .residue products result => predictedResidue products != residue15 result
  | .rounder | .sram | .mesh => true

/-- Kind code of a hardware error (R474). -/
def hwCode : HwKind → Nat
  | .residue .. => 1 | .rounder => 2 | .sram => 3 | .mesh => 4

/-- Reliability counter of a core that a kind of error adds to (R475); lost mesh traffic has none. -/
def hwCounter : HwKind → Option Nat
  | .residue .. => some 0 | .rounder => some 1 | .sram => some 3 | .mesh => none

/-- HW_ERROR_REPLAY and the partition's count of replays (R474, R475). -/
def State.hwNoted (s : State) (n ser t part kind pos : Nat) : State :=
  (s.eventJob ser { code := 0x0E01, sev := 0, source := coreSource n, payload := t % 65536 + kind * 2 ^ 16 + pos * 2 ^ 20 }).modPart
    part (fun p => { p with hwReplays := satAdd 48 p.hwReplays 1 })

/-- The replay of a hardware error on core `n`, whose run has ended, and the repeat of a free task there (R453 to R457,
R474). `again` is false for lost mesh traffic, which has no repeat (R468). -/
def State.hwReplay (s : State) (n ser t kind pos : Nat) (again : Bool) : State :=
  match s.job ser, s.task ser t with
  | some j, some x =>
    let s := s.hwNoted n ser t j.part kind pos
    let s := if again && !x.bound then s.startRun n ser t .repeatRun else s
    let s := s.replayTask ser t n 0x108 1 true (fun y =>
      if x.bound then { y with heldGrant := again } else { y with excludeCores := [n] })
    s.settleJob ser
  | _, _ => s

/-- A hardware error is found in the run of core `n` (R445, R450, R453, R455, R475). -/
def State.hardwareError (s : State) (n : Nat) (k : HwKind) (pos : Nat) : State :=
  let c := s.core n
  if c.phase != .executing then s
  else
    let s := match hwCounter k with | some i => s.modCore n (fun c => c.countRel i) | none => s
    if s.judged n then
      s.modCore n (fun c => { c with phase := .finished, stall := none, ended := some (.cause (.hardware (hwCode k) pos)) })
    else
      let s := s.closeRunKeep n 2 0x108 false
      (s.hwReplay n c.job c.task (hwCode k) pos (k != HwKind.mesh)).clusterStop (clusterOf n)

/-- The pillars as the run sees them, with its own held changes (R388). -/
def Core.view (c : Core) : List Pillar := (c.held.foldl Core.applyHeld c).pillars

/-- Offset of slot `k` of a pillar (R390). -/
def Pillar.slotAt (p : Pillar) (k : Nat) : Nat := p.base + k * p.slotBytes
/-- Offset of scratchpad stash entry `k` (R390). -/
def Pillar.entryAt (p : Pillar) (k : Nat) : Nat := p.base + p.slots.length * p.slotBytes + k * p.entryBytes

/-- The LIVE slots and the scratchpad stash entries of a pillar, as (offset, bytes) (R384). -/
def Pillar.readable (p : Pillar) : List (Nat × Nat) :=
  (List.range p.slots.length).filterMap (fun k =>
    match (p.slots.getD k {}).st with | .live _ => some (p.slotAt k, p.slotBytes) | _ => none)
  ++ p.stash.filterMap (fun e => match e.place with | .scratch k => some (p.entryAt k, p.entryBytes) | _ => none)

/-- Every byte of [a, a + n) lies in one of the ranges; `fuel` bounds the ranges crossed. -/
def coveredBy : Nat → List (Nat × Nat) → Nat → Nat → Bool
  | 0, _, _, n => n == 0
  | k + 1, rs, a, n =>
    if n = 0 then true
    else
      match rs.find? (fun r => decide (r.1 ≤ a) && decide (a < r.1 + r.2)) with
      | some r => let m := min n (r.1 + r.2 - a); coveredBy k rs (a + m) (n - m)
      | none => false

/-- [a, a + n) lies in the job's pillars (R384). -/
def Core.inPillars (c : Core) (a n : Nat) : Bool :=
  let rs := (c.view.filter (fun p => p.part == c.part)).flatMap Pillar.readable
  decide (a + n ≤ c.resTop) && coveredBy (rs.length + 1) rs a n

/-- [a, a + n) lies in the working region (R319). -/
def Core.inWork (c : Core) (a n : Nat) : Bool := decide (c.resTop ≤ a) && decide (a + n ≤ c.workTop)

/-- [a, a + n) may be read by LDN and the engines: the working region or a pillar (R205, R230, R274). -/
def Core.mayRead (c : Core) (a n : Nat) : Bool := c.inWork a n || c.inPillars a n

/-- Rows of `len` bytes, `stride` apart, may all be read; what lies between them is not touched (R230, R274, R384). -/
def Core.mayReadRows (c : Core) (a rows stride len : Nat) : Bool :=
  decide (a + (rows - 1) * stride + len ≤ 0x600000)
    && (c.inWork a ((rows - 1) * stride + len)
      || (List.range (if stride = 0 then min rows 1 else rows)).all (fun r => c.mayRead (a + r * stride) len))

/-- The pillar of any partition whose allocation holds an offset. -/
def Core.pillarAt (c : Core) (a : Nat) : Option Pillar :=
  c.pillars.find? (fun p => decide (p.base ≤ a) && decide (a < p.base + p.bytes))

/-- An uncorrectable word of the resident area gets the poison mark, with its event (R451, R452). -/
def State.poisonPillarWord (s : State) (n w : Nat) : State :=
  let p := (s.core n).pillarAt (16 * w)
  let s := s.modCore n (fun c => { c.countRel 3 with badWords := c.badWords.filter (· != w), poison := insertSorted w c.poison })
  match p with
  | some p => s.eventPart p.part { code := 0x0E05, sev := 2, source := coreSource n,
                                   payload := (16 * n + p.index) % 4096 + 16 * w * 2 ^ 12 }
  | none => s

/-- What a read of words by the unit at a position of R209 meets: uncorrectable words first, then the first marked word
(R209, R310, R332, R450, R451). -/
inductive ReadFault where
  | hardware
  | pillar (ws : List Nat)
  | missing
  | poison
  deriving DecidableEq, Repr

/-- The fault of reading words, if any (R332, R450, R451; log 46). -/
def Core.readFault (c : Core) (ws : List Nat) : Option ReadFault :=
  let bad := ws.filter (fun w => c.badWords.contains w)
  if bad.any (fun w => decide (c.resTop ≤ 16 * w)) then some .hardware
  else if !bad.isEmpty then some (.pillar bad)
  else
    match ws.find? (fun w => c.missing.contains w || c.poison.contains w) with
    | some w => if c.missing.contains w then some .missing else some .poison
    | none => none

/-- Words of another SEC-DED array are read, with the errors they have: corrections are counted, and an uncorrectable word is a
hardware error of the run (R449, R450). -/
def State.meet (s : State) (n pos : Nat) (errors : List Bool) : State × Bool :=
  let s := s.modCore n (fun c => (errors.filter (!·)).foldl (fun (c : Core) _ => c.countRel 2) c)
  if errors.any id then (s.hardwareError n .sram pos, false) else (s, true)

/-- Errors that a core's arrays have taken (R449, R450; log 123). -/
def Core.takeUpset (c : Core) (u : SramUpset) : Core :=
  let put (l : List (Nat × Bool)) : List (Nat × Bool) :=
    l.filter (fun x => x.1 != u.place) ++ [(u.place, u.multiple || l.contains (u.place, true))]
  match u.array with
  | .scratchpad =>
    if 0x60000 ≤ u.place then c
    else if u.multiple then { c with badWords := insertSorted u.place c.badWords, flipWords := c.flipWords.filter (· != u.place) }
    else if c.badWords.contains u.place then c
    else { c with flipWords := insertSorted u.place c.flipWords }
  | .accumulators => if 2048 ≤ u.place then c else { c with accUpsets := put c.accUpsets }
  | .queue => c.modQueue (u.place % 8) (fun q => { q with cmds := q.cmds.modify (u.place / 8) (fun x => { x with upset := some (u.multiple || x.upset == some true) }) })
  | .icache => if c.icache.contains u.place then { c with icacheUpsets := put c.icacheUpsets } else c

/-- A unit reads scratchpad bytes: the state with corrections counted, and whether the run goes on (R332, R449 to R451). -/
def State.consume (s : State) (n : Nat) (ws : List Nat) (pos : Nat) : State × Bool :=
  let s := s.modCore n (fun c => c.countFlips ws)
  match (s.core n).readFault ws with
  | none => (s, true)
  | some .hardware => (s.hardwareError n .sram pos, false)
  | some (.pillar bad) => ((bad.foldl (fun (s : State) w => s.poisonPillarWord n w) s).endRun n .poison, false)
  | some .missing =>
    match (s.core n).firstMiss with
    | some (va, sub) => (s.endRun n (.xlat sub va.toNat 3), false)
    | none => (s.endRun n (.xlat 1 0 3), false)
  | some .poison => (s.endRun n .poison, false)

end Sys2Proof.Machine
end

