-- ==== Sys2Proof/Machine/Flags.lean ====
section
/-! DEFINITION. The arithmetic of the control instructions: ALU functions, shifts, conditions and predicate functions
(R189, R190, R192, R193). -/

namespace Sys2Proof.Machine

/-- The FN table of R190; none for a reserved code. -/
def aluFn (fn : Nat) (a b : BitVec 64) : Option (BitVec 64) :=
  let sh := b.toNat % 64
  match fn with
  | 0x00 => some (a + b)
  | 0x01 => some (a - b)
  | 0x02 => some (a &&& b)
  | 0x03 => some (a ||| b)
  | 0x04 => some (a ^^^ b)
  | 0x05 => some (a &&& ~~~b)
  | 0x06 => some (a <<< sh)
  | 0x07 => some (a >>> sh)
  | 0x08 => some (a.sshiftRight sh)
  | 0x09 => some (a * b)
  | 0x0A => some (BitVec.ofNat 64 (a.toNat * b.toNat / 2 ^ 64))
  | 0x0B => some (BitVec.ofInt 64 (a.toInt * b.toInt / 2 ^ 64))
  | 0x0C => some (if b = 0 then BitVec.allOnes 64 else a / b)
  | 0x0D => some (if b = 0 then BitVec.allOnes 64 else a.sdiv b)
  | 0x0E => some (if b = 0 then a else a % b)
  | 0x0F => some (if b = 0 then a else a.srem b)
  | 0x10 => some (if a.ult b then a else b)
  | 0x11 => some (if a.ult b then b else a)
  | 0x12 => some (if a.slt b then a else b)
  | 0x13 => some (if a.slt b then b else a)
  | 0x14 => some (BitVec.ofNat 64 (if a = 0 then 64 else 63 - a.toNat.log2))
  | 0x15 => some (BitVec.ofNat 64 ((List.range 64).countP (fun i => bitOf a.toNat i)))
  | _ => none

/-- SHI of R189: the shift kind is imm12 [11:10], the amount [5:0]; none where a bit that must be zero is not. -/
def shiFn (imm : BitVec 12) (a : BitVec 64) : Option (BitVec 64) :=
  let sh := bitsOf imm.toNat 5 0
  if bitsOf imm.toNat 9 6 != 0 then none
  else
    match bitsOf imm.toNat 11 10 with
    | 0 => some (a <<< sh)
    | 1 => some (a >>> sh)
    | 2 => some (a.sshiftRight sh)
    | _ => none

/-- The conditions of R192; none for a reserved code. -/
def condFn (cond : Nat) (a b : BitVec 64) : Option Bool :=
  match cond with
  | 0 => some (a == b)
  | 1 => some (a != b)
  | 2 => some (a.slt b)
  | 3 => some (!a.slt b)
  | 4 => some (a.ult b)
  | 5 => some (!a.ult b)
  | 6 => some (a &&& b != 0)
  | 7 => some (a &&& b == 0)
  | _ => none

/-- COMB of R192: what pd becomes; none for the reserved code. -/
def combFn (comb : BitVec 2) (old r : Bool) : Option Bool :=
  match comb.toNat with
  | 0 => some r
  | 1 => some (old && r)
  | 2 => some (old || r)
  | _ => none

/-- The PFN table of R193, with its zero fields; none where the word is illegal. -/
def plogFn (pfn pa pb : BitVec 3) (a b : Bool) : Option Bool :=
  match pfn.toNat with
  | 0 => some (a && b)
  | 1 => some (a || b)
  | 2 => some (a ^^ b)
  | 3 => some (a && !b)
  | 4 => if pb = 0 then some (!a) else none
  | 5 => if pa = 0 ∧ pb = 0 then some true else none
  | 6 => if pa = 0 ∧ pb = 0 then some false else none
  | _ => none

end Sys2Proof.Machine
end

