-- ==== Sys2Proof/Machine/Operands.lean ====
section
/-! DEFINITION. Instruction fetch, the frame every control instruction runs in, and the operands of loads, stores, ISSUE
and CRR (R176, R183 to R188, R204 to R207, R211, R322). -/

namespace Sys2Proof.Machine

/-- What a control instruction's body answers. -/
inductive Lci where
  /-- It completes and the next instruction follows. -/
  | done (s : State)
  /-- It completes and jumps. -/
  | jump (s : State) (pc : BitVec 64)
  /-- It waits. -/
  | wait (s : State) (st : Stall)
  /-- It raises an exception with a number and a TRAP code (R207). -/
  | raise (num code : Nat)
  /-- The run meets a cause (R208). -/
  | cause (s : State) (c : Cause)
  /-- The run has ended already, or the instruction is offered again later as it stands. -/
  | ended (s : State)

/-- The lines of the instruction cache after a use of `line`: 64 sets of 4 ways, the most recently used first (log 47). -/
def icacheUse (l : List Nat) (line : Nat) : List Nat :=
  let rest := l.filter (· != line)
  let same := rest.filter (fun x => x % 64 == line % 64)
  let drop := same.drop 3
  line :: rest.filter (fun x => !drop.contains x)

/-- Fetch of the instruction at the program counter (R184, R206, R211); the cause when it fails. -/
def State.fetchAt (s : State) (n : Nat) : State × Option Cause :=
  let c := s.core n
  let va := c.pc.toNat % 2 ^ 48
  let line := va / 256
  if c.icache.contains line then
    (s.modCore n (fun c => { (((c.icacheUpsets.filter (fun x => x == (line, false))).foldl (fun (c : Core) _ => c.countRel 2) c)) with
      icache := icacheUse c.icache line }), if c.icacheUpsets.contains (line, true) then some (.hardware 3 2) else none)
  else
    match s.xlate n c.part va false true with
    | (s, .inr sub) => (s, some (.xlat sub va 1))
    | (s, .inl d) =>
      let s := (s.modCore n (fun c => c.count 15 1)).touch (d - va % 256) 256 false
      if s.dramPoisoned d 4 then (s, some .poison)
      else if s.dramPoisoned (d - va % 256) 256 then (s, none)
      else (s.modCore n (fun c => { c with icache := icacheUse c.icache line, icacheUpsets := c.icacheUpsets.filter (fun x => x.1 != line) }), none)

/-- The fetch can be made now: the line is held, or its read can be sent (R356, R357). -/
def State.mayFetch (s : State) (n : Nat) : Bool :=
  let c := s.core n
  let va := c.pc.toNat % 2 ^ 48
  c.icache.contains (va / 256) ||
    (match (s.xlate n c.part va false true).2 with
      | .inl d => s.maySend n (d - va % 256) 256
      | .inr _ => s.maySend n 0 0)

/-- A core's run raises an exception at its program counter (R207, R210). -/
def State.raise (s : State) (n num code : Nat) : State := s.endRun n (.exception num (s.core n).pc.toNat code)

/-- Close an instruction (R186, R207, R211). -/
def State.lciEnd (s : State) (n : Nat) : Lci → State
  | .done t => t.modCore n (fun c => { c.count 3 1 with pc := c.pc + 4, stall := none })
  | .jump t pc => t.modCore n (fun c => { c.count 3 1 with pc := pc, stall := none })
  | .wait t st => t.modCore n (fun c => { c with stall := some st })
  | .raise num code => s.raise n num code
  | .cause t c => t.endRun n c
  | .ended t => t

/-- The guard of R187 lets the instruction execute. -/
def Core.guardTrue (c : Core) (g : BitVec 4) : Bool := c.pred (g.toNat % 8) != bitOf g.toNat 3

/-- The control processor of a core takes instructions (R34, R203). -/
def State.lciReady (s : State) (n : Nat) : Bool :=
  s.running && decide (n < 192) && (s.core n).phase == .executing && !(s.core n).fetchStopped

/-- The frame of a control instruction: fetch and guard, then its body; an instruction that waits is offered again, and
while it waits no other instruction acts (R186 to R188, R206, R207; log 4). -/
def State.lci (s : State) (n : Nat) (guard : BitVec 4) (resume : Stall → Bool) (body : State → Lci) : State :=
  if !s.lciReady n then s
  else
    match (s.core n).stall with
    | some st => if resume st then s.lciEnd n (body s) else s
    | none =>
      if (s.core n).pc.toNat % 4 != 0 then s.raise n 0x11 0
      else if !s.mayFetch n then s
      else
        match s.fetchAt n with
        | (s, some (.hardware _ pos)) => s.hardwareError n .sram pos
        | (s, some f) => s.endRun n f
        | (s, none) =>
          if guard = 0b1000#4 then s.raise n 0x10 0
          else if !(s.core n).guardTrue guard then s.modCore n (fun c => { c.count 4 1 with pc := c.pc + 4 })
          else s.lciEnd n (body s)

/-- An instruction that never waits. -/
def noWait (_ : Stall) : Bool := false

/-- An instruction that only computes on its core, or is illegal. -/
def Lci.ofCore (s : State) (n : Nat) (r : Option Core) : Lci :=
  match r with
  | some c => .done (s.modCore n (fun _ => c))
  | none => .raise 0x10 0

/-- Size and sign extension of SZ (R204); none for a reserved code. -/
def szOf (sz : BitVec 3) (store : Bool) : Option (Nat × Bool) :=
  match sz.toNat with
  | 0 => some (1, false) | 1 => some (2, false) | 2 => some (4, false) | 3 => some (8, false)
  | 4 => if store then none else some (1, true)
  | 5 => if store then none else some (2, true)
  | 6 => if store then none else some (4, true)
  | _ => none

/-- The address of an L-format instruction: ra + imm9 × size (R204). -/
def Core.lAddr (c : Core) (f : FmtL) (size : Nat) : Nat :=
  (c.reg f.ra.toNat + f.imm.signExtend 64 * BitVec.ofNat 64 size).toNat

/-- The register value of loaded bytes (R204). -/
def loadValue (bs : Bytes) (signed : Bool) : BitVec 64 :=
  if signed then BitVec.ofInt 64 (signedOf (8 * bs.length) (leNat bs)) else BitVec.ofNat 64 (leNat bs)

/-- Sets of the hardware-managed cache (R322). -/
def Core.cacheSets (c : Core) : Nat := 2048 - c.stagingKib
/-- Scratchpad offset of a way of the hardware-managed cache (R322). -/
def cacheOffset (set way : Nat) : Nat := 0x400000 + set * 1024 + way * 256
/-- The line of the hardware-managed cache that holds an address (R322). -/
def Core.cacheHit (c : Core) (line : Nat) : Option CacheLine := c.cacheLines.find? (fun x => x.line == line)

/-- The units that a command of a queue takes, by its first byte (R179, R224, R272, R303, R323, R387); none for a reserved
code, which its engine finds. -/
def cmdUnits (q op : Nat) : Option Nat :=
  match q, op with
  | 0, 1 => some 2
  | 0, 2 | 0, 3 => some 1
  | 1, 1 | 1, 2 | 1, 3 => some 1
  | 2, 1 | 2, 2 | 2, 3 | 2, 4 | 2, 5 | 2, 6 | 2, 9 => some 1
  | 2, 7 | 2, 8 | 2, 16 => some 2
  | 3, 1 => some 2
  | 4, 1 | 4, 2 => some 1
  | _, _ => none

/-- The fields of DR_MODE are valid (R323). -/
def drModeOk (b : Bytes) : Bool := decide (byteAt b 1 ≤ 1) && zeroBytes b 2 63

/-- Control registers (R183); none for a reserved index. -/
def State.controlReg (s : State) (n idx : Nat) : Option (BitVec 64) :=
  let c := s.core n
  let w (x : Nat) : Option (BitVec 64) := some (BitVec.ofNat 64 x)
  if idx = 0 then w c.task
  else if idx = 1 then w (c.epoch.jobId.toNat + c.part * 2 ^ 32)
  else if idx = 2 then w (n + b2n (isAttention n) * 256)
  else if idx = 3 then some s.stamp
  else if idx = 4 then w s.time.beat.toNat
  else if idx = 5 then w c.epoch.number.toNat
  else if idx = 6 then w (1024 * c.stagingKib)
  else if idx = 7 then w c.stageUsed
  else if idx = 8 then w c.workTop
  else if inRange idx 0x10 0x14 then w (c.queue (idx - 0x10)).done.toNat
  else if inRange idx 0x18 0x1C then w (c.queue (idx - 0x18)).issued.toNat
  else if inRange idx 0x20 0x2F then w (c.epoch.counts.getD (idx - 0x20) 0)
  else none

/-- Every queue's done count equals its issued count (R203). -/
def Core.drained (c : Core) : Bool := c.queues.all (fun q => q.done == q.issued)

/-- Offset in staging of the staged predicate value, if there is one (R203). -/
def predValueOffset : List Effect → Nat → Option Nat
  | [], _ => none
  | .predValue _ :: _, off => some off
  | e :: es, off => predValueOffset es (off + e.size)

end Sys2Proof.Machine
end

