-- ==== Sys2Proof/Machine/Lci.lean ====
section
/-! DEFINITION. The control instructions (R176, R181 to R207, R321, R322, R334 to R337). -/

namespace Sys2Proof.Machine

/-- A major opcode that no instruction has (R189). -/
def reservedOpcode (op : BitVec 6) : Bool := op == 0 || op == 7 || decide (0x1F ≤ op.toNat)

/-- ALU, or a word with a reserved opcode, which is illegal; a word with another opcode is another instruction (R189, R190, R207). -/
def execAlu (core : Nat) (f : FmtAlu) (s : State) : Res :=
  if f.op ≠ 1 ∧ !reservedOpcode f.op then .next s
  else
    .next (s.lci core f.guard noWait (fun s =>
      let c := s.core core
      if f.op ≠ 1 then .raise 0x10 0
      else Lci.ofCore s core ((aluFn f.fn.toNat (c.reg f.ra.toNat) (c.reg f.rb.toNat)).map (c.setReg f.rd.toNat))))

/-- An I-format instruction that computes rd from ra and the immediate. -/
def State.immediate (s : State) (core : Nat) (f : FmtI) (op : BitVec 64 → Option (BitVec 64)) : State :=
  s.lci core f.guard noWait (fun s =>
    let c := s.core core
    Lci.ofCore s core ((op (c.reg f.ra.toNat)).map (c.setReg f.rd.toNat)))

/-- ADDI (R189). -/
def execAddi (core : Nat) (f : FmtI) (s : State) : Res := .next (s.immediate core f (fun a => some (a + f.imm.signExtend 64)))
/-- ANDI (R189). -/
def execAndi (core : Nat) (f : FmtI) (s : State) : Res := .next (s.immediate core f (fun a => some (a &&& f.imm.zeroExtend 64)))
/-- ORI (R189). -/
def execOri (core : Nat) (f : FmtI) (s : State) : Res := .next (s.immediate core f (fun a => some (a ||| f.imm.zeroExtend 64)))
/-- XORI (R189). -/
def execXori (core : Nat) (f : FmtI) (s : State) : Res := .next (s.immediate core f (fun a => some (a ^^^ f.imm.zeroExtend 64)))
/-- SHI (R189). -/
def execShi (core : Nat) (f : FmtI) (s : State) : Res := .next (s.immediate core f (shiFn f.imm))

/-- A W-format instruction that computes rd from its old value and the immediate. -/
def State.wide (s : State) (core : Nat) (f : FmtW) (op : BitVec 64 → BitVec 64) : State :=
  s.lci core f.guard noWait (fun s =>
    let c := s.core core
    Lci.ofCore s core (if f.zero = 0 then some (c.setReg f.rd.toNat (op (c.reg f.rd.toNat))) else none))

/-- MOVZ (R189). -/
def execMovz (core : Nat) (f : FmtW) (s : State) : Res := .next (s.wide core f (fun _ => f.imm.zeroExtend 64))
/-- MOVN (R189). -/
def execMovn (core : Nat) (f : FmtW) (s : State) : Res := .next (s.wide core f (fun _ => ~~~(f.imm.zeroExtend 64)))
/-- MOVK0 to MOVK3: bits [16k + 15:16k] of rd become imm16 (R189). -/
def execMovk (core : Nat) (k : Fin 4) (f : FmtW) (s : State) : Res :=
  .next (s.wide core f (fun old =>
    (old &&& ~~~((0xFFFF#64) <<< (16 * k.val))) ||| ((f.imm.zeroExtend 64) <<< (16 * k.val))))

/-- CMP and CMPI once the condition's operand and code are known (R192). -/
def State.compare (s : State) (core : Nat) (f : FmtC) (low : Bool) (cond : Nat) (b : Core → BitVec 64) : State :=
  s.lci core f.guard noWait (fun s =>
    let c := s.core core
    Lci.ofCore s core
      (if low then
        (condFn cond (c.reg f.ra.toNat) (b c)).bind (fun r =>
          (combFn f.comb (c.pred f.pd.toNat) r).map (c.setPred f.pd.toNat))
      else none))

/-- CMP (R192). -/
def execCmp (core : Nat) (f : FmtC) (s : State) : Res :=
  .next (s.compare core f (bitsOf f.low.toNat 2 0 == 0) (bitsOf f.low.toNat 6 3) (fun c => c.reg (bitsOf f.low.toNat 11 7)))
/-- CMPI (R192). -/
def execCmpi (core : Nat) (f : FmtC) (s : State) : Res :=
  .next (s.compare core f true (bitsOf f.low.toNat 11 8) (fun _ => (BitVec.ofNat 8 (bitsOf f.low.toNat 7 0)).signExtend 64))

/-- PLOG (R193). -/
def execPlog (core : Nat) (f : FmtP) (s : State) : Res :=
  .next (s.lci core f.guard noWait (fun s =>
    let c := s.core core
    Lci.ofCore s core
      (if f.zero = 0 then (plogFn f.pfn f.pa f.pb (c.pred f.pa.toNat) (c.pred f.pb.toNat)).map (c.setPred f.pd.toNat) else none)))

/-- p0 to p7 as bits [7:0] (R196). -/
def Core.predBits (c : Core) : BitVec 64 := BitVec.ofNat 64 ((List.range 8).foldl (fun a i => a + b2n (c.pred i) * 2 ^ i) 0)

/-- PMOV (R196). -/
def execPmov (core : Nat) (f : FmtX) (s : State) : Res :=
  .next (s.lci core f.guard noWait (fun s =>
    let c := s.core core
    Lci.ofCore s core
      (if f.zero = 0 ∧ f.sub = 0 ∧ f.ra = 0 ∧ bitsOf f.low.toNat 6 0 = 0 then
        some (c.setReg (bitsOf f.low.toNat 11 7) c.predBits)
      else if f.zero = 0 ∧ f.sub = 1 ∧ f.low = 0 then
        let v := (c.reg f.ra.toNat).toNat
        some ((List.range 8).foldl (fun (c : Core) i => c.setPred i (bitOf v i)) c)
      else none)))

/-- LDN (R204, R205, R332). -/
def execLdn (core : Nat) (f : FmtL) (s : State) : Res :=
  .next (s.lci core f.guard noWait (fun s =>
    let c := s.core core
    match szOf f.sz false with
    | none => .raise 0x10 0
    | some (size, signed) =>
      let a := c.lAddr f size
      if a % size != 0 then .raise 0x11 0
      else if !c.mayRead a size then .raise 0x12 0
      else
        match (s.modCore core (fun c => c.count 9 1)).consume core (wordsOf a size) 3 with
        | (s, false) => .ended s
        | (s, true) => .done (s.modCore core (fun c => c.setReg f.rd.toNat (loadValue (c.spRead a size) signed)))))

/-- STN (R204, R205, R315). -/
def execStn (core : Nat) (f : FmtL) (s : State) : Res :=
  .next (s.lci core f.guard noWait (fun s =>
    let c := s.core core
    match szOf f.sz true with
    | none => .raise 0x10 0
    | some (size, _) =>
      let a := c.lAddr f size
      if a % size != 0 then .raise 0x11 0
      else if decide (a < c.resTop) then .raise 0x13 0
      else if !c.inWork a size then .raise 0x12 0
      else .done (s.modCore core (fun c => (c.count 9 2).spWrite a (leBytes size (c.reg f.rd.toNat).toNat)))))

/-- LDV without a translation through the hardware-managed cache (R206). -/
def State.ldvDirect (s : State) (core : Nat) (f : FmtL) (a size : Nat) (signed : Bool) : Lci :=
  let c := s.core core
  match s.xlate core c.part a false false with
  | (s, .inr sub) => .cause s (.xlat sub (a % 2 ^ 48) 2)
  | (s, .inl d) =>
    if !s.maySend core d size then .ended s
    else
    let s := s.touch d size false
    if s.dramPoisoned d size then .cause s .poison
    else .done (s.modCore core (fun c => (c.count 13 1).setReg f.rd.toNat (loadValue (s.dramRead d size) signed)))

/-- LDV in cache mode: a hit reads the way, a miss waits for its fill (R322). -/
def State.ldvCached (s : State) (core : Nat) (f : FmtL) (a size : Nat) (signed : Bool) : Lci :=
  let c := s.core core
  let line := a / 256
  match c.cacheHit line with
  | some x =>
    let o := cacheOffset x.set x.way + a % 256
    match (s.modCore core (fun c => { c with cacheLines := x :: c.cacheLines.filter (fun y => y.line != line) })).consume core
        (wordsOf o size) 3 with
    | (s, false) => .ended s
    | (s, true) => .done (s.modCore core (fun c => (c.count 13 1).setReg f.rd.toNat (loadValue (c.spRead o size) signed)))
  | none =>
    match c.stall with
    | some st => .wait s st
    | none =>
      match s.xlate core c.part a false false with
      | (s, .inr sub) => .cause s (.xlat sub (a % 2 ^ 48) 2)
      | (s, .inl d) => .wait s (.cacheFill line (d - a % 256))

/-- LDV (R204, R206, R322). -/
def execLdv (core : Nat) (f : FmtL) (s : State) : Res :=
  .next (s.lci core f.guard (fun st => match st with | .cacheFill .. => true | _ => false) (fun s =>
    let c := s.core core
    match szOf f.sz false with
    | none => .raise 0x10 0
    | some (size, signed) =>
      let a := c.lAddr f size
      if a % size != 0 then .raise 0x11 0
      else if c.cacheMode then s.ldvCached core f (a % 2 ^ 48) size signed
      else s.ldvDirect core f (a % 2 ^ 48) size signed))

/-- The target of a B-format instruction (R197). -/
def Core.target (c : Core) (f : FmtB) : BitVec 64 := c.pc + 4 * f.off.signExtend 64

/-- BR (R197). -/
def execBr (core : Nat) (f : FmtB) (s : State) : Res :=
  .next (s.lci core f.guard noWait (fun s => .jump s ((s.core core).target f)))
/-- BL (R181, R197). -/
def execBl (core : Nat) (f : FmtB) (s : State) : Res :=
  .next (s.lci core f.guard noWait (fun s =>
    let c := s.core core
    .jump (s.modCore core (fun c => c.setReg 31 (c.pc + 4))) (c.target f)))

/-- JR; FN 0x01 is JLR and no JR (R189, R197). -/
def execJr (core : Nat) (f : FmtR) (s : State) : Res :=
  if f.fn = 1 then .next s
  else
    .next (s.lci core f.guard noWait (fun s =>
      let t := (s.core core).reg f.ra.toNat
      if f.fn != 0 || f.rb != 0 || f.rd != 0 then .raise 0x10 0
      else if t.toNat % 4 != 0 then .raise 0x11 0
      else .jump s t))
/-- JLR; FN 0x00 is JR and no JLR (R181, R189, R197). -/
def execJlr (core : Nat) (f : FmtR) (s : State) : Res :=
  if f.fn = 0 then .next s
  else
    .next (s.lci core f.guard noWait (fun s =>
      let t := (s.core core).reg f.ra.toNat
      if f.fn != 1 || f.rb != 0 then .raise 0x10 0
      else if t.toNat % 4 != 0 then .raise 0x11 0
      else .jump (s.modCore core (fun c => c.setReg f.rd.toNat (c.pc + 4))) t))

/-- Put a command in its queue (R176, R177, R295). -/
def Core.push (c : Core) (q : Nat) (b : Bytes) : Core :=
  let x : QCmd := { bytes := b, pc := c.pc, matrixIssued := (c.queue 1).issued }
  { c.modQueue q (fun e => { e with cmds := e.cmds ++ [x], issued := e.issued + 1 }) with issuedAny := true }

/-- ISSUE once there is room in its queue: the copy and its checks (R176, R207, R321, R323, R332). -/
def State.issueCopy (s : State) (core q a units rd : Nat) : Lci :=
  match (s.modCore core (fun c => c.count 9 (8 * units))).consume core (wordsOf a (64 * units)) 3 with
  | (s, false) => .ended s
  | (s, true) =>
    let c := s.core core
    let b := c.spRead a (64 * units)
    let len := cmdUnits q (byteAt b 0)
    let mode := q == 0 && byteAt b 0 == 3 && byteAt b 1 == 1 && drModeOk b
    if len.isSome && len != some units then .cause s (.exception 0x15 c.pc.toNat 0)
    else if mode && (c.issuedAny || decide (1024 < c.stagingKib) || decide (0x400000 < c.resTop)) then
      .cause s (.exception 0x15 c.pc.toNat 0)
    else
      .done (s.modCore core (fun c =>
        let c := c.push q b
        let c := if mode then { c with cacheMode := true, cacheLines := [] } else c
        c.setReg rd ((c.queue q).issued.zeroExtend 64)))

/-- ISSUE (R175 to R177, R207). -/
def execIssue (core : Nat) (f : FmtQ) (s : State) : Res :=
  .next (s.lci core f.guard (fun st => st == .queueFull f.queue.toNat) (fun s =>
    let c := s.core core
    let q := f.queue.toNat
    let units := f.units.toNat + 1
    let a := (c.reg f.ra.toNat).toNat
    if f.zero != 0 || decide (5 ≤ q) then .raise 0x10 0
    else if q == 3 && !isAttention core then .raise 0x14 0
    else if a % 64 != 0 then .raise 0x11 0
    else if !c.inWork a (64 * units) then .raise 0x12 0
    else if decide (32 ≤ ((c.queue q).issued - (c.queue q).done).toNat) then .wait s (.queueFull q)
    else s.issueCopy core q a units f.rd.toNat))

/-- QWAIT (R198). -/
def execQwait (core : Nat) (f : FmtQ) (s : State) : Res :=
  .next (s.lci core f.guard (fun st => match st with | .qwait .. => true | _ => false) (fun s =>
    let c := s.core core
    let q := f.queue.toNat
    let n := (c.reg f.ra.toNat).toNat % 2 ^ 32
    if f.zero != 0 || f.units != 0 || f.rd != 0 || decide (5 ≤ q) then .raise 0x10 0
    else if decide ((c.queue q).issued.toNat < n) then .raise 0x16 0
    else if decide (n ≤ (c.queue q).done.toNat) then .done s
    else .wait s (.qwait q n)))

/-- FENCE (R198). -/
def execFence (core : Nat) (f : FmtX) (s : State) : Res :=
  .next (s.lci core f.guard (fun st => match st with | .fence _ => true | _ => false) (fun s =>
    let c := s.core core
    if f.sub != 0 || f.zero != 0 || f.ra != 0 || bitsOf f.low.toNat 11 5 != 0 then .raise 0x10 0
    else
      let targets := match c.stall with
        | some (.fence ts) => ts
        | _ => ((List.range 5).filter (fun q => bitOf f.low.toNat q)).map (fun q => (q, (c.queue q).issued))
      if targets.all (fun t => (c.queue t.1).done == t.2) then .done s else .wait s (.fence targets)))

/-- CRR (R183, R189). -/
def execCrr (core : Nat) (f : FmtX) (s : State) : Res :=
  .next (s.lci core f.guard noWait (fun s =>
    if f.sub != 0 || f.zero != 0 || f.ra != 0 then .raise 0x10 0
    else
      Lci.ofCore s core ((s.controlReg core (bitsOf f.low.toNat 6 0)).map
        ((s.core core).setReg (bitsOf f.low.toNat 11 7)))))

/-- WBEAT (R199). -/
def execWbeat (core : Nat) (f : FmtX) (s : State) : Res :=
  .next (s.lci core f.guard (fun st => match st with | .beat _ => true | _ => false) (fun s =>
    let c := s.core core
    let b := match c.stall with
      | some (.beat b) => b
      | _ => (c.reg f.ra.toNat).toNat % 2 ^ 44
    if f.sub != 0 || f.zero != 0 || f.low != 0 then .raise 0x10 0
    else if decide (b ≤ s.time.beat.toNat) then .done s
    else .wait s (.beat b)))

/-- WAIT_FILLED, or a TALLY word with a reserved TOP, which is illegal (R200, R201, R207, R336). -/
def execWaitFilled (core : Nat) (f : FmtWait) (s : State) : Res :=
  if 1 ≤ f.top.toNat ∧ f.top.toNat ≤ 5 then .next s
  else
    .next (s.lci core f.guard (fun st => match st with | .filled .. => true | _ => false) (fun s =>
      let x := (s.core core).tally f.tally.toNat
      let n := f.count.toNat
      if f.top != 0 || f.reg != 0 || f.count == 0 then .raise 0x10 0
      else
        match x.size with
        | none => .wait s (.filled f.tally.toNat n)
        | some sz =>
          if decide (sz < n) then .raise 0x16 0
          else if decide (n ≤ x.filled) then .done s
          else .wait s (.filled f.tally.toNat n)))

/-- WAIT_FREE (R200, R201, R336). -/
def execWaitFree (core : Nat) (f : FmtT) (s : State) : Res :=
  .next (s.lci core f.guard (fun st => match st with | .free .. => true | _ => false) (fun s =>
    let x := (s.core core).tally f.tally.toNat
    let n := f.count.toNat
    if f.reg != 0 || f.count == 0 then .raise 0x10 0
    else
      match x.size with
      | none => .wait s (.free f.tally.toNat n)
      | some sz =>
        if decide (sz < n) then .raise 0x16 0
        else if decide (n + x.filled ≤ sz) then .done s
        else .wait s (.free f.tally.toNat n)))

/-- FILL and DRAIN: a tally operation by an instruction (R200, R336, R337). -/
def State.mark (s : State) (core : Nat) (f : FmtT) (drain : Bool) : Lci :=
  let c := s.core core
  let t := f.tally.toNat
  if f.reg != 0 || f.count == 0 then .raise 0x10 0
  else if (c.tally t).size.isNone then .wait s (if drain then .drainOp t f.count.toNat else .fillOp t f.count.toNat)
  else
    match c.tallyOp t drain f.count.toNat 1 with
    | .inl c => .done (s.modCore core (fun _ => c))
    | .inr e => .cause s e

/-- FILL (R336). -/
def execFill (core : Nat) (f : FmtT) (s : State) : Res :=
  .next (s.lci core f.guard (fun st => match st with | .fillOp .. => true | _ => false) (fun s => s.mark core f false))
/-- DRAIN (R336). -/
def execDrain (core : Nat) (f : FmtT) (s : State) : Res :=
  .next (s.lci core f.guard (fun st => match st with | .drainOp .. => true | _ => false) (fun s => s.mark core f true))

/-- TALLY_READ (R200). -/
def execTallyRead (core : Nat) (f : FmtT) (s : State) : Res :=
  .next (s.lci core f.guard noWait (fun s =>
    let c := s.core core
    let x := c.tally f.tally.toNat
    Lci.ofCore s core (if f.count = 0 then some (c.setReg f.reg.toNat (x.drain ++ x.fill)) else none)))

/-- SIGNAL_REMOTE (R202). -/
def execSignalRemote (core : Nat) (f : FmtT) (s : State) : Res :=
  .next (s.lci core f.guard noWait (fun s =>
    let c := s.core core
    let v := (c.reg f.reg.toNat).toNat
    let task := bitsOf v 15 0
    let tally := bitsOf v 21 16
    let drain := bitOf v 22
    let count := bitsOf v 31 24
    if f.count != 0 then .raise 0x10 0
    else if decide (c.taskCount ≤ task) || count == 0 || bitOf v 23 || bitsOf v 63 32 != 0 then .raise 0x18 0
    else
      match c.stage (.tallySignal task tally drain count) [3, task, tally, b2n drain, count] [] with
      | some c => .done (s.modCore core (fun _ => c))
      | none => .cause s .staging))

/-- TEND: fetch stops, and when the queues are drained the run is finished; offered again, it looks again (R139, R203,
R448; log 4). Another sub-operation is another instruction, and 011 to 111 are illegal. -/
def execTend (core : Nat) (f : FmtX) (s : State) : Res :=
  if f.sub = 1 ∨ f.sub = 2 then .next s
  else if s.running && (s.core core).phase == .executing && (s.core core).fetchStopped then
    .next (if (s.core core).drained then s.finishRun core else s)
  else
    .next (s.lci core f.guard noWait (fun s =>
      if f.sub != 0 || f.zero != 0 || f.ra != 0 || f.low != 0 then .raise 0x10 0
      else
        let s := s.modCore core (fun c => { c.count 3 1 with fetchStopped := true })
        .ended (if (s.core core).drained then s.finishRun core else s)))

/-- PVAL (R203): a second value replaces the first in place. -/
def execPval (core : Nat) (f : FmtX) (s : State) : Res :=
  if f.sub = 0 ∨ f.sub = 2 then .next s
  else
    .next (s.lci core f.guard noWait (fun s =>
      let c := s.core core
      let v := c.reg f.ra.toNat != 0
      if f.sub != 1 || f.zero != 0 || f.low != 0 then .raise 0x10 0
      else
        match predValueOffset c.effects c.stageBase with
        | some off =>
          let c := c.spWrite off (sliceBytes (Config.effectHeader [6, b2n v]) 0 64)
          .done (s.modCore core (fun _ => { c with
            pval := some v, effects := c.effects.map (fun e => match e with | .predValue _ => .predValue v | e => e) }))
        | none =>
          match c.stage (.predValue v) [6, b2n v] [] with
          | some c => .done (s.modCore core (fun _ => { c with pval := some v }))
          | none => .cause s .staging))

/-- TRAP (R203, R207). -/
def execTrap (core : Nat) (f : FmtX) (s : State) : Res :=
  if f.sub = 0 ∨ f.sub = 1 then .next s
  else
    .next (s.lci core f.guard noWait (fun _ =>
      if f.sub != 2 || f.zero != 0 || f.ra != 0 || bitsOf f.low.toNat 11 8 != 0 then .raise 0x10 0
      else .raise 0x17 (bitsOf f.low.toNat 7 0)))

end Sys2Proof.Machine
end

