-- ==== Sys2Proof/Machine/Engine.lean ====
section
/-! DEFINITION. What every engine shares: the head of its queue, gates, wide accesses, bank conflicts, and the end of a
command (R175 to R177, R207, R227, R311 to R318, R332, R336). -/

namespace Sys2Proof.Machine

/-- Position of a queue's engine in the order of R209. -/
def enginePos (q : Nat) : Nat := q + 4
/-- Actor code of a queue's engine (R337). -/
def engineActor (q : Nat) : Nat := q + 2

/-- Wide accesses of the windows that start at `w`, step by 256 and transfer bytes [a, a + n); a window that crosses a quad
boundary is two, whatever part of it is transferred (R311, R312). -/
def wideAccesses (w a n : Nat) : Nat :=
  if n = 0 then 0
  else
    (List.range ((a + n - 1 - w) / 256 + 1)).foldl (fun k i =>
      let lo := w + 256 * i
      k + (if lo / 2 ^ 20 = (lo + 255) / 2 ^ 20 ∨ 0x600000 ≤ lo + 255 then 1 else 2)) 0

/-- Wide accesses of reading or writing [a, a + n) in windows from `a` rounded down to a multiple of 32 (R180, R311). -/
def wideOf (a n : Nat) : Nat := wideAccesses (a / 32 * 32) a n

/-- Priority of a requester code in R313, from 1; 0 for a code that is never used or that never conflicts (R314). -/
def requesterPriority (code : Nat) : Nat :=
  match code with
  | 2 => 1 | 3 => 2 | 6 => 3 | 7 => 4 | 4 => 5 | 1 => 6 | 8 => 7 | 5 => 8 | _ => 0

/-- Two accesses granted in one issue slot are a bank conflict, the first of no lower priority than the second. Accesses of one
requester conflict too, but for the output engine's, which never meet (R311, R313, R316). -/
def clashConflicts (x : Clash) : Bool :=
  let h := requesterPriority x.hiCode.toNat
  let l := requesterPriority x.loCode.toNat
  h != 0 && l != 0 && (decide (h < l) || (h == l && h != 7)) && x.hiOffset % 32 == 0 && x.loOffset % 32 == 0
    && decide (x.hiOffset < 0x600000) && x.hiOffset / 2 ^ 20 == x.loOffset / 2 ^ 20
    && !(x.hiRead && x.loRead && x.hiOffset == x.loOffset)

/-- Two accesses as a pair, the higher priority first (R313, R318). -/
def clashPair (a b : BitVec 4 × Nat × Bool) : Clash :=
  if requesterPriority a.1.toNat ≤ requesterPriority b.1.toNat then
    { hiCode := a.1, loCode := b.1, hiOffset := a.2.1, loOffset := b.2.1, hiRead := a.2.2, loRead := b.2.2 }
  else { hiCode := b.1, loCode := a.1, hiOffset := b.2.1, loOffset := a.2.1, hiRead := b.2.2, loRead := a.2.2 }

/-- The pairs of the accesses of one issue slot (R318). -/
def clashPairs (x : Clash) : List Clash :=
  let a := (x.hiCode, x.hiOffset, x.hiRead)
  let b := (x.loCode, x.loOffset, x.loRead)
  match x.third with
  | none => [clashPair a b]
  | some c => [clashPair a b, clashPair a c, clashPair b c]

/-- One pair ranks before another: by its higher-priority member, then by its lower-priority one (R318). -/
def clashBefore (x y : Clash) : Bool :=
  let h (z : Clash) : Nat := requesterPriority z.hiCode.toNat
  let l (z : Clash) : Nat := requesterPriority z.loCode.toNat
  decide (h x < h y) || (h x == h y && decide (l x < l y))

/-- The conflict that an issue slot reports: the conflicting pair of the highest priority, none where a narrow access denies its
quad (R315, R316, R318). -/
def conflictOf (x : Clash) (stolen : Option Nat) : Option Clash :=
  ((clashPairs x).filter (fun y => clashConflicts y && stolen != some (y.hiOffset / 2 ^ 20))).foldl (fun (a : Option Clash) y =>
    match a with | some z => if clashBefore y z then some y else some z | none => some y) none

/-- The cause of a bank conflict (R318). -/
def clashCause (x : Clash) : Cause :=
  .bankConflict (x.hiOffset / 2 ^ 20) (1 + x.hiCode.toNat * 16 + x.loCode.toNat * 256 + x.hiOffset % 2 ^ 23 * 2 ^ 12
    + x.loOffset % 2 ^ 23 * 2 ^ 35)

/-- A tally byte's tally (R179, R227). -/
def tallyOf (b : Nat) : Nat := b % 64
/-- A tally byte's GATE (R179, R227). -/
def gateOf (b : Nat) : Bool := bitOf b 7
/-- A tally byte's reserved bit is zero (R179, R227). -/
def tallyByteOk (b : Nat) : Bool := !bitOf b 6

/-- An input gate is open for `k` groups: that many slots are filled (R336). -/
def Core.inputOpen (c : Core) (b k : Nat) : Bool :=
  !gateOf b || ((c.tally (tallyOf b)).size.isSome && decide (k ≤ (c.tally (tallyOf b)).filled))
/-- An output gate is open for `k` groups: that many slots are free (R336). -/
def Core.outputOpen (c : Core) (b k : Nat) : Bool :=
  !gateOf b || (match (c.tally (tallyOf b)).size with | some sz => decide (k + (c.tally (tallyOf b)).filled ≤ sz) | none => false)

/-- An engine drains or fills `k` slots of its gate (R336, R338). -/
def Core.gatePass (c : Core) (b k actor : Nat) (drain : Bool) : Core ⊕ Cause :=
  if !gateOf b || k = 0 then .inl c else c.tallyOp (tallyOf b) drain k actor

/-- The engine of queue `q` may work on core `n`. -/
def State.engineReady (s : State) (n q : Nat) : Bool :=
  s.running && decide (n < 192) && (s.core n).phase == .executing && !((s.core n).queue q).cmds.isEmpty

/-- The command at the head of a queue (R175). -/
def Core.head (c : Core) (q : Nat) : QCmd := ((c.queue q).cmds.head?).getD {}

/-- An engine exception against the ISSUE of a command (R207, R210). -/
def State.engineRaise (s : State) (n : Nat) (x : QCmd) (num : Nat) : State := s.endRun n (.exception num x.pc.toNat 0)

/-- A run whose program has executed TEND is finished once its queues are drained (R203). -/
def State.tendCheck (s : State) (n : Nat) : State :=
  if (s.core n).phase == .executing && (s.core n).fetchStopped && (s.core n).drained then s.finishRun n else s

/-- The head command of queue `q` finishes (R177). -/
def State.finishCmd (s : State) (n q : Nat) : State :=
  (s.modCore n (fun c => c.modQueue q (fun e => { e with cmds := e.cmds.drop 1, done := e.done + 1 }))).tendCheck n

/-- What the accesses of one issue slot do: the cause of a conflict, unless the slot is one in which a narrow access denies wide
accesses to the quad (R315, R316, R318). -/
def State.clashes (s : State) (n : Nat) (clash : Option Clash) : State × Option Cause :=
  match clash with
  | none => (s, none)
  | some k =>
    (s.modCore n (fun c => { c with stealQuad := none }), (conflictOf k (s.core n).stealQuad).map clashCause)

/-- An engine reads command `i` of its queue, once (R449, R450). -/
def State.readCmd (s : State) (n q i : Nat) : State × Bool :=
  let errors := (((s.core n).queue q).cmds.getD i {}).upset.toList
  (s.modCore n (fun c => c.modQueue q (fun x => { x with cmds := x.cmds.modify i (fun y => { y with upset := none }) }))).meet n
    (enginePos q) errors

/-- The frame of an engine row: a reserved operation code is COMMAND_INVALID, the head of another kind waits for its own row,
and a conflict of R316 ends the run (R175, R207, R316). -/
def State.engine (s : State) (n q : Nat) (reserved mine : Bytes → Bool) (clash : Option Clash) (body : State → QCmd → State) : State :=
  if !s.engineReady n q then s
  else
    let x := (s.core n).head q
    if reserved x.bytes then s.engineRaise n x 0x15
    else if !mine x.bytes then s
    else
      match s.readCmd n q 0 with
      | (s, false) => s
      | (s, true) =>
        match s.clashes n clash with
        | (s, some f) => s.endRun n f
        | (s, none) => body s x

/-- The engine has its scratchpad sources read; the run may end there (R332). -/
def State.engineReads (s : State) (n q : Nat) (ranges : List (Nat × Nat)) : State × Bool :=
  s.consume n (ranges.flatMap (fun r => wordsOf r.1 r.2)) (enginePos q)

/-- Count wide accesses (R211). -/
def Core.countWide (c : Core) (k : Nat) : Core := c.count 8 k

end Sys2Proof.Machine
end

