-- ==== Sys2Proof/Machine/Drift.lean ====
section
/-! DEFINITION. The Drift: streams, their reads, tally sizes, the fetch regulator, the hardware-managed cache's fills and
narrow steals (R315, R321 to R337). -/

namespace Sys2Proof.Machine

/-- A code that the DRIFT queue does not have (R323). -/
def driftReserved (b : Bytes) : Bool := !inRange (byteAt b 0) 1 3

/-- The fields of DR_STREAM (R324). -/
structure StreamCmd where
  tally : Nat
  ring : Nat
  slotBytes : Nat
  dst : Nat
  src : Nat
  runBytes : Nat
  count1 : Nat
  stride1 : Int
  count2 : Nat
  stride2 : Int
  extBase : Nat
  extLen : Nat
  deriving DecidableEq, Repr

/-- Read DR_STREAM (R324). -/
def parseStream (b : Bytes) : StreamCmd :=
  { tally := byteAt b 1, ring := field b 2 2, slotBytes := field b 4 4, dst := field b 8 4, src := field b 16 8,
    runBytes := field b 24 4, count1 := field b 28 4, stride1 := signedOf 64 (field b 32 8), count2 := field b 40 4,
    stride2 := signedOf 64 (field b 48 8), extBase := field b 56 8, extLen := field b 64 8 }

/-- TOTAL of R325. -/
def StreamCmd.total (d : StreamCmd) : Nat := d.runBytes * d.count1 * d.count2

/-- Address of stream byte `pos` (R325). -/
def StreamCmd.addr (d : StreamCmd) (pos : Nat) : Int :=
  let r := pos / d.runBytes
  (d.src : Int) + (r / d.count1 : Nat) * d.stride2 + (r % d.count1 : Nat) * d.stride1 + (pos % d.runBytes : Nat)

/-- Lowest and highest starts of a run (R325). -/
def StreamCmd.span (d : StreamCmd) : Int × Int :=
  let a := (d.count1 - 1 : Nat) * d.stride1
  let b := (d.count2 - 1 : Nat) * d.stride2
  ((d.src : Int) + min 0 a + min 0 b, (d.src : Int) + max 0 a + max 0 b)

/-- The checks of R326. -/
def Core.streamOk (c : Core) (b : Bytes) : Bool :=
  let d := parseStream b
  tallyByteOk d.tally && inRange d.ring 1 255 && inRange d.slotBytes 32 4194304 && multipleOf d.slotBytes 32
    && multipleOf d.dst 32 && zeroBytes b 12 15 && multipleOf d.src 32 && decide (d.src < 2 ^ 48)
    && decide (32 ≤ d.runBytes) && multipleOf d.runBytes 32 && decide (1 ≤ d.count1) && decide (1 ≤ d.count2)
    && d.stride1 % 32 == 0 && d.stride2 % 32 == 0 && zeroBytes b 44 47 && decide (1 ≤ d.extLen) && zeroBytes b 72 127
    && decide (d.total ≤ 2 ^ 48) && decide (d.extBase + d.extLen ≤ 2 ^ 48)
    && decide ((d.extBase : Int) ≤ d.span.1) && decide (d.span.2 + d.runBytes ≤ (d.extBase + d.extLen : Nat))
    && c.inWork d.dst (d.ring * d.slotBytes) && (gateOf d.tally || decide (d.total ≤ d.ring * d.slotBytes))

/-- Sequence number of the head command of the DRIFT queue (R177, R329). -/
def EQueue.headSerial (q : EQueue) : BitVec 32 := q.issued - BitVec.ofNat 32 q.cmds.length + 1

/-- Raise the DRIFT done count over every finished command in queue order (R175, R329). -/
def Core.driftAdvance : Nat → Core → Core
  | 0, c => c
  | k + 1, c =>
    let d := (c.queue 0).done + 1
    if c.driftDone.contains d then
      Core.driftAdvance k ({ c with driftDone := c.driftDone.filter (· != d) }.modQueue 0 (fun q => { q with done := d }))
    else c

/-- A DRIFT command has finished (R177, R329). -/
def State.driftFinish (s : State) (n : Nat) (serial : BitVec 32) : State :=
  (s.modCore n (fun c => Core.driftAdvance (c.driftDone.length + 1) { c with driftDone := c.driftDone ++ [serial] })).tendCheck n

/-- The Drift takes its head command (R329). -/
def Core.driftTake (c : Core) : Core := c.modQueue 0 (fun q => { q with cmds := q.cmds.drop 1 })

/-- The frame of a DRIFT command: none is taken while 8 streams are active (R329). -/
def State.drift (s : State) (n op : Nat) (body : State → QCmd → BitVec 32 → State) : State :=
  if decide (8 ≤ (s.core n).streams.length) then s
  else s.engine n 0 driftReserved (fun b => byteAt b 0 == op) none (fun s x => body s x ((s.core n).queue 0).headSerial)

/-- DR_STREAM (R324 to R329). -/
def execDrStream (core : Nat) (s : State) : Res :=
  .next (s.drift core 1 (fun s x serial =>
    if !(s.core core).streamOk x.bytes then s.engineRaise core x 0x15
    else s.modCore core (fun c => { c.driftTake with streams := c.streams ++ [{ cmd := x, serial := serial }] })))

/-- The fields of DR_TALLY are in range (R335). -/
def tallyCmdOk (b : Bytes) : Bool :=
  let first := byteAt b 1
  let count := byteAt b 2
  decide (first < 64) && inRange count 1 48 && decide (first + count ≤ 64) && zeroBytes b 3 15
    && (List.range count).all (fun i => byteAt b (16 + i) != 0) && (count == 48 || zeroBytes b (16 + count) 63)

/-- Give one tally its size, or the sequence fault of R335. -/
def Core.sizeTally (c : Core) (t sz : Nat) : Core ⊕ Cause :=
  if sz < (c.tally t).filled then .inr (.sequence (sequencePayload 8 t false 0 (c.tally t).filled sz))
  else .inl (c.modTally t (fun x => { x with size := some sz }))

/-- DR_TALLY (R335). -/
def execDrTally (core : Nat) (s : State) : Res :=
  .next (s.drift core 2 (fun s x serial =>
    let b := x.bytes
    let first := byteAt b 1
    let ts := List.range (byteAt b 2)
    if !tallyCmdOk b || ts.any (fun i => ((s.core core).tally (first + i)).size.isSome) then s.engineRaise core x 0x15
    else
      let r : Core ⊕ Cause := ts.foldl (fun r i =>
        match r with
        | .inl c => c.sizeTally (first + i) (byteAt b (16 + i))
        | .inr f => .inr f) (.inl (s.core core).driftTake)
      match r with
      | .inl c => (s.modCore core (fun _ => c)).driftFinish core serial
      | .inr f => s.endRun core f))

/-- DR_MODE: MODE 0x01 took effect at its ISSUE (R321, R323). -/
def execDrMode (core : Nat) (s : State) : Res :=
  .next (s.drift core 3 (fun s x serial =>
    if !drModeOk x.bytes then s.engineRaise core x 0x15
    else (s.modCore core Core.driftTake).driftFinish core serial))

/-- Bytes whose value the spec leaves open: the contents under a mark (log 48). -/
def State.freeBytes (s : State) (n : Nat) : Bytes × State :=
  let (k, s) := s.draw
  (sliceBytes (Config.freeBytes k n) 0 n, s)

/-- Write the missing mark into every word of [a, a + n) (R310, R331). -/
def State.markMissing (s : State) (core a n va sub : Nat) : State :=
  let (bs, s) := s.freeBytes n
  s.modCore core (fun c =>
    let c := c.spWrite a bs
    { c with missing := (wordsOf a n).foldl (fun l w => insertSorted w l) c.missing,
             firstMiss := match c.firstMiss with | some m => some m | none => some (BitVec.ofNat 64 va, sub) })

/-- Write DRAM data of [d, d + n) to scratchpad offset `a`, with the poison mark in the words of poisoned sectors (R322,
R331, R372). -/
def State.fillWords (s : State) (core a d n : Nat) : State :=
  let bad := (sectorsOf d n).filter (fun x => s.mem.poison.contains x || s.sectorBad x)
  let ws := bad.flatMap (fun x => wordsOf (a + (32 * x - d)) 32)
  let data := s.dramRead d n
  let s := s.modCore core (fun c => c.spWrite a data)
  bad.foldl (fun (s : State) x =>
    let (bs, s) := s.freeBytes 32
    s.modCore core (fun c => { c.spWrite (a + (32 * x - d)) bs with poison := c.poison })) s
    |>.modCore core (fun c => { c with poison := ws.foldl (fun l w => insertSorted w l) c.poison })

/-- Bytes of the next read of a stream: at most 256, within one block of addresses, one run and one slot (R325, R330; log 49). -/
def StreamCmd.readSize (d : StreamCmd) (pos : Nat) : Nat :=
  min (256 - ((d.addr pos).toNat % 256)) (min (d.runBytes - pos % d.runBytes) (d.slotBytes - pos % d.slotBytes))

/-- Scratchpad offset of stream byte `pos` (R325). -/
def StreamCmd.place (d : StreamCmd) (pos : Nat) : Nat := d.dst + (pos / d.slotBytes) % d.ring * d.slotBytes + pos % d.slotBytes

/-- The fetch regulator lets a read go (R333). -/
def State.creditOk (s : State) (n : Nat) : Bool :=
  bitsOf (s.part (s.core n).part).fetch.toNat 15 0 == 0 || decide (0 < (s.core n).credit)

/-- Data or marks of one read reach the scratchpad (R330, R331). -/
def State.streamWrite (s : State) (core : Nat) (d : StreamCmd) (pos n : Nat) : State :=
  let va := (d.addr pos).toNat
  let a := d.place pos
  let s := s.modCore core (fun c => { c.countWide (wideOf a n) with credit := c.credit - n })
  match s.xlate core (s.core core).part va false false with
  | (s, .inr sub) => s.markMissing core a n va sub
  | (s, .inl dpa) => ((s.touch dpa n false).fillWords core a dpa n).modCore core (fun c => c.count 10 n)

/-- After a read: a slot that is now whole is filled, and a stream that is now whole ends (R328, R329). -/
def State.streamAdvance (s : State) (core i : Nat) (d : StreamCmd) (pos : Nat) (serial : BitVec 32) : State :=
  let whole := pos % d.slotBytes == 0 || pos == d.total
  let s := s.modCore core (fun c => { c with streams := c.streams.modify i (fun x =>
    { x with pos := pos, filled := if whole then x.filled + 1 else x.filled }) })
  let r : Core ⊕ Cause := if whole then (s.core core).gatePass d.tally 1 2 false else .inl (s.core core)
  match r with
  | .inr f => s.endRun core f
  | .inl c =>
    let s := s.modCore core (fun _ => c)
    if pos == d.total then (s.modCore core (fun c => { c with streams := c.streams.eraseIdx i })).driftFinish core serial else s

/-- The gate of a stream lets its next read go: it waits for a free slot before the first write of each (R328, R336). -/
def Core.streamOpen (c : Core) (x : Stream) : Bool :=
  let d := parseStream x.cmd.bytes
  x.pos % max 1 d.slotBytes != 0 || c.outputOpen d.tally 1

/-- RING_SLOTS differs from the tally's configured size (R328). -/
def Core.ringWrong (c : Core) (x : Stream) : Bool :=
  let d := parseStream x.cmd.bytes
  gateOf d.tally && (match (c.tally (tallyOf d.tally)).size with | some sz => sz != d.ring | none => false)

/-- A stream has a read ready to send: its slot is free, and a request slot can be taken; a stream that is to raise
COMMAND_INVALID is served too (R328, R329, R356, R357). -/
def State.streamReady (s : State) (core : Nat) (x : Stream) : Bool :=
  let c := s.core core
  let d := parseStream x.cmd.bytes
  c.ringWrong x || (c.streamOpen x &&
    (match (s.xlate core c.part (d.addr x.pos).toNat false false).2 with
      | .inl dpa => s.maySend core dpa (d.readSize x.pos)
      | .inr _ => s.maySend core 0 0))

/-- The stream that the Drift serves next: the first ready one after the one served last, in the order in which it took them
(R329). -/
def State.streamTurn (s : State) (core : Nat) : Option Nat :=
  let l := (s.core core).streams
  let ready (i : Nat) : Bool := s.streamReady core (l.getD i {})
  let after := match l.findIdx? (fun x => x.serial == (s.core core).lastStream) with | some i => i + 1 | none => 0
  match ((List.range l.length).drop after).find? ready with
  | some i => some i
  | none => ((List.range l.length).take after).find? ready

/-- DRIFT_READ_COMPLETE: the next read of the stream whose turn it is returns, when the regulator let it go (R328 to R333, R336,
R337; log 49). -/
def execDriftReadComplete (core stream : Nat) (clash : Option Clash) (s : State) : Res :=
  let c := s.core core
  match c.streams[stream]? with
  | none => .next s
  | some x =>
    let d := parseStream x.cmd.bytes
    if !(s.running && c.phase == .executing && s.creditOk core && s.streamTurn core == some stream) then .next s
    else if c.ringWrong x then .next (s.engineRaise core x.cmd 0x15)
    else
      match s.clashes core clash with
      | (s, some f) => .next (s.endRun core f)
      | (s, none) =>
        let n := d.readSize x.pos
        let s := s.modCore core (fun c => { c with lastStream := x.serial })
        .next ((s.streamWrite core d x.pos n).streamAdvance core stream d (x.pos + n) x.serial)

/-- FETCH_CREDIT: the credit of 16 ticks, once they have passed (R333). -/
def execFetchCredit (core : Nat) (s : State) : Res :=
  let f := (s.part (s.core core).part).fetch.toNat
  if s.running && (s.core core).phase == .executing && decide ((s.core core).creditAt + 16 ≤ s.time.ticks) then
    .next (s.modCore core (fun c =>
      { c with creditAt := c.creditAt + 16,
               credit := min (c.credit + (bitsOf f 15 0 * 64 : Nat)) ((max 1 (bitsOf f 31 16) * 1024 : Nat) : Int) }))
  else .next s

/-- The way that a fill of the hardware-managed cache takes (R322). -/
def Core.fillWay (c : Core) (set : Nat) : Nat :=
  let used := c.cacheLines.filter (fun x => x.set == set)
  match (List.range 4).find? (fun w => !used.any (fun x => x.way == w)) with
  | some w => w
  | none => ((used.getLast?).map (·.way)).getD 0

/-- CACHE_FILL_COMPLETE: the line that an LDV waits for is written to its way (R314, R322). -/
def execCacheFillComplete (core : Nat) (va : BitVec 64) (s : State) : Res :=
  let c := s.core core
  match c.stall with
  | some (.cacheFill line dpa) =>
    if s.running && c.phase == .executing && va.toNat / 256 == line && (c.cacheHit line).isNone && s.maySend core dpa 256 then
      let set := line % c.cacheSets
      let w := c.fillWay set
      let s := s.modCore core (fun c =>
        { c.countWide 1 with cacheLines := { line := line, set := set, way := w } ::
            c.cacheLines.filter (fun x => !(x.set == set && x.way == w)) })
      .next ((s.touch dpa 256 false).fillWords core (cacheOffset set w) dpa 256)
    else .next s
  | _ => .next s

/-- NARROW_STEAL: a narrow access takes the next issue slot of its quad (R315). -/
def execNarrowSteal (core : Nat) (quad : Fin 6) (s : State) : Res :=
  if s.running && decide (core < 192) && (s.core core).phase == .executing then
    .next (s.modCore core (fun c => { c with stealQuad := some quad.val }))
  else .next s

end Sys2Proof.Machine
end

