-- ==== Sys2Proof/Machine/Matrix.lean ====
section
/-! DEFINITION. The matrix array: MX_LOAD, MX_STREAM and MX_DRAIN (R215 to R239, R256 to R261, R295). -/

namespace Sys2Proof.Machine

/-- A code that the MATRIX queue does not have (R224). -/
def matrixReserved (b : Bytes) : Bool := !inRange (byteAt b 0) 1 3

/-- Slot `k` of a core's array (R215). -/
def Core.tileSlot (c : Core) (k : Nat) : TileSlot := if k = 0 then c.slot0 else c.slot1
/-- Set slot `k`. -/
def Core.setSlot (c : Core) (k : Nat) (t : TileSlot) : Core := if k = 0 then { c with slot0 := t } else { c with slot1 := t }

/-- SLOT of MX_LOAD (R227). -/
def loadSlot (b : Bytes) : Nat := b2n (bitOf (byteAt b 1) 0)
/-- SLOT of MX_STREAM (R228). -/
def streamSlot (b : Bytes) : Nat := b2n (bitOf (byteAt b 1) 2)

/-- Sequence number of entry `i` of a queue (R177). -/
def EQueue.serialAt (q : EQueue) (i : Nat) : BitVec 32 := q.issued - BitVec.ofNat 32 q.cmds.length + BitVec.ofNat 32 (i + 1)

/-- A MATRIX command waits for a fused attention command issued before it (R295). -/
def Core.matrixHeld (c : Core) (i : Nat) : Bool :=
  (c.queue 2).cmds.any (fun x =>
    (byteAt x.bytes 0 == 7 || byteAt x.bytes 0 == 8) && (x.matrixIssued.ult ((c.queue 1).serialAt i)))

/-- The first MATRIX command that the array has not taken (R234). -/
def Core.matrixNext (c : Core) : Option Nat := (c.queue 1).cmds.findIdx? (fun x => !x.taken && !x.finished)

/-- Entry `i`, every command before it having started, finds its port free: a load waits for the earlier passes on its slot, a pass
for the earlier pass, and a drain for the earlier drain (R234). -/
def Core.mayTake (c : Core) (i : Nat) : Bool :=
  let b := ((c.queue 1).cmds.getD i {}).bytes
  (((c.queue 1).cmds.take i).filter (fun x => !x.finished)).all (fun x =>
    byteAt x.bytes 0 != byteAt b 0 && !(byteAt b 0 == 1 && byteAt x.bytes 0 == 2 && streamSlot x.bytes == loadSlot b))

/-- The command of code `op` that goes on, or that the array takes next (R234). -/
def Core.matrixEntry (op : Nat) (c : Core) : Option Nat :=
  match (c.queue 1).cmds.findIdx? (fun x => x.taken && !x.finished && byteAt x.bytes 0 == op) with
  | some i => some i
  | none =>
    match c.matrixNext with
    | some i => if byteAt ((c.queue 1).cmds.getD i {}).bytes 0 = op ∧ c.mayTake i then some i else none
    | none => none

/-- The array has taken entry `i` (R230, R234). -/
def Core.takeMatrix (c : Core) (i : Nat) : Core :=
  c.modQueue 1 (fun q => { q with cmds := q.cmds.modify i (fun x => { x with taken := true }) })

/-- Finished entries leave the MATRIX queue in order (R175, R234). -/
def Core.retireMatrix : Nat → Core → Core
  | 0, c => c
  | k + 1, c =>
    match (c.queue 1).cmds with
    | x :: rest => if x.finished then Core.retireMatrix k (c.modQueue 1 (fun q => { q with cmds := rest, done := q.done + 1 })) else c
    | [] => c

/-- Entry `i` of the MATRIX queue has finished (R177, R234). -/
def State.finishMatrix (s : State) (n i : Nat) : State :=
  (s.modCore n (fun c =>
    Core.retireMatrix 33 (c.modQueue 1 (fun q => { q with cmds := q.cmds.modify i (fun x => { x with finished := true }) })))).tendCheck n

/-- Array rows of a tile's image bytes in row-major order (R223). -/
def rowMajor (fmt : Nat) (colmajor : Bool) (img : Bytes) : Bytes :=
  if !colmajor then img
  else
    let a := img.toArray
    if fmt = 5 then (List.range 16384).flatMap (fun i => [a.getD (512 * (i % 64) + 2 * (i / 64)) 0, a.getD (512 * (i % 64) + 2 * (i / 64) + 1) 0])
    else (List.range 16384).map (fun i => a.getD (256 * (i % 64) + i / 64) 0)

/-- Block scales of an e2m1b tile in row-major order: scale (s, j) at 64 s + j (R223). -/
def rowMajorScales (colmajor : Bool) (sc : Bytes) : Bytes :=
  if !colmajor then sc else let a := sc.toArray; (List.range 1024).map (fun i => a.getD (16 * (i % 64) + i / 64) 0)

/-- Bytes of a tile image (R223). -/
def imageBytes (fmt : Nat) : Nat := if fmt = 5 then 32768 else 16384

/-- The fields of MX_LOAD are valid (R225 to R227, R230). -/
def Core.loadOk (c : Core) (b : Bytes) : Bool :=
  let fmt := byteAt b 2
  decide (byteAt b 1 < 4) && inRange fmt 1 5 && !(decide (fmt ≤ 3) && byteAt b 3 == 255) && zeroBytes b 4 7
    && multipleOf (field b 8 4) 256 && c.mayRead (field b 8 4) (imageBytes fmt)
    && (if fmt = 4 then multipleOf (field b 12 4) 256 && c.mayRead (field b 12 4) 1024 else field b 12 4 == 0)
    && tallyByteOk (byteAt b 16) && zeroBytes b 17 63

/-- The scratchpad ranges that MX_LOAD reads (R223). -/
def loadRanges (b : Bytes) : List (Nat × Nat) :=
  (field b 8 4, imageBytes (byteAt b 2)) :: (if byteAt b 2 = 4 then [(field b 12 4, 1024)] else [])

/-- The slot after MX_LOAD (R215, R223, R227). -/
def Core.loadedSlot (c : Core) (b : Bytes) : TileSlot :=
  let fmt := byteAt b 2
  let col := bitOf (byteAt b 1) 1
  { loaded := true, fmt := BitVec.ofNat 8 fmt, scale := BitVec.ofNat 8 (byteAt b 3),
    data := rowMajor fmt col (c.spRead (field b 8 4) (imageBytes fmt)),
    scales := if fmt = 4 then rowMajorScales col (c.spRead (field b 12 4) 1024) else [] }

/-- The frame of a MATRIX row: a reserved code that the array would take next is COMMAND_INVALID, a command behind an attention
command waits, and a conflict of R316 ends the run (R224, R234, R295, R316). -/
def State.matrixFrame (s : State) (n : Nat) (clash : Option Clash) (op : Nat) (body : State → Nat → QCmd → State) : State :=
  if !s.engineReady n 1 then s
  else
    let c := s.core n
    let bad := match c.matrixNext with
      | some i => if matrixReserved ((c.queue 1).cmds.getD i {}).bytes && !c.matrixHeld i then some i else none
      | none => none
    match bad, c.matrixEntry op with
    | some i, _ => s.engineRaise n ((c.queue 1).cmds.getD i {}) 0x15
    | none, none => s
    | none, some i =>
      if c.matrixHeld i then s
      else
        match s.readCmd n 1 i with
        | (s, false) => s
        | (s, true) =>
          match s.clashes n clash with
          | (s, some f) => s.endRun n f
          | (s, none) => body s i (((s.core n).queue 1).cmds.getD i {})

/-- MX_LOAD (R227, R234, R236). -/
def execMxLoad (core : Nat) (clash : Option Clash) (s : State) : Res :=
  .next (s.matrixFrame core clash 1 (fun s i x =>
    let b := x.bytes
    if !(s.core core).loadOk b then s.engineRaise core x 0x15
    else if !(s.core core).inputOpen (byteAt b 16) 1 then s
    else
      let wide := (loadRanges b).foldl (fun k r => k + wideOf r.1 r.2) 0
      match (s.modCore core (fun c => c.countWide wide)).engineReads core 1 (loadRanges b) with
      | (s, false) => s
      | (s, true) =>
        let c := (s.core core).setSlot (loadSlot b) ((s.core core).loadedSlot b)
        match c.gatePass (byteAt b 16) 1 3 true with
        | .inr f => s.endRun core f
        | .inl c => (s.modCore core (fun _ => c)).finishMatrix core i))

/-- The pairs of R217. -/
inductive Pairing where
  | eight | int8 | four | mixed | bf16 | it40
  deriving DecidableEq, Repr

/-- The pair of a tile format and a stream format (R217); none when it is not legal. -/
def pairing (tile stream : Nat) (it40 : Bool) : Option Pairing :=
  match tile, stream with
  | 1, 1 | 1, 2 | 2, 1 | 2, 2 => if it40 then none else some .eight
  | 3, 3 => if it40 then none else some .int8
  | 4, 4 => if it40 then none else some .four
  | 4, 1 | 4, 2 => if it40 then none else some .mixed
  | 5, 5 => some (if it40 then .it40 else .bf16)
  | _, _ => none

/-- MX_STREAM with what its slot's tile gives it (R217, R228). -/
structure StreamOp where
  transposed : Bool
  sink : Bool
  add : Bool
  layout : Nat
  fmt : Nat
  scale : Nat
  cols : Nat
  outFmt : EFmt
  outCode : Nat
  outScale : Nat
  rows : Nat
  inData : Nat
  inScale : Nat
  inStride : Nat
  inRing : Nat
  inSlotRows : Nat
  inTally : Nat
  outTally : Nat
  accBase : Nat
  accLines : Nat
  outData : Nat
  outStride : Nat
  outRing : Nat
  outSlotRows : Nat
  status : Nat
  lstride : Nat
  out2 : Nat
  pair : Pairing
  tileRows : Nat
  exp : Int
  deriving DecidableEq, Repr

/-- Logical rows of a tile format (R217). -/
def tileRowsOf (fmt : Nat) : Nat := if fmt = 4 then 512 else 256

/-- Read MX_STREAM against its slot; none where R217 or R222 refuses it. -/
def Core.streamOp (c : Core) (b : Bytes) : Option StreamOp :=
  let mode := byteAt b 1
  let t := c.tileSlot (streamSlot b)
  if !t.loaded then none
  else
    (pairing t.fmt.toNat (byteAt b 2) (bitOf mode 3)).map (fun p =>
      { transposed := bitOf mode 0, sink := bitOf mode 4, add := bitOf mode 5, layout := bitsOf mode 7 6, fmt := byteAt b 2,
        scale := byteAt b 3, cols := byteAt b 4, outFmt := (EFmt.ofCode (byteAt b 5)).getD .binary32, outCode := byteAt b 5,
        outScale := byteAt b 6, rows := field b 8 4, inData := field b 12 4, inScale := field b 16 4, inStride := field b 20 4,
        inRing := field b 24 4, inSlotRows := field b 28 2, inTally := byteAt b 30, outTally := byteAt b 31,
        accBase := field b 32 2, accLines := field b 34 2, outData := field b 36 4, outStride := field b 40 4,
        outRing := field b 44 4, outSlotRows := field b 48 2, status := field b 52 4, lstride := field b 56 4,
        out2 := field b 60 4, pair := p, tileRows := tileRowsOf t.fmt.toNat,
        exp := match p with
          | .eight | .int8 => (t.scale.toNat : Int) + byteAt b 3 - 254
          | .mixed => (byteAt b 3 : Int) - 127
          | _ => 0 })

/-- Lines per row (R220). -/
def StreamOp.lpr (m : StreamOp) : Nat := if m.transposed then m.tileRows / 64 else 1
/-- Elements of a stream row (R217). -/
def StreamOp.len (m : StreamOp) : Nat := if m.transposed then 64 else m.tileRows
/-- Bytes of a stream row (R217). -/
def StreamOp.rowBytes (m : StreamOp) : Nat := if m.fmt = 4 then m.len / 2 else if m.fmt = 5 then 2 * m.len else m.len
/-- Scale bytes of a stream row (R228). -/
def StreamOp.scaleBytes (m : StreamOp) : Nat := if m.fmt = 4 then m.len / 32 else 0
/-- Row `r` within the input ring (R229). -/
def StreamOp.inRow (m : StreamOp) (r : Nat) : Nat := if m.inRing = 0 then r else r % m.inRing
/-- Row `r` within the output ring (R229). -/
def StreamOp.outRow (m : StreamOp) (r : Nat) : Nat := if m.outRing = 0 then r else r % m.outRing
/-- Rows of the input that are distinct. -/
def StreamOp.inRows (m : StreamOp) : Nat := if m.inRing = 0 then m.rows else min m.rows m.inRing
/-- Rows of the output that are distinct. -/
def StreamOp.outRows (m : StreamOp) : Nat := if m.outRing = 0 then m.rows else min m.rows m.outRing
/-- Bytes of an output element (R229). -/
def StreamOp.e (m : StreamOp) : Nat := m.outFmt.size
/-- Base of the feature-major output (R229). -/
def StreamOp.featureBase (m : StreamOp) : Nat := if m.layout = 1 then m.outData else m.out2
/-- Bytes from the first to the last byte of a row-major output row (R229). -/
def StreamOp.outSpan (m : StreamOp) : Nat := (m.lpr - 1) * m.lstride + 64 * m.e
/-- Bytes from the first to the last byte of the feature-major output; the last block's feature rows may be shorter (R229). -/
def StreamOp.featureSpan (m : StreamOp) : Nat :=
  ((ceilDiv m.outRows 256 - 1) * 64 + 63) * m.lstride + ((m.outRows - 1) % 256 + 1) * m.e
/-- Accumulator line `l` of row `r` (R229). -/
def StreamOp.line (m : StreamOp) (r l : Nat) : Nat :=
  if m.sink then m.accBase + (r * m.lpr + l) % m.accLines else m.accBase + r * m.lpr + l

/-- The checks of R228 and R230 on a command whose pair is legal. -/
def Core.streamValid (c : Core) (b : Bytes) (m : StreamOp) : Bool :=
  let outs := m.sink
  !bitOf (byteAt b 1) 1 && decide (m.layout < 3) && byteAt b 7 == 0 && zeroBytes b 50 51
    && tallyByteOk m.inTally && tallyByteOk m.outTally
    && !(inRange m.fmt 1 3 && m.scale == 255) && (m.fmt == 4 || m.inScale == 0) && (m.layout == 2 || m.out2 == 0)
    && decide (1 ≤ m.rows) && inRange m.cols 1 64 && inRange m.accLines 1 2048 && decide (m.accBase + m.accLines ≤ 2048)
    && (!gateOf m.inTally || inRange m.inSlotRows 1 4096) && decide (1 ≤ m.outSlotRows)
    && (if m.sink then multipleOf m.accLines m.lpr else decide (m.rows * m.lpr ≤ m.accLines))
    && (m.layout == 0 || (m.sink && !m.transposed && multipleOf m.outRing 256))
    && multipleOf m.inData 32 && multipleOf m.inStride 32 && (m.rows == 1 || decide (m.rowBytes ≤ m.inStride))
    && multipleOf m.outData 64 && multipleOf m.out2 64 && multipleOf m.outStride 64 && multipleOf m.lstride 64
    && c.mayReadRows m.inData m.inRows m.inStride m.rowBytes
    && (m.fmt != 4 || c.mayRead m.inScale (m.inRows * m.scaleBytes))
    && (m.status == 0xFFFFFFFF || (multipleOf m.status 4 && c.inWork m.status 4))
    && (!outs || ((m.outCode == 1 || m.outCode == 2 || m.outCode == 5 || m.outCode == 6) && !(decide (m.outCode ≤ 2) && m.outScale == 255)))
    && (!outs || m.layout == 1 || ((m.lpr == 1 || decide (64 * m.e ≤ m.lstride)) && (m.outRows == 1 || decide (m.outSpan ≤ m.outStride))
        && c.inWork m.outData ((m.outRows - 1) * m.outStride + m.outSpan)))
    && (!outs || m.layout == 0 || (decide (min m.outRows 256 * m.e ≤ m.lstride) && c.inWork m.featureBase m.featureSpan))

/-- Element (k, j) of a loaded tile at position 64 k + j, with its block scale (R223, R246, R256). -/
def TileSlot.values (t : TileSlot) : Array Val :=
  let d := t.data.toArray
  let sc := t.scales.toArray
  let at_ (i : Nat) : Nat := (d.getD i 0).toNat
  ((List.range (64 * tileRowsOf t.fmt.toNat)).map (fun i =>
    let k := i / 64
    let j := i % 64
    match t.fmt.toNat with
    | 4 =>
      let byte := at_ (64 * (k / 2) + j)
      blockVal (EFmt.e2m1b.val (if k % 2 = 0 then byte % 16 else byte / 16)) (sc.getD (64 * (k / 32) + j) 0).toNat
    | 5 => EFmt.bf16.val (at_ (2 * i) + 256 * at_ (2 * i + 1))
    | f => ((EFmt.ofCode f).getD .e4m3).val (at_ i))).toArray

/-- The elements of a stream row (R228, R246, R258). -/
def StreamOp.elements (m : StreamOp) (row scales : Bytes) : List Val :=
  let d := row.toArray
  let at_ (i : Nat) : Nat := (d.getD i 0).toNat
  (List.range m.len).map (fun k =>
    if m.transposed && decide (m.cols ≤ k) then .fin false 0 0
    else
      match m.fmt with
      | 4 => blockVal (EFmt.e2m1b.val (if k % 2 = 0 then at_ (k / 2) % 16 else at_ (k / 2) / 16)) (byteAt scales (k / 32))
      | 5 => EFmt.bf16.val (at_ (2 * k) + 256 * at_ (2 * k + 1))
      | f => ((EFmt.ofCode f).getD .e4m3).val (at_ k))

/-- One output of a pass (R256, R260, R261). -/
def StreamOp.dot (m : StreamOp) (ts ss : List Val) (a : Option F32) : F32 × RFlags :=
  match m.pair with
  | .bf16 => bf16Dot ts ss a
  | .it40 => it40Dot ts ss a
  | _ => exactDot m.exp ts ss a

/-- An accumulator line (R220). -/
def Core.accLine (c : Core) (l : Nat) : Line := lookupD (List.replicate 64 0) l c.acc

/-- Errors of an accumulator line (R449, R450). -/
def Core.accErrors (c : Core) (l : Nat) : List Bool := (c.accUpsets.filter (fun x => x.1 == l)).map (·.2)

/-- One line of one row: its words with the flags of its outputs, none for an inactive column (R228, R256, R258). -/
def StreamOp.rowLine (m : StreamOp) (tile : Array Val) (xs : List Val) (old : Line) (l : Nat) : List (F32 × Option RFlags) :=
  (List.range 64).map (fun j =>
    if !m.transposed && decide (m.cols ≤ j) then (0#32, none)
    else
      let ts := if m.transposed then (List.range 64).map (fun k => tile.getD (64 * (64 * l + j) + k) .nan)
        else (List.range m.tileRows).map (fun k => tile.getD (64 * k + j) .nan)
      let r := m.dot ts xs (if m.add then some (old.getD j 0) else none)
      (r.1, some r.2))

/-- Status bits of an input value (R231). -/
def inputBits (v : Val) : Nat := if v.isNan then 2 else if v.isInf then 4 else 0
/-- Status bits of a rounded output or a conversion (R231, R259). -/
def flagBits (f : RFlags) : Nat := b2n f.sat + 2 * b2n f.nan + 4 * b2n f.inf

/-- The conversion of a line's words into OUT_FMT (R229, R254). -/
def StreamOp.convertLine (m : StreamOp) (ws : List (F32 × Option RFlags)) : List (Nat × Option RFlags) :=
  ws.map (fun w =>
    if m.outFmt = .binary32 then (w.1.toNat, none)
    else
      let r := convert m.outFmt (multOf m.outFmt m.outScale) w.1
      (r.1, if w.2.isSome then some r.2 else none))

/-- Outputs that saturated, each once (R231, R259). -/
def saturated (ws : List (F32 × Option RFlags)) (cs : List (Nat × Option RFlags)) : Nat :=
  (List.zipWith (fun w c => ((w.2.map (·.sat)).getD false) || ((c.2.map (·.sat)).getD false)) ws cs).count true

/-- One line of a row reaches the accumulators, the counts and, with SINK, its conversion (R229, R231, R259, R268). -/
def Core.passLine (c : Core) (m : StreamOp) (tile : Array Val) (xs : List Val) (r l : Nat) : Core × Bytes :=
  let n := m.line r l
  let old := c.accLine n
  let ws := m.rowLine tile xs old l
  let cs := if m.sink then m.convertLine ws else ws.map (fun _ => (0, none))
  let fs := ws.filterMap (·.2)
  let cf := cs.filterMap (·.2)
  let oldBits := if m.add then (List.zip old ws).foldl (fun a p => if p.2.2.isSome then a ||| inputBits (fval p.1) else a) 0 else 0
  let bits := (fs ++ cf).foldl (fun a f => a ||| flagBits f) oldBits
  let num := numCount c.numStore 0 0 fs
  ({ c with acc := setKey n (ws.map (·.1)) c.acc, accUpsets := c.accUpsets.filter (fun x => x.1 != n), numStore := if cf.isEmpty then num else numCount num 0 m.outFmt.slot cf,
            pass := { c.pass with bits := c.pass.bits ||| bits, satn := c.pass.satn + saturated ws cs } },
    if m.sink then cs.flatMap (fun x => leBytes m.e x.1) else [])

/-- The 64 feature rows of a block whose last row is `r` (R229). -/
def Core.writeBlock (c : Core) (m : StreamOp) (r : Nat) : Core :=
  let rows := c.pass.block.map List.toArray
  let first := m.outRow r / 256 * 64
  let c := (List.range 64).foldl (fun (c : Core) j =>
    let bs := rows.flatMap (fun a => (List.range m.e).map (fun q => a.getD (j * m.e + q) 0))
    let a := m.featureBase + (first + j) * m.lstride
    (c.spWrite a bs).countWide (wideAccesses a a bs.length)) c
  { c with pass := { c.pass with block := [] } }

/-- Write a row's converted lines (R229). -/
def Core.writeRow (c : Core) (m : StreamOp) (r : Nat) (lines : List Bytes) : Core :=
  let a := m.outData + m.outRow r * m.outStride
  let c := if m.layout = 1 then c
    else
      let c := (List.range lines.length).foldl (fun (c : Core) l => c.spWrite (a + l * m.lstride) (lines.getD l [])) c
      if m.lpr = 1 || m.lstride == 64 * m.e then c.countWide (wideAccesses a a (m.lpr * 64 * m.e))
      else (List.range m.lpr).foldl (fun (c : Core) l => c.countWide (wideAccesses (a + l * m.lstride) (a + l * m.lstride) (64 * m.e))) c
  if m.layout = 0 then c
  else
    let c := { c with pass := { c.pass with block := c.pass.block ++ [lines.flatten] } }
    if m.outRow r % 256 == 255 || r + 1 == m.rows then c.writeBlock m r else c

/-- Row `r` ends a group of `k` rows (R238). -/
def StreamOp.groupEnd (m : StreamOp) (r k : Nat) : Bool := (r + 1) % k == 0 || r + 1 == m.rows

/-- Fill `k` output slots one by one (R238, R336). -/
def Core.fillOut (c : Core) (b : Nat) : Nat → Core ⊕ Cause
  | 0 => .inl c
  | k + 1 => match c.gatePass b 1 3 false with | .inl c => c.fillOut b k | .inr f => .inr f

/-- One row of a pass once its data is read (R229, R235, R238). -/
def Core.passRow (c : Core) (m : StreamOp) (tile : Array Val) (r : Nat) (row scales : Bytes) : Core ⊕ Cause :=
  let xs := m.elements row scales
  let c := { c with pass := { c.pass with bits := c.pass.bits ||| (xs.foldl (fun a v => a ||| (if v.isInf then 4 else 0)) 0) } }
  let r' := (List.range m.lpr).foldl (fun (a : Core × List Bytes) l =>
    let p := a.1.passLine m tile xs r l
    (p.1, a.2 ++ [p.2])) (c, [])
  let c := if m.sink then r'.1.writeRow m r r'.2 else r'.1
  let c := { c with pass := { c.pass with row := r + 1 } }
  let ins : Core ⊕ Cause := if gateOf m.inTally && m.groupEnd r m.inSlotRows then c.gatePass m.inTally 1 3 true else .inl c
  match ins with
  | .inr f => .inr f
  | .inl c =>
    let pend := c.pass.pend + b2n (gateOf m.outTally && m.groupEnd r m.outSlotRows)
    let flush := m.layout == 0 || c.pass.block.isEmpty
    if flush then ({ c with pass := { c.pass with pend := 0 } }).fillOut m.outTally pend
    else .inl { c with pass := { c.pass with pend := pend } }

/-- Wide reads of a row's data and scales (R237; log 50). -/
def StreamOp.reads (m : StreamOp) (r : Nat) : Nat :=
  let per := 256 / m.rowBytes
  let a := m.inData + m.inRow r * m.inStride
  let data := if 256 ≤ m.rowBytes then wideOf a m.rowBytes else if m.inStride = m.rowBytes then b2n (r % per == 0) else 1
  data + (if m.fmt = 4 then b2n (r % (256 / m.scaleBytes) == 0) else 0)

/-- An earlier drain is still to read a line that row `r` of the pass at entry `i` writes (R238, R239). -/
def Core.drainHolds (c : Core) (i : Nat) (m : StreamOp) (r : Nat) : Bool :=
  ((c.queue 1).cmds.take i).any (fun x =>
    !x.finished && byteAt x.bytes 0 == 3 && (List.range m.lpr).any (fun l =>
      decide (field x.bytes 2 2 ≤ m.line r l) && decide (m.line r l < field x.bytes 2 2 + field x.bytes 4 2)))

/-- Row `r` may enter: the first row of a group waits for its slot, and any row for the drain of its lines (R238). -/
def Core.rowMayEnter (c : Core) (i : Nat) (m : StreamOp) (r : Nat) : Bool :=
  !c.drainHolds i m r && (!(gateOf m.inTally && r % m.inSlotRows == 0) || c.inputOpen m.inTally 1)
    && (!(gateOf m.outTally && r % m.outSlotRows == 0) || c.outputOpen m.outTally (c.pass.pend + 1))

/-- Enter rows until a gate holds one back, the pass ends, or the run ends (R229, R238, R332); false when the run has ended. -/
def State.passLoop : Nat → State → Nat → Nat → StreamOp → Array Val → State × Bool
  | 0, s, _, _, _, _ => (s, true)
  | k + 1, s, n, i, m, tile =>
    let c := s.core n
    let r := c.pass.row
    if decide (m.rows ≤ r) || !c.rowMayEnter i m r then (s, true)
    else
      let a := m.inData + m.inRow r * m.inStride
      let sa := m.inScale + m.inRow r * m.scaleBytes
      match (s.modCore n (fun c => c.countWide (m.reads r))).engineReads n 1 [(a, m.rowBytes), (sa, m.scaleBytes)] with
      | (s, false) => (s, false)
      | (s, true) =>
        match s.meet n 5 (if m.add then (List.range m.lpr).flatMap (fun l => (s.core n).accErrors (m.line r l)) else []) with
        | (s, false) => (s, false)
        | (s, true) =>
          let c := s.core n
          match c.passRow m tile r (c.spRead a m.rowBytes) (c.spRead sa m.scaleBytes) with
          | .inl c => State.passLoop k (s.modCore n (fun _ => c)) n i m tile
          | .inr f => (s.endRun n f, false)

/-- Status bits that the tile itself gives: an infinity among the elements of the pass (R231). -/
def StreamOp.tileBits (m : StreamOp) (tile : Array Val) : Nat :=
  if (List.range (64 * m.tileRows)).any (fun i => (m.transposed || decide (i % 64 < m.cols)) && (tile.getD i .nan).isInf) then 4 else 0

/-- The pass has ended: the status word and the done count (R231, R235). -/
def State.passEnd (s : State) (n i : Nat) (m : StreamOp) : State :=
  let p := (s.core n).pass
  let w := p.bits % 8 + min p.satn 65535 * 65536
  (s.modCore n (fun c =>
    { (if m.status = 0xFFFFFFFF then c else c.spWrite m.status (leBytes 4 w)) with pass := {} })).finishMatrix n i

/-- MX_STREAM: as many rows as its gates let enter (R228 to R231, R238; log 51). -/
def execMxStream (core : Nat) (clash : Option Clash) (s : State) : Res :=
  .next (s.matrixFrame core clash 2 (fun s i x =>
    let c := s.core core
    match c.streamOp x.bytes with
    | none => s.engineRaise core x 0x15
    | some m =>
      if !x.taken && !c.streamValid x.bytes m then s.engineRaise core x 0x15
      else
        let s := s.modCore core (fun c => c.takeMatrix i)
        let tile := (c.tileSlot (streamSlot x.bytes)).values
        let s := if c.pass.row = 0 then s.modCore core (fun c => { c with pass := { c.pass with bits := m.tileBits tile } }) else s
        match State.passLoop (m.rows - c.pass.row) s core i m tile with
        | (s, false) => s
        | (s, true) => if (s.core core).pass.row = m.rows then s.passEnd core i m else s))

/-- The fields of MX_DRAIN are in range (R232). -/
def drainOk (b : Bytes) : Bool :=
  decide (byteAt b 1 < 2) && inRange (field b 4 2) 1 2048 && decide (field b 2 2 + field b 4 2 ≤ 2048) && zeroBytes b 6 7

/-- Status byte of a contribution (R431). -/
def drainStatus (header : Bytes) (lines : List Line) : BitVec 8 :=
  let ws := lines.flatten
  let sat := bitOf (byteAt header 7) 0 || ws.any (fun w => w &&& 0x7FFFFFFF#32 == 0x7F7FFFFF#32)
  BitVec.ofNat 8 (b2n (ws.any f32IsNan) + 2 * b2n (ws.any (fun w => f32Special w && !f32IsNan w)) + 4 * b2n sat)

/-- An earlier pass is still to write a line that a drain of `n` lines from `base` at entry `i` reads (R239). -/
def Core.passHolds (c : Core) (i base n : Nat) : Bool :=
  ((c.queue 1).cmds.take i).any (fun x =>
    !x.finished && byteAt x.bytes 0 == 2 &&
      (match c.streamOp x.bytes with
       | some m => (List.range (min (m.rows - c.pass.row) m.accLines)).any (fun k => (List.range m.lpr).any (fun l =>
           decide (base ≤ m.line (c.pass.row + k) l) && decide (m.line (c.pass.row + k) l < base + n)))
       | none => false))

/-- MX_DRAIN: the drain starts once its port is free, and reads its lines after the earlier passes have written them (R232 to R234,
R237, R239, R431). -/
def execMxDrain (core : Nat) (clash : Option Clash) (s : State) : Res :=
  .next (s.matrixFrame core clash 3 (fun s i x =>
    let b := x.bytes
    let base := field b 2 2
    let n := field b 4 2
    if !drainOk b then s.engineRaise core x 0x15
    else if (s.core core).passHolds i base n then s.modCore core (fun c => c.takeMatrix i)
    else
      let c := s.core core
      let header := sliceBytes b 8 56
      let lines := (List.range n).map (fun k => c.accLine (base + k))
      let st := drainStatus header lines
      match s.meet core 5 ((List.range n).flatMap (fun k => c.accErrors (base + k))) with
      | (s, false) => s
      | (s, true) =>
        let c := s.core core
        let put := c.stageBase + c.stageUsed + 64
        match c.stage (.remoteAcc header st lines x.pc.toNat) (2 :: st.toNat :: header.map (·.toNat)) (lines.flatMap lineBytes) with
        | none => s.endRun core .staging
        | some c =>
          let c := c.countWide (wideAccesses put put (256 * n))
          let c := if bitOf (byteAt b 1) 0 then
              { c with acc := c.acc.filter (fun l => !(decide (base ≤ l.1) && decide (l.1 < base + n))),
                       accUpsets := c.accUpsets.filter (fun l => !(decide (base ≤ l.1) && decide (l.1 < base + n))) } else c
          (s.modCore core (fun _ => c)).finishMatrix core i))

end Sys2Proof.Machine
end

