-- ==== Sys2Proof/Machine/Transc.lean ====
section
/-! DEFINITION. The correctly rounded exponential, logarithm and the functions of R277 built on them, by fixed-point
enclosures of 384 fraction bits (R278, log 13). -/

namespace Sys2Proof.Machine

/-- Fraction bits of the enclosures. -/
def fixP : Nat := 384

/-- Half width of every enclosure, in units of 2^-384; it covers truncation of the series and of each division. -/
def fixErr : Nat := 2 ^ 20

/-- Σ y^(2i+1)/(2i+1) for i below the fuel, from the running power and index, in fixed point. -/
def atanhSum (y2 : Int) : Nat → Nat → Int → Int
  | 0, _, _ => 0
  | n + 1, i, p => p / ((2 * i + 1 : Nat) : Int) + atanhSum y2 n (i + 1) (p * y2 / 2 ^ fixP)

/-- ln 2 = 2 atanh(1/3) in fixed point. -/
def fixLn2 : Int := 2 * atanhSum (2 ^ fixP / 9) 130 0 (2 ^ fixP / 3)

/-- Taylor sum of e^r in fixed point from the running term. -/
def expSum (r : Int) : Nat → Nat → Int → Int
  | 0, _, _ => 0
  | n + 1, i, t => t + expSum r n (i + 1) (t * r / 2 ^ fixP / ((i + 1 : Nat) : Int))

/-- e^(a / 2^384) as E × 2^(k - 384). -/
def fixExp (a : Int) : Int × Int :=
  let k := (a + fixLn2 / 2) / fixLn2
  (expSum (a - k * fixLn2) 90 0 (2 ^ fixP), k)

/-- e^(-a / 2^384) for a ≥ 0, in fixed point. -/
def fixExpNeg (a : Int) : Int :=
  let (e, k) := fixExp (-a)
  e / 2 ^ (-k).toNat

/-- A finite value in fixed point, truncated. -/
def fixOf : Val → Int
  | .fin n m e =>
    let x : Int := if 0 ≤ e + (fixP : Int) then ((m <<< (e + (fixP : Int)).toNat : Nat) : Int)
      else ((m >>> (-(e + (fixP : Int))).toNat : Nat) : Int)
    if n then -x else x
  | _ => 0

/-- Round an enclosure of a magnitude that is not zero: m ± w, at exponent e; one that reaches down to zero begins above it. `fn` and the operands name the value that stands in where
the enclosure does not decide the rounding. -/
def roundEncl (fn : Nat) (x y : F32) (neg : Bool) (m w : Nat) (e : Int) : F32 × RFlags :=
  let lo := round32 (if w < m then .fin neg (m - w) e else .fin neg 1 (-1000))
  let hi := round32 (.fin neg (m + w) e)
  if lo = hi then lo else (Config.undecidedRounding fn x y, hi.2)

/-- The value is finite with magnitude at least 2^7. -/
def Val.large : Val → Bool
  | .fin _ m e => m != 0 && decide (7 ≤ e + (m.log2 : Int))
  | _ => false

/-- EXP of R277: e^a. -/
def fexp (x : F32) : F32 × RFlags :=
  match fval x with
  | .nan => (0x7FC00000#32, { nan := true })
  | .inf n => if n then (0#32, {}) else (0x7F800000#32, { inf := true })
  | .fin n m e =>
    if m = 0 then (0x3F800000#32, {})
    else if (Val.fin n m e).large then (if n then round32 (.fin false 1 (-1000)) else round32 (.fin false 1 1000))
    else
      let (q, k) := fixExp (fixOf (.fin n m e))
      roundEncl 0x0E x 0 false q.toNat fixErr (k - fixP)

/-- The correctly rounded natural logarithm (R281, R291). -/
def fln (x : F32) : F32 × RFlags :=
  match fval x with
  | .nan => (0x7FC00000#32, { nan := true })
  | .inf n => if n then (0x7FC00000#32, { nan := true }) else (0x7F800000#32, { inf := true })
  | .fin n m e =>
    if m = 0 then (0xFF800000#32, { inf := true })
    else if n then (0x7FC00000#32, { nan := true })
    else if x = 0x3F800000#32 then (0#32, {})
    else
      let b := bitLen m
      let up := decide (2 ^ (2 * b) < 2 * m * m)
      let k : Int := e + (b : Int) - (if up then 0 else 1)
      let den : Nat := if up then 2 ^ b else 2 ^ (b - 1)
      let y : Int := ((m : Int) - (den : Int)) * 2 ^ fixP / ((m + den : Nat) : Int)
      let s := k * fixLn2 + 2 * atanhSum (y * y / 2 ^ fixP) 90 0 y
      roundEncl 0x15 x 0 (decide (s < 0)) s.natAbs fixErr (-(fixP : Int))

/-- 1 ÷ (1 + e^-v) in fixed point for |v| below 2^9. -/
def fixSigmoid (v : Int) : Int :=
  let t := fixExpNeg v.natAbs
  if 0 ≤ v then 2 ^ (2 * fixP) / (2 ^ fixP + t) else t * 2 ^ fixP / (2 ^ fixP + t)

/-- TANH of R277. -/
def ftanh (x : F32) : F32 × RFlags :=
  match fval x with
  | .nan => (0x7FC00000#32, { nan := true })
  | .inf n => (if n then 0xBF800000#32 else 0x3F800000#32, {})
  | .fin n m e =>
    if m = 0 then (x, {})
    else if (Val.fin n m e).large then (if n then 0xBF800000#32 else 0x3F800000#32, {})
    else
      let t := fixExpNeg (2 * (fixOf (.fin n m e)).natAbs)
      roundEncl 0x0F x 0 n ((2 ^ fixP - t) * 2 ^ fixP / (2 ^ fixP + t)).toNat fixErr (-(fixP : Int))

/-- SIGMOID of R277. -/
def fsigmoid (x : F32) : F32 × RFlags :=
  match fval x with
  | .nan => (0x7FC00000#32, { nan := true })
  | .inf n => (if n then 0#32 else 0x3F800000#32, {})
  | .fin n m e =>
    if (Val.fin n m e).large then (if n then round32 (.fin false 1 (-1000)) else (0x3F800000#32, {}))
    else roundEncl 0x10 x 0 false (fixSigmoid (fixOf (.fin n m e))).toNat fixErr (-(fixP : Int))

/-- a ÷ (1 + e^-v) for finite non-zero a and |v| as given in fixed point. -/
def gated (fn : Nat) (x : F32) (n : Bool) (m : Nat) (e : Int) (v : Int) : F32 × RFlags :=
  roundEncl fn x 0 n ((fixSigmoid v).toNat * m) (fixErr * m) (e - (fixP : Int))

/-- SILU of R277. -/
def fsilu (x : F32) : F32 × RFlags :=
  match fval x with
  | .nan => (0x7FC00000#32, { nan := true })
  | .inf n => if n then (0x80000000#32, {}) else (0x7F800000#32, { inf := true })
  | .fin n m e =>
    if m = 0 then (x, {})
    else if (Val.fin n m e).large then (if n then round32 (.fin true 1 (-1000)) else (x, {}))
    else gated 0x11 x n m e (fixOf (.fin n m e))

/-- GELU_TANH of R277: 0.5a(1 + tanh(u)) = a ÷ (1 + e^-2u) with u = k1 × (a + k2 × a^3), the constants at their
binary32 values. -/
def fgelu (x : F32) : F32 × RFlags :=
  match fval x with
  | .nan => (0x7FC00000#32, { nan := true })
  | .inf n => if n then (0x80000000#32, {}) else (0x7F800000#32, { inf := true })
  | .fin n m e =>
    let a := Val.fin n m e
    if m = 0 then (x, {})
    else if decide (4 ≤ e + (m.log2 : Int)) then (if n then round32 (.fin true 1 (-1000)) else (x, {}))
    else
      let u := (fval 0x3F4C422A#32).mul (a.add ((fval 0x3D372713#32).mul (a.mul (a.mul a))))
      gated 0x12 x n m e (fixOf (u.scale 1))

/-- SWIGLU of R277: round32(round32(silu(a)) × b). The count of R276 is that of the output's own rounding (log 14). -/
def fswiglu (x y : F32) : F32 × RFlags := fmul (fsilu x).1 y

end Sys2Proof.Machine
end

