-- ==== Sys2Proof/Machine/Vector.lean ====
section
/-! DEFINITION. The vector unit: the common layout, elementwise functions, reductions, norms, softmax, conversion, the
scale tracker and KV packing (R265, R266, R272 to R284, R301). -/

namespace Sys2Proof.Machine

/-- A code or an OPT_STEP operation that the VECTOR queue does not have (R272, R387). -/
def vectorReserved (b : Bytes) : Bool := !(inRange (byteAt b 0) 1 9 || (byteAt b 0 == 0x10 && inRange (byteAt b 1) 1 9))

/-- The absent offset of R274 and R275. -/
def noOffset : Nat := 0xFFFFFFFF

/-- A value with the flags of the roundings that formed it (R259). -/
abbrev FV := F32 × RFlags

/-- A value with no rounding behind it. -/
def FV.of (x : F32) : FV := (x, {})

/-- A one-operand function, with the flags of what came before. -/
def FV.map (f : F32 → FV) (x : FV) : FV :=
  let r := f x.1
  (r.1, { r.2 with sat := x.2.sat || r.2.sat, flush := x.2.flush || r.2.flush })

/-- Sum, difference, product and quotient that keep the flags of their operands. -/
def FV.add (x y : FV) : FV := flagged fadd x y
/-- See `FV.add`. -/
def FV.sub (x y : FV) : FV := flagged fsub x y
/-- See `FV.add`. -/
def FV.mul (x y : FV) : FV := flagged fmul x y
/-- See `FV.add`. -/
def FV.div (x y : FV) : FV := flagged fdiv x y

/-- Reciprocal square root, one rounding (R278). -/
def frsqrt (x : F32) : FV := round32 (fval x).rsqrt

/-- The fields of the common layout (R275). -/
structure VxCmd where
  fn : Nat
  fmtA : Nat
  scaleA : Nat
  fmtB : Nat
  scaleB : Nat
  fmtOut : Nat
  scaleOut : Nat
  cls : Nat
  flags : Nat
  inTally : Nat
  outTally : Nat
  rows : Nat
  cols : Nat
  a : Nat
  aStride : Nat
  b : Nat
  bStride : Nat
  c : Nat
  d : Nat
  out : Nat
  outStride : Nat
  imm : F32
  aux : Nat
  status : Nat
  deriving DecidableEq, Repr

/-- Read the common layout (R275). -/
def vxCmd (b : Bytes) : VxCmd :=
  { fn := byteAt b 1, fmtA := byteAt b 2, scaleA := byteAt b 3, fmtB := byteAt b 4, scaleB := byteAt b 5, fmtOut := byteAt b 6,
    scaleOut := byteAt b 7, cls := byteAt b 8, flags := byteAt b 9, inTally := byteAt b 10, outTally := byteAt b 11,
    rows := field b 12 4, cols := field b 16 4, a := field b 20 4, aStride := field b 24 4, b := field b 28 4,
    bStride := field b 32 4, c := field b 36 4, d := field b 40 4, out := field b 44 4, outStride := field b 48 4,
    imm := BitVec.ofNat 32 (field b 52 4), aux := field b 56 4, status := field b 60 4 }

/-- A format of the column "Elementwise" of R273. -/
def elemFmt (f : Nat) : Bool := inRange f 1 3 || f == 5 || f == 6
/-- A format of the column "VX_CONVERT" of R273. -/
def convFmt (f : Nat) : Bool := inRange f 1 7
/-- A block format (R246, R273). -/
def blockFmt (f : Nat) : Bool := f == 4 || f == 7
/-- The scale field of a format: not 0xFF for a scaled one, zero where the format field is 0x00 (R274). -/
def scaleOk (f scale : Nat) : Bool := if f = 0 then scale == 0 else !(inRange f 1 3 && scale == 255)
/-- Bytes of `n` elements (R246). -/
def elemBytes (f n : Nat) : Nat := if f = 4 then n / 2 else n * ((EFmt.ofCode f).getD .e4m3).size

/-- A STATUS offset is absent, or aligned and in the working region (R274). -/
def Core.statusOk (c : Core) (a : Nat) : Bool := a == noOffset || (multipleOf a 4 && c.inWork a 4)
/-- An AUX output of `n` bytes is aligned and in the working region (R274). -/
def Core.auxOk (c : Core) (a n : Nat) : Bool := multipleOf a 4 && c.inWork a n
/-- Bytes that rows of `n` bytes at a stride span. -/
def spanOf (rows stride n : Nat) : Nat := (rows - 1) * stride + n

/-- What every command of the common layout keeps to (R274, R275). -/
def Core.vxCommon (c : Core) (x : VxCmd) : Bool :=
  decide (x.cls < 8) && decide (x.flags < 3) && tallyByteOk x.inTally && tallyByteOk x.outTally && inRange x.rows 1 65536
    && inRange x.cols 1 65536 && multipleOf x.a 32 && multipleOf x.aStride 32 && multipleOf x.b 32 && multipleOf x.bStride 32
    && multipleOf x.out 32 && multipleOf x.outStride 32 && c.statusOk x.status && scaleOk x.fmtA x.scaleA
    && scaleOk x.fmtB x.scaleB && scaleOk x.fmtOut x.scaleOut
    && c.mayReadRows x.a x.rows x.aStride (elemBytes x.fmtA x.cols)

/-- The output rows lie in the working region (R274). -/
def Core.vxOut (c : Core) (x : VxCmd) : Bool := c.inWork x.out (spanOf x.rows x.outStride (elemBytes x.fmtOut x.cols))

/-- Widen one element into binary32 (R276). -/
def widenElem (f : EFmt) (scale code : Nat) : FV :=
  round32 (if f.block then blockVal (f.val code) scale else if f.scaled then (f.val code).scale ((scale : Int) - 127) else f.val code)

/-- Widen a row; `scales` are its block scales (R246, R276). -/
def widenRow (fmt scale cols : Nat) (row scales : Bytes) : List FV :=
  let f := (EFmt.ofCode fmt).getD .e4m3
  let d := row.toArray
  let sc := scales.toArray
  let at_ (i : Nat) : Nat := (d.getD i 0).toNat
  (List.range cols).map (fun i =>
    match f with
    | .e2m1b => widenElem f (sc.getD (i / 32) 0).toNat (if i % 2 = 0 then at_ (i / 2) % 16 else at_ (i / 2) / 16)
    | .m8b => widenElem f (sc.getD (i / 32) 0).toNat (at_ i)
    | .bf16 => widenElem f scale (at_ (2 * i) + 256 * at_ (2 * i + 1))
    | .binary32 => widenElem f scale (leNat [d.getD (4 * i) 0, d.getD (4 * i + 1) 0, d.getD (4 * i + 2) 0, d.getD (4 * i + 3) 0])
    | _ => widenElem f scale (at_ i))

/-- What a vector command has produced so far. -/
structure VAcc where
  writes : List (Nat × Bytes) := []
  num : NumCounts := []
  bits : Nat := 0
  satn : Nat := 0
  wide : Nat := 0
  amax : Option F32 := none
  deriving DecidableEq, Repr, Inhabited

/-- NaN and infinity bits of input or result values (R231). -/
def VAcc.see (v : VAcc) (xs : List F32) : VAcc := { v with bits := xs.foldl (fun a x => a ||| inputBits (fval x)) v.bits }

/-- Widened inputs: their saturations and flushes count in slot 0, and their values show in the status (R231, R276). -/
def VAcc.widened (v : VAcc) (cls : Nat) (xs : List FV) : VAcc :=
  let n (p : RFlags → Bool) := (xs.filter (fun (x : FV) => p x.2)).length
  ({ v with num := numAdd (numAdd v.num cls 0 1 (n (·.sat))) cls 0 2 (n (·.flush)) } : VAcc).see (xs.map (fun (x : FV) => x.1))

/-- Count rounded results in slot 0 (R269, R276). -/
def VAcc.rounded (v : VAcc) (cls : Nat) (xs : List FV) : VAcc :=
  { v with num := numCount v.num cls 0 (xs.map (fun x =>
      { x.2 with nan := (fval x.1).isNan, inf := (fval x.1).isInf })) }

/-- Wide accesses of writing or reading `n` bytes in groups of `g` bytes (R284). -/
def groupAccesses (a n g : Nat) : Nat :=
  (List.range (ceilDiv n (max g 1))).foldl (fun k i => k + wideOf (a + g * i) (min g (n - g * i))) 0

/-- One binary32 side output (R274, R275). -/
def VAcc.auxWrite (v : VAcc) (cls a : Nat) (x : FV) (wideSat : Bool) : VAcc :=
  let v := (v.rounded cls [x]).see [x.1]
  { v with writes := v.writes ++ [(a, leBytes 4 x.1.toNat)], wide := v.wide + wideOf a 4,
           satn := v.satn + b2n (x.2.sat || wideSat) }

/-- Element bytes of codes in an output format (R246). -/
def packCodes (fmt : Nat) (codes : List Nat) : Bytes :=
  if fmt = 4 then
    let a := codes.toArray
    (List.range (codes.length / 2)).map (fun i => BitVec.ofNat 8 (a.getD (2 * i) 0 + 16 * a.getD (2 * i + 1) 0))
  else codes.flatMap (fun x => leBytes ((EFmt.ofCode fmt).getD .e4m3).size x)

/-- Convert a row of results into the output format: block scales, codes and flags (R254, R255, R276). -/
def convertRow (fmt scale : Nat) (xs : List F32) : List Nat × List Nat × List RFlags :=
  let f := (EFmt.ofCode fmt).getD .e4m3
  if f.block then
    (List.range (xs.length / 32)).foldl (fun (a : List Nat × List Nat × List RFlags) i =>
      let r := convertBlock f ((xs.drop (32 * i)).take 32)
      (a.1 ++ [r.1], a.2.1 ++ r.2.1, a.2.2 ++ r.2.2)) ([], [], [])
  else
    let rs := xs.map (convert f (multOf f scale))
    ([], rs.map (·.1), rs.map (·.2))

/-- Results are converted to a format, counted and written at `a`, block scales at `sa` (R231, R274, R276). `wideSat` says for
which outputs an operand saturated when widened. -/
def VAcc.emitAs (v : VAcc) (fmt scale cls a sa : Nat) (xs : List FV) (wideSat : List Bool) : VAcc :=
  let r := convertRow fmt scale (xs.map (·.1))
  let v := (v.rounded cls xs).see (xs.map (·.1))
  let num := if fmt = 6 then v.num else numCount v.num cls ((EFmt.ofCode fmt).getD .e4m3).slot r.2.2
  let sats := List.zipWith (fun (p : FV × Bool) (c : RFlags) => p.1.2.sat || p.2 || c.sat) (List.zip xs wideSat) r.2.2
  let bs := packCodes fmt r.2.1
  let sc := r.1.map (BitVec.ofNat 8)
  { v with writes := v.writes ++ [(a, bs)] ++ (if sc.isEmpty then [] else [(sa, sc)]), num := num,
           satn := v.satn + sats.count true,
           wide := v.wide + groupAccesses a bs.length (elemBytes fmt 256) + groupAccesses sa sc.length 8 }

/-- One output row of the common layout. -/
def VAcc.emit (v : VAcc) (x : VxCmd) (a sa : Nat) (xs : List FV) (wideSat : List Bool) : VAcc :=
  v.emitAs x.fmtOut x.scaleOut x.cls a sa xs wideSat

/-- The end of a command of queue `q`: writes, counts, the status word, the gates and the done count (R231, R270, R274). -/
def State.unitEnd (s : State) (n q : Nat) (v : VAcc) (status inTally outTally extra : Nat) : State :=
  let c := s.core n
  let c := v.writes.foldl (fun (c : Core) w => c.spWrite w.1 w.2) c
  let w := (if v.satn = 0 then 0 else 1) + v.bits % 8 + extra + min v.satn 65535 * 65536
  let c := if status = noOffset then c else c.spWrite status (leBytes 4 w)
  let c := { c.countWide v.wide with numStore := numMerge c.numStore v.num }
  match c.gatePass inTally 1 (engineActor q) true with
  | .inr f => s.endRun n f
  | .inl c =>
    match c.gatePass outTally 1 (engineActor q) false with
    | .inr f => s.endRun n f
    | .inl c => (s.modCore n (fun _ => c)).finishCmd n q

/-- The end of a vector command. -/
def State.vectorEnd (s : State) (n : Nat) (v : VAcc) (status inTally outTally extra : Nat) : State :=
  s.unitEnd n 2 v status inTally outTally extra

/-- Both gates of a vector command are open; the output gate sees the slot that the input gate drains (R274; log 52). -/
def Core.gatesOpen (c : Core) (inTally outTally actor : Nat) : Bool :=
  c.inputOpen inTally 1 &&
    (match c.gatePass inTally 1 actor true with | .inl d => d.outputOpen outTally 1 | .inr _ => true)

/-- A command of the vector unit: checked when taken, held by its gates, its sources read, then its effect (R274, R284,
R332). -/
def State.vector (s : State) (n op : Nat) (clash : Option Clash) (ok : Core → Bytes → Bool) (gates : Bytes → Nat × Nat)
    (ranges : Bytes → List (Nat × Nat)) (body : State → Bytes → State) : State :=
  s.engine n 2 vectorReserved (fun b => byteAt b 0 == op) clash (fun s x =>
    let b := x.bytes
    if !ok (s.core n) b then s.engineRaise n x 0x15
    else if !(s.core n).gatesOpen (gates b).1 (gates b).2 4 then s
    else
      match s.engineReads n 2 (ranges b) with
      | (s, false) => s
      | (s, true) => body s b)

/-- Gates of the common layout (R275). -/
def vxGates (b : Bytes) : Nat × Nat := (byteAt b 10, byteAt b 11)

/-- Rows of an operand as scratchpad ranges. -/
def rowRanges (rows base stride n : Nat) : List (Nat × Nat) := (List.range rows).map (fun r => (base + r * stride, n))

/-- Row `r` of operand A, widened (R275, R276, R282). -/
def Core.rowA (c : Core) (x : VxCmd) (r : Nat) : List FV :=
  widenRow x.fmtA x.scaleA x.cols (c.spRead (x.a + r * x.aStride) (elemBytes x.fmtA x.cols))
    (if blockFmt x.fmtA then c.spRead (x.c + r * (x.cols / 32)) (x.cols / 32) else [])

/-- Row `r` of an operand in format B at a base and stride. -/
def Core.rowB (c : Core) (x : VxCmd) (base stride r : Nat) : List FV :=
  widenRow x.fmtB x.scaleB x.cols (c.spRead (base + r * stride) (elemBytes x.fmtB x.cols)) []

/-- Wide reads of one row of an operand (R284). -/
def rowReads (fmt cols a : Nat) : Nat := groupAccesses a (elemBytes fmt cols) (elemBytes fmt 256)

/-- Operands that a function of R277 takes; 0 for a reserved code. -/
def mapArity (fn : Nat) : Nat :=
  match fn with
  | 0x05 => 3
  | 0x02 | 0x03 | 0x04 | 0x06 | 0x07 | 0x08 | 0x13 => 2
  | 0x01 | 0x09 | 0x0A | 0x0B | 0x0C | 0x0D | 0x0E | 0x0F | 0x10 | 0x11 | 0x12 => 1
  | _ => 0

/-- A value with no rounding, counted as what it is (R277). -/
def plain (x : F32) : FV := (x, {})

/-- The functions of R277 and R278. -/
def mapFn (fn : Nat) (a b c : F32) : FV :=
  match fn with
  | 0x01 => plain a
  | 0x02 => fadd a b
  | 0x03 => fsub a b
  | 0x04 => fmul a b
  | 0x05 => ffma a b c
  | 0x06 => fdiv a b
  | 0x07 => plain (fmax a b)
  | 0x08 => plain (fmin a b)
  | 0x09 => plain (fabs a)
  | 0x0A => plain (fneg a)
  | 0x0B => round32 (fval a).sqrt
  | 0x0C => frsqrt a
  | 0x0D => fdiv 0x3F800000#32 a
  | 0x0E => fexp a
  | 0x0F => ftanh a
  | 0x10 => fsigmoid a
  | 0x11 => fsilu a
  | 0x12 => fgelu a
  | _ => fswiglu a b

/-- B of VX_MAP comes from memory (R275, R277). -/
def VxCmd.memB (x : VxCmd) : Bool := decide (2 ≤ mapArity x.fn) && !bitOf x.flags 0
/-- C of VX_MAP comes from memory (R275, R277). -/
def VxCmd.memC (x : VxCmd) : Bool := decide (3 ≤ mapArity x.fn) && !bitOf x.flags 1

/-- The checks of VX_MAP (R273 to R275, R277). -/
def Core.mapOk (c : Core) (b : Bytes) : Bool :=
  let x := vxCmd b
  let n := mapArity x.fn
  let row := elemBytes x.fmtB x.cols
  c.vxCommon x && n != 0 && elemFmt x.fmtA && elemFmt x.fmtOut && (!bitOf x.flags 0 || decide (2 ≤ n))
    && (!bitOf x.flags 1 || decide (3 ≤ n))
    && (if x.memB || x.memC then elemFmt x.fmtB else x.fmtB == 0 && x.bStride == 0)
    && (if x.memB then c.mayReadRows x.b x.rows x.bStride row else x.b == 0)
    && (if x.memC then multipleOf x.c 32 && c.mayReadRows x.c x.rows x.bStride row else x.c == 0)
    && (x.flags != 0 || x.imm == 0) && x.d == 0 && x.aux == 0 && c.vxOut x

/-- Scratchpad ranges that VX_MAP reads, row by row. -/
def mapRanges (b : Bytes) : List (Nat × Nat) :=
  let x := vxCmd b
  (List.range x.rows).flatMap (fun r =>
    (x.a + r * x.aStride, elemBytes x.fmtA x.cols)
      :: ((if x.memB then [(x.b + r * x.bStride, elemBytes x.fmtB x.cols)] else [])
        ++ (if x.memC then [(x.c + r * x.bStride, elemBytes x.fmtB x.cols)] else [])))

/-- One row of VX_MAP (R277). -/
def Core.mapRow (c : Core) (x : VxCmd) (v : VAcc) (r : Nat) : VAcc :=
  let as := c.rowA x r
  let imm := List.replicate x.cols (plain x.imm)
  let bs := if x.memB then c.rowB x x.b x.bStride r else imm
  let cs := if x.memC then c.rowB x x.c x.bStride r else imm
  let v := v.widened x.cls as
  let v := if x.memB then v.widened x.cls bs else v
  let v := if x.memC then v.widened x.cls cs else v
  let v := if x.flags = 0 then v else v.see [x.imm]
  let ops := List.zip as (List.zip bs cs)
  let v := { v with wide := v.wide + rowReads x.fmtA x.cols (x.a + r * x.aStride)
                      + (if x.memB then rowReads x.fmtB x.cols (x.b + r * x.bStride) else 0)
                      + (if x.memC then rowReads x.fmtB x.cols (x.c + r * x.bStride) else 0) }
  v.emit x (x.out + r * x.outStride) 0 (ops.map (fun o => mapFn x.fn o.1.1 o.2.1.1 o.2.2.1))
    (ops.map (fun o => o.1.2.sat || o.2.1.2.sat || o.2.2.2.sat))

/-- VX_MAP (R277, R278). -/
def execVxMap (core : Nat) (clash : Option Clash) (s : State) : Res :=
  .next (s.vector core 1 clash Core.mapOk vxGates mapRanges (fun s b =>
    let x := vxCmd b
    let v := (List.range x.rows).foldl ((s.core core).mapRow x) {}
    s.vectorEnd core v x.status x.inTally x.outTally 0))

/-- The operation of VX_REDUCE (R279). -/
def redOp (fn : Nat) : Option RedOp :=
  match fn with
  | 1 => some .sum | 2 => some .sumsq | 3 => some .max | 4 => some .min | 5 => some .amax | _ => none

/-- The checks of VX_REDUCE (R273 to R275, R279). -/
def Core.reduceOk (c : Core) (b : Bytes) : Bool :=
  let x := vxCmd b
  c.vxCommon x && (redOp x.fn).isSome && elemFmt x.fmtA && x.fmtB == 0 && x.fmtOut == 0 && x.flags == 0 && x.b == 0
    && x.bStride == 0 && x.c == 0 && x.d == 0 && x.out == 0 && x.outStride == 0 && x.imm == 0 && x.aux != noOffset
    && c.auxOk x.aux (4 * x.rows)

/-- Ranges of operand A alone. -/
def rangesA (b : Bytes) : List (Nat × Nat) := let x := vxCmd b; rowRanges x.rows x.a x.aStride (elemBytes x.fmtA x.cols)

/-- A widened row of A reaches the accumulator of a command. -/
def VAcc.readA (v : VAcc) (x : VxCmd) (r : Nat) (as : List FV) : VAcc :=
  let v := v.widened x.cls as
  { v with wide := v.wide + rowReads x.fmtA x.cols (x.a + r * x.aStride) }

/-- VX_REDUCE (R264, R279). -/
def execVxReduce (core : Nat) (clash : Option Clash) (s : State) : Res :=
  .next (s.vector core 2 clash Core.reduceOk vxGates rangesA (fun s b =>
    let x := vxCmd b
    let v := (List.range x.rows).foldl (fun (v : VAcc) r =>
      let as := (s.core core).rowA x r
      (v.readA x r as).auxWrite x.cls (x.aux + 4 * r) (laneReduce ((redOp x.fn).getD .sum) (as.map (·.1))) (as.any (·.2.sat))) {}
    s.vectorEnd core v x.status x.inTally x.outTally 0))

/-- The checks of VX_NORM (R273 to R275, R280). -/
def Core.normOk (c : Core) (b : Bytes) : Bool :=
  let x := vxCmd b
  let row := elemBytes x.fmtB x.cols
  c.vxCommon x && inRange x.fn 1 2 && elemFmt x.fmtA && elemFmt x.fmtB && elemFmt x.fmtOut && x.flags == 0 && x.b == 0
    && x.bStride == 0 && multipleOf x.c 32 && c.mayRead x.c row
    && (if x.fn = 1 then x.d == 0 else multipleOf x.d 32 && c.mayRead x.d row)
    && (x.aux == noOffset || c.auxOk x.aux (4 * x.rows)) && c.vxOut x

/-- A number as binary32, for the COLS of R280. -/
def fOfNat (n : Nat) : F32 := (round32 (.fin false n 0)).1

/-- A reduction of R279 over values that carry flags. -/
def reduceFV (op : RedOp) (xs : List FV) : FV :=
  let r := laneReduce op (xs.map (·.1))
  (r.1, { r.2 with sat := r.2.sat || xs.any (·.2.sat), flush := r.2.flush || xs.any (·.2.flush) })

/-- One row of R280: the outputs and the reciprocal deviation. -/
def normRow (layer : Bool) (cols : Nat) (eps : F32) (xs gs bs : List F32) : List FV × FV :=
  let n := plain (fOfNat cols)
  let x := xs.map plain
  let d := if layer then let mu := FV.div (reduceFV .sum x) n; x.map (fun y => FV.sub y mu) else x
  let r := FV.map frsqrt (FV.add (FV.div (reduceFV .sumsq d) n) (plain eps))
  let y := List.zipWith (fun y g => FV.mul (FV.mul y r) (plain g)) d gs
  (if layer then List.zipWith (fun y b => FV.add y (plain b)) y bs else y, r)

/-- VX_NORM (R280). -/
def execVxNorm (core : Nat) (clash : Option Clash) (s : State) : Res :=
  .next (s.vector core 3 clash Core.normOk vxGates (fun b =>
      let x := vxCmd b
      rangesA b ++ (x.c, elemBytes x.fmtB x.cols) :: (if x.fn = 2 then [(x.d, elemBytes x.fmtB x.cols)] else [])) (fun s b =>
    let x := vxCmd b
    let c := s.core core
    let layer := x.fn == 2
    let gs := c.rowB x x.c 0 0
    let bs := if layer then c.rowB x x.d 0 0 else []
    let v : VAcc := (({} : VAcc).see [x.imm])
    let v := (List.range x.rows).foldl (fun (v : VAcc) r =>
      let as := c.rowA x r
      let v := ((v.readA x r as).widened x.cls gs).widened x.cls bs
      let v := { v with wide := v.wide + rowReads x.fmtB x.cols x.c + (if layer then rowReads x.fmtB x.cols x.d else 0) }
      let y := normRow layer x.cols x.imm (as.map (·.1)) (gs.map (·.1)) (bs.map (·.1))
      let rowSat := as.any (·.2.sat)
      let ws := (List.range x.cols).map (fun i => rowSat || (gs.getD i (plain 0)).2.sat || (bs.getD i (plain 0)).2.sat)
      let v := v.emit x (x.out + r * x.outStride) 0 y.1 ws
      if x.aux = noOffset then v else v.auxWrite x.cls (x.aux + 4 * r) y.2 rowSat) v
    s.vectorEnd core v x.status x.inTally x.outTally 0))

/-- The checks of VX_SOFTMAX (R273 to R275, R281). -/
def Core.softmaxOk (c : Core) (b : Bytes) : Bool :=
  let x := vxCmd b
  c.vxCommon x && decide (x.fn < 2) && elemFmt x.fmtA && elemFmt x.fmtOut && x.fmtB == 0 && x.flags == 0 && x.b == 0
    && x.bStride == 0 && x.c == 0 && x.d == 0 && (x.aux == noOffset || c.auxOk x.aux (4 * x.rows)) && c.vxOut x

/-- One row of R281: the outputs and the log-sum-exp; all NaN when the maximum is NaN or infinite. -/
def softmaxRow (logs : Bool) (imm : F32) (xs : List F32) : List FV × FV :=
  let x := xs.map (fun y => fmul y imm)
  let m := reduceFV .max x
  if (fval m.1).isNan || (fval m.1).isInf then (xs.map (fun _ => plain 0x7FC00000#32), plain 0x7FC00000#32)
  else
    let d := x.map (fun y => FV.sub y m)
    let p := d.map (FV.map fexp)
    let sum := reduceFV .sum p
    let ln := FV.map fln sum
    (if logs then d.map (fun y => FV.sub y ln) else p.map (fun y => FV.div y sum), FV.add m ln)

/-- VX_SOFTMAX (R281). -/
def execVxSoftmax (core : Nat) (clash : Option Clash) (s : State) : Res :=
  .next (s.vector core 4 clash Core.softmaxOk vxGates rangesA (fun s b =>
    let x := vxCmd b
    let v := (List.range x.rows).foldl (fun (v : VAcc) r =>
      let as := (s.core core).rowA x r
      let y := softmaxRow (x.fn == 1) x.imm (as.map (·.1))
      let rowSat := as.any (·.2.sat)
      let v := (v.readA x r as).emit x (x.out + r * x.outStride) 0 y.1 (List.replicate x.cols rowSat)
      if x.aux = noOffset then v else v.auxWrite x.cls (x.aux + 4 * r) y.2 rowSat) (({} : VAcc).see [x.imm])
    s.vectorEnd core v x.status x.inTally x.outTally 0))

/-- The checks of VX_CONVERT (R273 to R275, R282). -/
def Core.convertOk (c : Core) (b : Bytes) : Bool :=
  let x := vxCmd b
  let scales := x.rows * (x.cols / 32)
  c.vxCommon x && x.fn == 0 && convFmt x.fmtA && convFmt x.fmtOut && x.fmtB == 0 && x.flags == 0 && x.b == 0 && x.bStride == 0
    && x.imm == 0 && (!(blockFmt x.fmtA || blockFmt x.fmtOut) || multipleOf x.cols 32)
    && (if blockFmt x.fmtA then multipleOf x.c 4 && c.mayRead x.c scales else x.c == 0)
    && (if blockFmt x.fmtOut then multipleOf x.d 4 && c.inWork x.d scales else x.d == 0)
    && (x.aux == noOffset || c.auxOk x.aux 4) && c.vxOut x

/-- VX_CONVERT (R254, R255, R282). -/
def execVxConvert (core : Nat) (clash : Option Clash) (s : State) : Res :=
  .next (s.vector core 5 clash Core.convertOk vxGates (fun b =>
      let x := vxCmd b
      rangesA b ++ (if blockFmt x.fmtA then [(x.c, x.rows * (x.cols / 32))] else [])) (fun s b =>
    let x := vxCmd b
    let v := (List.range x.rows).foldl (fun (v : VAcc) r =>
      let as := (s.core core).rowA x r
      let v := v.readA x r as
      let v := if blockFmt x.fmtA then { v with wide := v.wide + groupAccesses (x.c + r * (x.cols / 32)) (x.cols / 32) 8 } else v
      let v := v.emit x (x.out + r * x.outStride) (x.d + r * (x.cols / 32)) (as.map (fun y => plain y.1)) (as.map (·.2.sat))
      let m := (laneReduce .amax (as.map (·.1))).1
      { v with amax := some (match v.amax with | some k => fmax k m | none => m) }) {}
    let v := if x.aux = noOffset then v else v.auxWrite x.cls x.aux (plain (v.amax.getD 0)) false
    s.vectorEnd core v x.status x.inTally x.outTally 0))

/-- A tracker record keeps to R265. -/
def trackerOk (r : Bytes) : Bool :=
  let h := byteAt r 2
  inRange (byteAt r 0) 1 3 && inRange (byteAt r 1) 1 7 && (if bitOf h 7 then bitsOf h 6 4 == 0 else bitsOf h 6 0 == 0)
    && byteAt r 3 != 255 && decide (byteAt r 4 ≤ 16) && decide (byteAt r 5 ≤ 15) && decide (byteAt r 6 < 4) && byteAt r 7 == 0
    && zeroBytes r 48 63

/-- emax of R266. -/
def trackerEmax (fmt : Nat) : Int := if fmt = 1 then 8 else if fmt = 2 then 15 else 6

/-- A tracker record from its changing fields (R265). -/
def trackerBytes (r : Bytes) (scale count head flags steps : Nat) (history : List Nat) : Bytes :=
  sliceBytes (r.take 3 ++ leBytes 1 scale ++ leBytes 1 count ++ leBytes 1 head ++ leBytes 1 flags ++ leBytes 1 0
    ++ leBytes 8 steps ++ history.flatMap (leBytes 2)) 0 64

/-- One scale-tracker step (R266). -/
def trackerStep (r obs : Bytes) : Bytes :=
  let h : Int := if bitOf (byteAt r 2) 7 then (bitsOf (byteAt r 2) 3 0 : Nat) else 1
  let scale := byteAt r 3
  let count := byteAt r 4
  let head := byteAt r 5
  let steps := field r 8 8 + 1
  let hist := (List.range 16).map (fun i => field r (16 + 2 * i) 2)
  let amax := fval (BitVec.ofNat 32 (field obs 0 4))
  if amax.isNan || amax.isInf then trackerBytes r scale count head 2 steps hist
  else if field obs 4 4 ≠ 0 then trackerBytes r (min (scale + 1) 254) 0 0 1 steps (List.replicate 16 0x8000)
  else
    let up := !amax.isNeg && !amax.isZero
    let hist := if up then hist.set head (wrapInt 16 amax.floorLog2) else hist
    let head := if up then (head + 1) % 16 else head
    let count := if up then min (count + 1) 16 else count
    if count = 0 then trackerBytes r scale count head 0 steps hist
    else
      let val (k : Nat) : Int := signedOf 16 (hist.getD ((head + 15 - k) % 16) 0)
      let m := (List.range count).foldl (fun m k => max m (val k)) (val 0)
      let e := 128 + m + h - trackerEmax (byteAt r 0)
      trackerBytes r (max 0 (min e 254)).toNat count head 0 steps hist

/-- The checks of VX_TRACK on its command (R274, R283). -/
def Core.trackOk (c : Core) (b : Bytes) : Bool :=
  zeroBytes b 1 3 && multipleOf (field b 4 4) 64 && multipleOf (field b 8 4) 8 && multipleOf (field b 12 4) 64
    && tallyByteOk (byteAt b 16) && tallyByteOk (byteAt b 17) && zeroBytes b 18 63 && c.mayRead (field b 4 4) 64
    && c.mayRead (field b 8 4) 8 && c.inWork (field b 12 4) 64

/-- VX_TRACK (R265, R266, R283). -/
def execVxTrack (core : Nat) (clash : Option Clash) (s : State) : Res :=
  .next (s.vector core 6 clash Core.trackOk (fun b => (byteAt b 16, byteAt b 17)) (fun b => [(field b 4 4, 64), (field b 8 4, 8)])
    (fun s b =>
      let r := (s.core core).spRead (field b 4 4) 64
      let obs := (s.core core).spRead (field b 8 4) 8
      let dst := field b 12 4
      if !trackerOk r then s.engineRaise core ((s.core core).head 2) 0x15
      else
        s.vectorEnd core { writes := [(dst, trackerStep r obs)], wide := wideOf (field b 4 4) 64 + wideOf (field b 8 4) 8 + wideOf dst 64 }
          noOffset (byteAt b 16) (byteAt b 17) 0))

/-- POS_OFF of a page (R300). -/
def kvPosOff (L eb : Nat) : Nat := roundUp (64 * L * eb + (if eb = 1 then 2 * L else 0)) 256

/-- Bytes of a latent element (R300). -/
def kvElem (fmt : Nat) : Nat := if fmt = 5 then 2 else 1

/-- The parts of page slots [first, first + n) as (offset, bytes): latents, block scales, position parts (R300). -/
def kvParts (fmt L P first n : Nat) : List (Nat × Nat) :=
  let eb := kvElem fmt
  [(first * L * eb, n * L * eb), (64 * L + first * (L / 32), if eb = 1 then n * (L / 32) else 0),
    (kvPosOff L eb + first * P * 2, n * P * 2)]

/-- The checks of VX_KV_PACK (R274, R298, R301). -/
def Core.kvPackOk (c : Core) (b : Bytes) : Bool :=
  let L := field b 2 2
  let P := field b 4 2
  let n := byteAt b 6
  (byteAt b 1 == 5 || byteAt b 1 == 7) && inRange L 32 512 && multipleOf L 32 && decide (P ≤ 128) && multipleOf P 16
    && inRange n 1 64 && decide (byteAt b 7 + n ≤ 64) && multipleOf (field b 8 4) 32 && multipleOf (field b 12 4) 32
    && (P != 0 || field b 12 4 == 0) && multipleOf (field b 16 4) 256 && c.statusOk (field b 20 4) && tallyByteOk (byteAt b 24)
    && tallyByteOk (byteAt b 25) && zeroBytes b 26 63 && c.mayRead (field b 8 4) (4 * L * n)
    && (P == 0 || c.mayRead (field b 12 4) (4 * P * n))
    && (kvParts (byteAt b 1) L P (byteAt b 7) n).all (fun r => r.2 == 0 || c.inWork (field b 16 4 + r.1) r.2)

/-- Words of binary32 data. -/
def f32Words (bs : Bytes) : List F32 :=
  let a := bs.toArray
  (List.range (bs.length / 4)).map (fun i =>
    BitVec.ofNat 32 (leNat [a.getD (4 * i) 0, a.getD (4 * i + 1) 0, a.getD (4 * i + 2) 0, a.getD (4 * i + 3) 0]))

/-- Convert KV values, counted under class KV, and write them (R254, R255, R301). -/
def VAcc.kvConvert (v : VAcc) (fmt a sa : Nat) (xs : List F32) : VAcc :=
  let r := convertRow fmt 127 xs
  let v := v.see xs
  let bs := packCodes fmt r.2.1
  let sc := r.1.map (BitVec.ofNat 8)
  { v with writes := v.writes ++ [(a, bs)] ++ (if sc.isEmpty then [] else [(sa, sc)]),
           num := numCount v.num 7 ((EFmt.ofCode fmt).getD .bf16).slot r.2.2, satn := v.satn + (r.2.2.filter (·.sat)).length,
           wide := v.wide + groupAccesses a bs.length 256 + wideOf sa sc.length }

/-- VX_KV_PACK (R300, R301). -/
def execVxKvPack (core : Nat) (clash : Option Clash) (s : State) : Res :=
  .next (s.vector core 9 clash Core.kvPackOk (fun b => (byteAt b 24, byteAt b 25)) (fun b =>
      [(field b 8 4, 4 * field b 2 2 * byteAt b 6), (field b 12 4, 4 * field b 4 2 * byteAt b 6)]) (fun s b =>
    let fmt := byteAt b 1
    let L := field b 2 2
    let P := field b 4 2
    let img := field b 16 4
    let eb := kvElem fmt
    let c := s.core core
    let v := (List.range (byteAt b 6)).foldl (fun (v : VAcc) k =>
      let slot := byteAt b 7 + k
      let la := field b 8 4 + 4 * L * k
      let pa := field b 12 4 + 4 * P * k
      let v := v.kvConvert fmt (img + slot * L * eb) (img + 64 * L + slot * (L / 32)) (f32Words (c.spRead la (4 * L)))
      let v := v.kvConvert 5 (img + kvPosOff L eb + slot * P * 2) 0 (f32Words (c.spRead pa (4 * P)))
      { v with wide := v.wide + groupAccesses la (4 * L) 1024 + groupAccesses pa (4 * P) 1024 }) {}
    s.vectorEnd core v (field b 20 4) (byteAt b 24) (byteAt b 25) 0))

end Sys2Proof.Machine
end

