-- ==== Sys2Proof/Machine/Attention.lean ====
section
/-! DEFINITION. Attention: scores, masks and running statistics, the fused commands, and the attention unit's walk of a
latent KV sequence (R285 to R307). -/

namespace Sys2Proof.Machine

/-- +0 with no rounding behind it. -/
def fvZero : FV := plain 0
/-- -∞ with no rounding behind it. -/
def fvNegInf : FV := plain 0xFF800000#32

/-- Balanced tree of additions over values padded with +0 to `n` (R260, R291). -/
def paddedTree (n : Nat) (xs : List FV) : FV := treeAdd (xs ++ List.replicate (n - xs.length) fvZero)

/-- Rows of bf16 values. -/
def Core.bf16Row (c : Core) (a n : Nat) : List Val :=
  let bs := (c.spRead a (2 * n)).toArray
  (List.range n).map (fun i => EFmt.bf16.val ((bs.getD (2 * i) 0).toNat + 256 * (bs.getD (2 * i + 1) 0).toNat))

/-- A bf16 forward tree over two vectors, padded to 256 (R260, R286). -/
def tree256 (xs ys : List Val) : FV := paddedTree 256 (List.zipWith (fun t s => round32 (t.mul s)) xs ys)

/-- The bias bucket of a distance (R289). -/
def bucketOf (d : Int) : Nat :=
  let a := d.natAbs
  let b := if a < 64 then a else min 127 (64 + 4 * (a.log2 - 6) + (a >>> (a.log2 - 2)) % 4)
  if 0 ≤ d then b else 128 + b

/-- The score of R286, without a bias when none is used. -/
def scoreOf (q k : List Val) (scale : F32) (bias : Option F32) : FV :=
  let s := FV.mul (tree256 q k) (plain scale)
  match bias with
  | some b => FV.add s (plain b)
  | none => s

/-- Code of tile `i` in a block map (R287). -/
def tileCode (map : Bytes) (i : Nat) : Nat := (byteAt map (i / 4) >>> (2 * (i % 4))) % 4

/-- How many tiles before tile `i` are PARTIAL (R288). -/
def partialIndex (map : Bytes) (i : Nat) : Nat := (List.range i).countP (fun k => tileCode map k == 2)

/-- The code of a tile under a mask kind; without a block map every tile is ALL (R287, R290). -/
def maskCode (kind : Nat) (map : Bytes) (i : Nat) : Nat := if kind % 2 = 1 then tileCode map i else 1

/-- A key of a tile is visible to a row (R287, R288). -/
def visibleIn (code : Nat) (bitmap : Bytes) (row key : Nat) : Bool :=
  code == 1 || (code == 2 && bitOf (byteAt bitmap (row * 16 + key / 8)) (key % 8))

/-- Running statistics of one query row (R291). -/
structure RowStat where
  m : FV := fvNegInf
  l : FV := fvZero
  o : List FV := []
  seen : Bool := false
  deriving DecidableEq, Repr, Inhabited

/-- One key tile of R291: `sc` holds the score of each key, none where it is invisible, and `v` the values of each key. -/
def RowStat.tile (x : RowStat) (dv : Nat) (sc : List (Option FV)) (v : List (List Val)) : RowStat :=
  let big (a b : FV) : FV := (fmax a.1 b.1, a.2.or b.2)
  let mt := treeFold big fvNegInf 8 (sc.map (·.getD fvNegInf) ++ List.replicate (128 - sc.length) fvNegInf)
  let mn := big x.m mt
  let x := { x with seen := x.seen || sc.any (·.isSome) }
  if mn.1 = 0xFF800000#32 then x
  else
    let a := if x.m.1 = 0xFF800000#32 then fvZero else FV.map fexp (FV.sub x.m mn)
    let p := sc.map (fun s => s.map (fun y => FV.map fexp (FV.sub y mn)))
    let l := FV.add (FV.mul a x.l) (paddedTree 128 (p.map (·.getD fvZero)))
    let o := (List.range dv).map (fun d =>
      FV.add (FV.mul a (x.o.getD d fvZero)) (paddedTree 128 (List.zipWith (fun (p : Option FV) (row : List Val) =>
        match p with
        | some y => let r := round32 ((fval y.1).mul (row.getD d .nan)); (r.1, y.2.or r.2)
        | none => fvZero) p v)))
    { x with m := mn, l := l, o := o }

/-- Outputs and log-sum-exp of a row (R291). -/
def RowStat.result (x : RowStat) (dv : Nat) : List FV × FV :=
  if !x.seen then (List.replicate dv fvZero, fvNegInf)
  else ((List.range dv).map (fun d => FV.div (x.o.getD d fvZero) x.l), FV.add x.m (FV.map fln x.l))

/-- Status bits of bf16 inputs (R231). -/
def VAcc.seeVals (v : VAcc) (xs : List Val) : VAcc := { v with bits := xs.foldl (fun a x => a ||| inputBits x) v.bits }

/-- The fields of the fused attention commands (R293). -/
structure AttnCmd where
  bwd : Bool
  mask : Nat
  lseOut : Bool
  outFmt : Nat
  cls : Nat
  d : Nat
  dv : Nat
  scale : F32
  qRows : Nat
  kRows : Nat
  q : Nat
  k : Nat
  v : Nat
  o : Nat
  lse : Nat
  gradO : Nat
  dq : Nat
  dk : Nat
  dval : Nat
  map : Nat
  bitmap : Nat
  bias : Nat
  qPos : Nat
  kPos : Nat
  scratch : Nat
  status : Nat
  inTally : Nat
  outTally : Nat
  deriving DecidableEq, Repr

/-- Read a fused attention command (R293). -/
def attnCmd (b : Bytes) : AttnCmd :=
  { bwd := byteAt b 0 == 8, mask := byteAt b 1 % 4, lseOut := bitOf (byteAt b 1) 2, outFmt := byteAt b 2, cls := byteAt b 3,
    d := field b 4 2, dv := field b 6 2, scale := BitVec.ofNat 32 (field b 8 4), qRows := field b 12 4, kRows := field b 16 4,
    q := field b 20 4, k := field b 24 4, v := field b 28 4, o := field b 32 4, lse := field b 36 4, gradO := field b 40 4,
    dq := field b 44 4, dk := field b 48 4, dval := field b 52 4, map := field b 56 4, bitmap := field b 60 4,
    bias := field b 64 4, qPos := field b 68 4, kPos := field b 72 4, scratch := field b 76 4, status := field b 80 4,
    inTally := byteAt b 84, outTally := byteAt b 85 }

/-- Key tiles of a command. -/
def AttnCmd.keyTiles (a : AttnCmd) : Nat := ceilDiv a.kRows 128
/-- Query tiles of a command. -/
def AttnCmd.queryTiles (a : AttnCmd) : Nat := ceilDiv a.qRows 128
/-- Bytes of the block map (R287). -/
def AttnCmd.mapBytes (a : AttnCmd) : Nat := ceilDiv (a.queryTiles * a.keyTiles) 4
/-- Bytes of a row of O (R293). -/
def AttnCmd.oBytes (a : AttnCmd) : Nat := elemBytes a.outFmt a.dv
/-- Query rows of tile `t`. -/
def AttnCmd.rowsIn (a : AttnCmd) (t : Nat) : Nat := min 128 (a.qRows - 128 * t)
/-- Keys of tile `t`. -/
def AttnCmd.keysIn (a : AttnCmd) (t : Nat) : Nat := min 128 (a.kRows - 128 * t)
/-- Bytes of SCRATCH (R293). -/
def AttnCmd.scratchBytes (a : AttnCmd) : Nat := if a.bwd then 196608 else 131072

/-- The checks of a fused attention command when it is taken (R274, R293). -/
def Core.attnOk (c : Core) (b : Bytes) : Bool :=
  let a := attnCmd b
  let data (x n : Nat) := multipleOf x 32 && c.mayRead x n
  let outp (x n : Nat) := multipleOf x 32 && c.inWork x n
  decide (byteAt b 1 < 8) && (a.outFmt == 5 || a.outFmt == 6) && decide (a.cls < 8) && inRange a.d 16 256 && multipleOf a.d 16
    && inRange a.dv 16 256 && multipleOf a.dv 16 && inRange a.qRows 1 1048576 && inRange a.kRows 1 1048576
    && data a.q (2 * a.d * a.qRows) && data a.k (2 * a.d * a.kRows) && data a.v (2 * a.dv * a.kRows)
    && (if a.bwd then
          data a.o (a.oBytes * a.qRows) && data a.lse (4 * a.qRows) && data a.gradO (2 * a.dv * a.qRows)
            && outp a.dq (4 * a.d * a.qRows) && outp a.dk (4 * a.d * a.kRows) && outp a.dval (4 * a.dv * a.kRows)
        else
          outp a.o (a.oBytes * a.qRows) && (!a.lseOut || outp a.lse (4 * a.qRows)) && a.gradO == 0 && a.dq == 0 && a.dk == 0
            && a.dval == 0)
    && (a.mask % 2 == 0 || (data a.map a.mapBytes && multipleOf a.bitmap 32)) && (a.mask < 2 || data a.bias 512)
    && multipleOf a.scratch 256 && c.inWork a.scratch a.scratchBytes && c.statusOk a.status && tallyByteOk a.inTally
    && tallyByteOk a.outTally && zeroBytes b 86 127

/-- The MATRIX done count has reached the issued count recorded at the fused command's ISSUE (R295). -/
def Core.matrixReached (c : Core) (x : QCmd) : Bool :=
  let q := c.queue 1
  decide ((q.issued - q.done).toNat ≤ (q.issued - x.matrixIssued).toNat)

/-- Tiles in the order of a command as (query tile, key tile): forward by query tile, backward by key tile (R291, R294). -/
def AttnCmd.tiles (a : AttnCmd) : List (Nat × Nat) :=
  if a.bwd then (List.range a.keyTiles).flatMap (fun kt => (List.range a.queryTiles).map (fun qt => (qt, kt)))
  else (List.range a.queryTiles).flatMap (fun qt => (List.range a.keyTiles).map (fun kt => (qt, kt)))

/-- Scratchpad ranges that a tile reads (R287, R288, R293). -/
def AttnCmd.tileRanges (a : AttnCmd) (map : Bytes) (qt kt : Nat) : List (Nat × Nat) :=
  let i := qt * a.keyTiles + kt
  (if maskCode a.mask map i = 2 then [(a.bitmap + 2048 * partialIndex map i, 2048)] else [])
    ++ [(a.q + 256 * a.d * qt, 2 * a.d * a.rowsIn qt), (a.k + 256 * a.d * kt, 2 * a.d * a.keysIn kt),
        (a.v + 256 * a.dv * kt, 2 * a.dv * a.keysIn kt)]
    ++ (if a.bwd then [(a.lse + 512 * qt, 4 * a.rowsIn qt)] else [])

/-- The engine reaches a tile: a reserved code is COMMAND_INVALID, NONE reads nothing (R287, R288, R332). -/
def State.attnTile (s : State) (n : Nat) (x : QCmd) (a : AttnCmd) (map : Bytes) (t : Nat × Nat) : State × Bool :=
  let i := t.1 * a.keyTiles + t.2
  let code := maskCode a.mask map i
  if code = 3 then (s.engineRaise n x 0x15, false)
  else if code = 0 then (s, true)
  else if code = 2 && !(s.core n).mayRead (a.bitmap + 2048 * partialIndex map i) 2048 then (s.engineRaise n x 0x15, false)
  else
    let rs := a.tileRanges map t.1 t.2
    (s.modCore n (fun c => c.countWide (rs.foldl (fun k r => k + wideOf r.1 r.2) 0))).engineReads n 2 rs

/-- Everything a fused command reads, in order; false when the run has ended (R287, R332). -/
def State.attnReads (s : State) (n : Nat) (x : QCmd) (a : AttnCmd) (map : Bytes) : State × Bool :=
  let first := (if a.mask % 2 = 1 then [(a.map, a.mapBytes)] else []) ++ (if a.mask < 2 then [] else [(a.bias, 512)])
    ++ (if a.bwd then [(a.gradO, 2 * a.dv * a.qRows), (a.o, a.oBytes * a.qRows)] else [])
  a.tiles.foldl (fun (acc : State × Bool) t => if acc.2 then acc.1.attnTile n x a map t else acc)
    ((s.modCore n (fun c => c.countWide (first.foldl (fun k r => k + wideOf r.1 r.2) 0))).engineReads n 2 first)

/-- What the rows of a fused command read from the scratchpad. -/
structure AttnData where
  map : Bytes
  q : Array (List Val)
  k : Array (List Val)
  v : Array (List Val)

/-- Read the operands of a fused command. -/
def Core.attnData (c : Core) (a : AttnCmd) : AttnData :=
  { map := if a.mask % 2 = 1 then c.spRead a.map a.mapBytes else [],
    q := ((List.range a.qRows).map (fun r => c.bf16Row (a.q + 2 * a.d * r) a.d)).toArray,
    k := ((List.range a.kRows).map (fun r => c.bf16Row (a.k + 2 * a.d * r) a.d)).toArray,
    v := ((List.range a.kRows).map (fun r => c.bf16Row (a.v + 2 * a.dv * r) a.dv)).toArray }

/-- Entry `b` of a bias table at `a`, as binary32 (R289). -/
def Core.biasEntry (c : Core) (a b : Nat) : F32 := BitVec.ofNat 32 (field (c.spRead (a + 2 * b) 2) 0 2 * 65536)

/-- The score of query row `r` and key `j` of a fused command (R286, R289, R293). -/
def Core.attnScore (c : Core) (a : AttnCmd) (x : AttnData) (r j : Nat) : FV :=
  scoreOf (x.q.getD r []) (x.k.getD j []) a.scale
    (if a.mask < 2 then none else some (c.biasEntry a.bias (bucketOf (((a.qPos + r : Nat) : Int) - ((a.kPos + j : Nat) : Int)))))

/-- Key `j` is visible to row `r` in a fused command (R287, R288). -/
def Core.attnVisible (c : Core) (a : AttnCmd) (x : AttnData) (r j : Nat) : Bool :=
  let i := r / 128 * a.keyTiles + j / 128
  let code := maskCode a.mask x.map i
  visibleIn code (if code = 2 then c.spRead (a.bitmap + 2048 * partialIndex x.map i) 2048 else []) (r % 128) (j % 128)

/-- A tile is mapped NONE. -/
def AttnCmd.noTile (a : AttnCmd) (x : AttnData) (qt kt : Nat) : Bool := maskCode a.mask x.map (qt * a.keyTiles + kt) == 0

/-- Values that a command read, for the status word (R231). -/
def AttnCmd.seen (a : AttnCmd) (x : AttnData) : VAcc :=
  a.tiles.foldl (fun (v : VAcc) t =>
    if a.noTile x t.1 t.2 then v
    else
      let rows (m : Array (List Val)) (t n : Nat) := (List.range n).flatMap (fun i => m.getD (128 * t + i) [])
      v.seeVals (rows x.q t.1 (a.rowsIn t.1) ++ rows x.k t.2 (a.keysIn t.2) ++ rows x.v t.2 (a.keysIn t.2))) {}

/-- The statistics of one query row over its key tiles (R291). -/
def Core.attnRow (c : Core) (a : AttnCmd) (x : AttnData) (r : Nat) : RowStat :=
  (List.range a.keyTiles).foldl (fun (st : RowStat) kt =>
    if a.noTile x (r / 128) kt then st
    else
      let keys := (List.range (a.keysIn kt)).map (· + 128 * kt)
      st.tile a.dv (keys.map (fun j => if c.attnVisible a x r j then some (c.attnScore a x r j) else none))
        (keys.map (fun j => x.v.getD j []))) {}

/-- Write a row of a command's outputs; no operand of these is scaled. -/
def VAcc.row (v : VAcc) (fmt cls a : Nat) (xs : List FV) : VAcc := v.emitAs fmt 127 cls a 0 xs (List.replicate xs.length false)

/-- The end of a fused command: both tile slots empty, SCRATCH holding values that the spec does not state, its wide accesses
to SCRATCH a free count (R293, R295, R296; log 53). -/
def State.fusedEnd (s : State) (n : Nat) (a : AttnCmd) (v : VAcc) (extra : Nat) : State :=
  let (bs, s) := s.freeBytes a.scratchBytes
  let (k, s) := s.draw
  let s := s.modCore n (fun c =>
    { (c.spWrite a.scratch bs).countWide (Config.freeNat k) with slot0 := {}, slot1 := {} })
  s.vectorEnd n v a.status a.inTally a.outTally extra

/-- The frame of a fused attention command (R274, R293, R295). -/
def State.fused (s : State) (n op : Nat) (clash : Option Clash) (body : State → AttnCmd → AttnData → State) : State :=
  s.engine n 2 vectorReserved (fun b => byteAt b 0 == op) clash (fun s x =>
    let a := attnCmd x.bytes
    let c := s.core n
    if !c.attnOk x.bytes then s.engineRaise n x 0x15
    else if !c.matrixReached x || !c.gatesOpen a.inTally a.outTally 4 then s
    else
      match s.attnReads n x a (if a.mask % 2 = 1 then c.spRead a.map a.mapBytes else []) with
      | (s, false) => s
      | (s, true) => body s a ((s.core n).attnData a))

/-- VX_ATTN_FWD (R286 to R293, R295). -/
def execVxAttnFwd (core : Nat) (clash : Option Clash) (s : State) : Res :=
  .next (s.fused core 7 clash (fun s a x =>
    let c := s.core core
    let r := (List.range a.qRows).foldl (fun (acc : VAcc × Bool) r =>
      let st := c.attnRow a x r
      let y := st.result a.dv
      let v := acc.1.row a.outFmt a.cls (a.o + a.oBytes * r) y.1
      (if a.lseOut then v.row 6 a.cls (a.lse + 4 * r) [y.2] else v, acc.2 || !st.seen))
      ((if a.mask < 2 then a.seen x else (a.seen x).see ((List.range 256).map (c.biasEntry a.bias))), false)
    s.fusedEnd core a r.1 (if r.2 then 8 else 0)))

/-- Change rows [lo, lo + n) of a matrix. -/
def modRows {α : Type} (l : List α) (lo n : Nat) (f : Nat → α → α) : List α :=
  (List.zip (List.range l.length) l).map (fun x => if lo ≤ x.1 ∧ x.1 < lo + n then f (x.1 - lo) x.2 else x.2)

/-- The gradients of the backward pass so far (R294). -/
structure Grad where
  dq : List (List FV)
  dk : List (List FV)
  dval : List (List FV)
  deriving DecidableEq, Repr

/-- A value of a matrix row as a value with flags. -/
def fvOfVal (v : Val) : FV := plain (round32 v).1

/-- One tile of R294: p and ds of each query row and key, then the three updates. -/
def Core.gradTile (c : Core) (a : AttnCmd) (x : AttnData) (dO : Array (List Val)) (dd lse : Array FV) (g : Grad) (qt kt : Nat) :
    Grad :=
  let rows := (List.range (a.rowsIn qt)).map (· + 128 * qt)
  let keys := (List.range (a.keysIn kt)).map (· + 128 * kt)
  let pds := (rows.map (fun r => (keys.map (fun j =>
    let l := lse.getD r fvZero
    let p := if c.attnVisible a x r j && l.1 != 0xFF800000#32 then FV.map fexp (FV.sub (c.attnScore a x r j) l) else fvZero
    let dp := tree256 (dO.getD r []) (x.v.getD j [])
    (p, FV.mul p (FV.sub dp (dd.getD r fvZero))))).toArray)).toArray
  let at_ (r j : Nat) : FV × FV := (pds.getD r #[]).getD j (fvZero, fvZero)
  let elem (m : Array (List Val)) (r d : Nat) : FV := fvOfVal ((m.getD r []).getD d .nan)
  let nr := a.rowsIn qt
  let nk := a.keysIn kt
  let scaled (y : FV) : FV := FV.mul (plain a.scale) y
  { dval := modRows g.dval (128 * kt) nk (fun j row => List.zipWith (fun d y => FV.add y (paddedTree 128 ((List.range nr).map
      (fun r => FV.mul (at_ r j).1 (elem dO (128 * qt + r) d))))) (List.range a.dv) row),
    dk := modRows g.dk (128 * kt) nk (fun j row => List.zipWith (fun d y => FV.add y (scaled (paddedTree 128 ((List.range nr).map
      (fun r => FV.mul (at_ r j).2 (elem x.q (128 * qt + r) d)))))) (List.range a.d) row),
    dq := modRows g.dq (128 * qt) nr (fun r row => List.zipWith (fun d y => FV.add y (scaled (paddedTree 128 ((List.range nk).map
      (fun j => FV.mul (at_ r j).2 (elem x.k (128 * kt + j) d)))))) (List.range a.d) row) }

/-- Row `r` of the backward pass's O, as values (R293). -/
def Core.oRow (c : Core) (a : AttnCmd) (r : Nat) : List Val :=
  let at_ := a.o + a.oBytes * r
  if a.outFmt = 5 then c.bf16Row at_ a.dv else (f32Words (c.spRead at_ (4 * a.dv))).map fval

/-- VX_ATTN_BWD (R293 to R295). -/
def execVxAttnBwd (core : Nat) (clash : Option Clash) (s : State) : Res :=
  .next (s.fused core 8 clash (fun s a x =>
    let c := s.core core
    let dO := ((List.range a.qRows).map (fun r => c.bf16Row (a.gradO + 2 * a.dv * r) a.dv)).toArray
    let lse := (f32Words (c.spRead a.lse (4 * a.qRows))).map plain
    let os := (List.range a.qRows).map (fun r => c.oRow a r)
    let dd := ((List.zip (List.range a.qRows) os).map (fun p => tree256 (dO.getD p.1 []) p.2)).toArray
    let zeros (n d : Nat) := List.replicate n (List.replicate d fvZero)
    let g := a.tiles.foldl (fun (g : Grad) t =>
      if a.noTile x t.1 t.2 then g else c.gradTile a x dO dd lse.toArray g t.1 t.2)
      { dq := zeros a.qRows a.d, dk := zeros a.kRows a.d, dval := zeros a.kRows a.dv }
    let v := ((a.seen x).seeVals (os.flatten ++ dO.toList.flatten)).see (lse.map (·.1))
    let v := if a.mask < 2 then v else v.see ((List.range 256).map (c.biasEntry a.bias))
    let out (v : VAcc) (base w : Nat) (m : List (List FV)) : VAcc :=
      (List.zip (List.range m.length) m).foldl (fun (v : VAcc) p => v.row 6 a.cls (base + 4 * w * p.1) p.2) v
    let none_ := (List.range a.qRows).any (fun r => (List.range a.kRows).all (fun j => !c.attnVisible a x r j))
    s.fusedEnd core a (out (out (out v a.dq a.d g.dq) a.dk a.d g.dk) a.dval a.dv g.dval) (if none_ then 8 else 0)))

/-- The fields of AT_ATTEND (R303). -/
structure AttendCmd where
  mask : Nat
  lseOut : Bool
  heads : Nat
  queries : Nat
  outFmt : Nat
  cls : Nat
  dn : Nat
  dp : Nat
  dv : Nat
  latent : Nat
  scale : F32
  handle : Nat
  q : Nat
  uk : Nat
  uv : Nat
  out : Nat
  lse : Nat
  map : Nat
  bitmap : Nat
  bias : Nat
  qPos : Nat
  status : Nat
  inTally : Nat
  outTally : Nat
  deriving DecidableEq, Repr

/-- Read AT_ATTEND (R303). -/
def attendCmd (b : Bytes) : AttendCmd :=
  { mask := byteAt b 1 % 4, lseOut := bitOf (byteAt b 1) 2, heads := byteAt b 2, queries := byteAt b 3, outFmt := byteAt b 4,
    cls := byteAt b 5, dn := field b 6 2, dp := field b 8 2, dv := field b 10 2, latent := field b 12 2,
    scale := BitVec.ofNat 32 (field b 16 4), handle := field b 20 8, q := field b 28 4, uk := field b 32 4, uv := field b 36 4,
    out := field b 40 4, lse := field b 44 4, map := field b 48 4, bitmap := field b 52 4, bias := field b 56 4,
    qPos := field b 60 4, status := field b 64 4, inTally := byteAt b 68, outTally := byteAt b 69 }

/-- Query rows of the command (R303). -/
def AttendCmd.rows (a : AttendCmd) : Nat := a.heads * a.queries
/-- Width of a query row (R303). -/
def AttendCmd.width (a : AttendCmd) : Nat := a.dn + a.dp
/-- Bytes of an output row (R303). -/
def AttendCmd.oBytes (a : AttendCmd) : Nat := elemBytes a.outFmt a.dv

/-- The checks of AT_ATTEND when it is taken (R274, R285, R303). -/
def Core.attendOk (c : Core) (b : Bytes) : Bool :=
  let a := attendCmd b
  c.cls != 1 && decide (byteAt b 1 < 8) && inRange a.heads 1 16 && inRange a.queries 1 128 && decide (a.rows ≤ 128)
    && (a.outFmt == 5 || a.outFmt == 6) && decide (a.cls < 8) && inRange a.dn 16 256 && multipleOf a.dn 16
    && decide (a.width ≤ 256) && inRange a.dv 16 256 && multipleOf a.dv 16 && zeroBytes b 14 15 && multipleOf a.handle 16
    && decide (a.handle < 2 ^ 48) && multipleOf a.q 32 && c.mayRead a.q (2 * a.rows * a.width) && multipleOf a.uk 32
    && c.inPillars a.uk (2 * a.heads * a.latent * a.dn) && multipleOf a.uv 32
    && c.inPillars a.uv (2 * a.heads * a.latent * a.dv) && multipleOf a.out 32 && c.inWork a.out (a.rows * a.oBytes)
    && (!a.lseOut || (multipleOf a.lse 32 && c.inWork a.lse (4 * a.rows)))
    && (a.mask % 2 == 0 || (multipleOf a.map 32 && multipleOf a.bitmap 32))
    && (a.mask < 2 || (multipleOf a.bias 32 && c.mayRead a.bias (512 * a.heads))) && c.statusOk a.status
    && tallyByteOk a.inTally && tallyByteOk a.outTally && zeroBytes b 70 127

/-- Device memory as the attention unit reads it: the bytes, or the cause that ends the run (R158, R304, R371). -/
def State.attnRead (s : State) (n va len : Nat) : State × (Bytes ⊕ Cause) :=
  match s.xlateRange n (s.core n).part va len false with
  | (s, .inr (sub, at_)) => (s, .inr (.xlat sub at_ 5))
  | (s, .inl ps) =>
    let s := s.touchPieces ps
    if s.poisonedPieces ps then (s, .inr .poison) else (s, .inl (s.readPieces ps))

/-- The sequence that a handle and its root give (R297, R298). -/
structure Sequence where
  root : Nat
  gen : Nat
  tokens : Nat
  fmt : Nat
  latent : Nat
  p : Nat
  pgroups : Nat
  deriving DecidableEq, Repr, Inhabited

/-- The root's fields keep to R298 and agree with the command (R303, R305). -/
def rootOk (a : AttendCmd) (r : Bytes) : Bool :=
  let L := field r 8 2
  let P := field r 10 2
  let g := byteAt r 13
  field r 0 4 == 0x4C584B56 && inRange L 32 512 && multipleOf L 32 && decide (P ≤ 128) && multipleOf P 16
    && (byteAt r 12 == 5 || byteAt r 12 == 7) && (g == 1 || g == 2 || g == 4 || g == 8) && multipleOf P (16 * g)
    && zeroBytes r 14 63 && L == a.latent && P / g == a.dp

/-- Steps 1 and 2 of R304. -/
def State.attendRoot (s : State) (n : Nat) (a : AttendCmd) : State × (Sequence ⊕ Cause) :=
  match s.attnRead n a.handle 16 with
  | (s, .inr f) => (s, .inr f)
  | (s, .inl h) =>
    let root := field h 0 8
    let bad (k : Nat) : Cause := .kvTable k a.handle
    if root % 4096 ≠ 0 ∨ 2 ^ 48 ≤ root ∨ 2032128 < field h 12 4 then (s, .inr (bad 3))
    else
      match s.attnRead n root 64 with
      | (s, .inr f) => (s, .inr f)
      | (s, .inl r) =>
        if field r 4 4 ≠ field h 8 4 then (s, .inr (bad 1))
        else if !rootOk a r then (s, .inr (bad 3))
        else (s, .inl { root := root, gen := field h 8 4, tokens := field h 12 4, fmt := byteAt r 12, latent := field r 8 2,
                        p := field r 10 2, pgroups := byteAt r 13 })

/-- One token as the attention unit reads it: its latent, widened, and its position part (R300, R302). -/
structure Token where
  c : List FV
  pos : List Val
  deriving DecidableEq, Repr, Inhabited

/-- Tokens of a page from its parts (R300, R302). -/
def pageTokens (q : Sequence) (cnt : Nat) (lat sc pos : Bytes) : List Token :=
  let w := q.latent * kvElem q.fmt
  (List.range cnt).map (fun s =>
    { c := widenRow q.fmt 127 q.latent (sliceBytes lat (s * w) w) (sliceBytes sc (s * (q.latent / 32)) (q.latent / 32)),
      pos := (List.range q.p).map (fun i => EFmt.bf16.val (field pos (2 * (s * q.p + i)) 2)) })

/-- Read page `pg` of a sequence: its table block, its page entry and the bytes of its first `cnt` tokens, with the block's address
(R299, R300, R304). -/
def State.attendPage (s : State) (n : Nat) (a : AttendCmd) (q : Sequence) (pg cnt : Nat) : State × ((Nat × List Token) ⊕ Cause) :=
  let bad (k : Nat) : Cause := .kvTable k a.handle
  match s.attnRead n (q.root + 64 + 8 * (pg / 63)) 8 with
  | (s, .inr f) => (s, .inr f)
  | (s, .inl e) =>
    let blk := leNat e
    if blk % 512 ≠ 0 ∨ 2 ^ 48 ≤ blk then (s, .inr (bad 3))
    else
      match s.attnRead n blk 8 with
      | (s, .inr f) => (s, .inr f)
      | (s, .inl h) =>
        if field h 0 4 ≠ q.gen then (s, .inr (bad 2))
        else if field h 4 4 ≠ 0 then (s, .inr (bad 3))
        else
          match s.attnRead n (blk + 8 + 8 * (pg % 63)) 8 with
          | (s, .inr f) => (s, .inr f)
          | (s, .inl e) =>
            let page := leNat e
            if page % 256 ≠ 0 ∨ 2 ^ 48 ≤ page then (s, .inr (bad 3))
            else
              let ps := kvParts q.fmt q.latent q.p 0 cnt
              let r := ps.foldl (fun (acc : State × (List Bytes ⊕ Cause)) part =>
                match acc with
                | (s, .inr f) => (s, .inr f)
                | (s, .inl bs) =>
                  if part.2 = 0 then (s, .inl (bs ++ [[]]))
                  else
                    match s.attnRead n (page + part.1) part.2 with
                    | (s, .inl b) => (s, .inl (bs ++ [b]))
                    | (s, .inr f) => (s, .inr f)) (s, .inl [])
              match r with
              | (s, .inr f) => (s, .inr f)
              | (s, .inl bs) => (s, .inl (blk, pageTokens q cnt (bs.getD 0 []) (bs.getD 1 []) (bs.getD 2 [])))

/-- Tokens of key tile `t` that lie below TOKENS (R304). -/
def Sequence.tileTokens (q : Sequence) (t : Nat) : Nat := min 128 (q.tokens - 128 * t)

/-- Read the tokens of a key tile, in at most two pages, with the addresses of their blocks (R304). -/
def State.attendTokens (s : State) (n : Nat) (a : AttendCmd) (q : Sequence) (t : Nat) : State × ((List Nat × List Token) ⊕ Cause) :=
  let cnt := q.tileTokens t
  match s.attendPage n a q (2 * t) (min 64 cnt) with
  | (s, .inr f) => (s, .inr f)
  | (s, .inl xs) =>
    if cnt ≤ 64 then (s, .inl ([xs.1], xs.2))
    else
      match s.attendPage n a q (2 * t + 1) (cnt - 64) with
      | (s, .inr f) => (s, .inr f)
      | (s, .inl ys) => (s, .inl ([xs.1, ys.1], xs.2 ++ ys.2))

/-- Scratchpad ranges that the first computed tile reads (R302, R303). -/
def AttendCmd.firstRanges (a : AttendCmd) : List (Nat × Nat) :=
  [(a.q, 2 * a.rows * a.width), (a.uk, 2 * a.heads * a.latent * a.dn), (a.uv, 2 * a.heads * a.latent * a.dv)]
    ++ (if a.mask < 2 then [] else [(a.bias, 512 * a.heads)])

/-- Step 3 of R304 over the key tiles, with the scratchpad reads of step 4; the tiles read, each with its blocks' addresses and its
tokens, or none when the run has ended. -/
def State.attendTiles (n : Nat) (x : QCmd) (a : AttendCmd) (q : Sequence) (map : Bytes) :
    List Nat → Bool → State → List (Nat × List Nat × List Token) → State × Option (List (Nat × List Nat × List Token))
  | [], _, s, acc => (s, some acc)
  | t :: ts, first, s, acc =>
    let code := maskCode a.mask map t
    if code = 0 then State.attendTiles n x a q map ts first s acc
    else if code = 3 then (s.engineRaise n x 0x15, none)
    else
      let bm := (a.bitmap + 2048 * partialIndex map t, 2048)
      if code = 2 && !(s.core n).mayRead bm.1 bm.2 then (s.engineRaise n x 0x15, none)
      else
        match s.attendTokens n a q t with
        | (s, .inr f) => (s.endRun n f, none)
        | (s, .inl xs) =>
          let rs := (if first then a.firstRanges else []) ++ (if code = 2 then [bm] else [])
          match (s.modCore n (fun c => c.countWide (rs.foldl (fun k r => k + wideOf r.1 r.2) 0))).engineReads n 3 rs with
          | (s, false) => (s, none)
          | (s, true) => State.attendTiles n x a q map ts false s (acc ++ [(t, xs)])

/-- The least power of two that is at least `n`, for the trees of R302. -/
def pow2Above (n : Nat) : Nat := if n ≤ 1 then 1 else 2 ^ ((n - 1).log2 + 1)

/-- An expanded row: bf16 of the tree over the latent for each of `w` columns of a matrix of L rows (R302). -/
def expandRow (L w : Nat) (c : Array F32) (u : Array Val) : List Val :=
  (List.range w).map (fun d =>
    let y := paddedTree (pow2Above L) ((List.range L).map (fun i => round32 ((fval (c.getD i 0)).mul (u.getD (i * w + d) .nan))))
    EFmt.bf16.val (convert .bf16 0 y.1).1)

/-- Head `h`'s key and value of a token (R302). -/
def Core.expandToken (c : Core) (a : AttendCmd) (q : Sequence) (h : Nat) (x : Token) : List Val × List Val :=
  let L := q.latent
  let lat := (x.c.map (·.1)).toArray
  let uk := (c.bf16Row (a.uk + 2 * h * L * a.dn) (L * a.dn)).toArray
  let uv := (c.bf16Row (a.uv + 2 * h * L * a.dv) (L * a.dv)).toArray
  let w := q.p / q.pgroups
  (expandRow L a.dn lat uk ++ (x.pos.drop (h % q.pgroups * w)).take w, expandRow L a.dv lat uv)

/-- The statistics of query row `r` over the tiles read (R286, R291, R303). -/
def Core.attendRow (c : Core) (a : AttendCmd) (q : Sequence) (map : Bytes) (tiles : List (Nat × List Token)) (r : Nat) : RowStat :=
  let h := r / a.queries
  let row := c.bf16Row (a.q + 2 * a.width * r) a.width
  tiles.foldl (fun (st : RowStat) t =>
    let code := maskCode a.mask map t.1
    let bm := if code = 2 then c.spRead (a.bitmap + 2048 * partialIndex map t.1) 2048 else []
    let kvs := t.2.map (c.expandToken a q h)
    let score (j : Nat) (k : List Val) : FV :=
      scoreOf row k a.scale (if a.mask < 2 then none
        else some (c.biasEntry (a.bias + 512 * h)
          (bucketOf (((a.qPos + r % a.queries : Nat) : Int) - ((128 * t.1 + j : Nat) : Int)))))
    st.tile a.dv ((List.zip (List.range kvs.length) kvs).map (fun p =>
      if visibleIn code bm r p.1 then some (score p.1 p.2.1) else none)) (kvs.map (·.2))) {}

/-- Steps 1 to 4 of R304: the tree is read and the results are formed; none of them is written yet. -/
def State.attendTake (s : State) (n : Nat) (x : QCmd) (a : AttendCmd) : State :=
  match s.attendRoot n a with
  | (s, .inr f) => s.endRun n f
  | (s, .inl q) =>
    let nt := ceilDiv q.tokens 128
    let mapLen := if a.mask % 2 = 1 then ceilDiv nt 4 else 0
    if mapLen ≠ 0 ∧ !(s.core n).mayRead a.map mapLen then s.engineRaise n x 0x15
    else
      match (s.modCore n (fun c => c.countWide (wideOf a.map mapLen))).engineReads n 3 [(a.map, mapLen)] with
      | (s, false) => s
      | (s, true) =>
        let map := (s.core n).spRead a.map mapLen
        match State.attendTiles n x a q map (List.range nt) true s [] with
        | (s, none) => s
        | (s, some read) =>
          let c := s.core n
          let tiles := read.map (fun t => (t.1, t.2.2))
          let v : VAcc := tiles.foldl (fun (v : VAcc) t => t.2.foldl (fun (v : VAcc) k => (v.widened a.cls k.c).seeVals k.pos) v) {}
          let v := if tiles.isEmpty then v
            else a.firstRanges.foldl (fun (v : VAcc) r => v.seeVals (c.bf16Row r.1 (r.2 / 2))) v
          let r := (List.range a.rows).foldl (fun (acc : VAcc × Bool) r =>
            let st := c.attendRow a q map tiles r
            let y := st.result a.dv
            let v := acc.1.row a.outFmt a.cls (a.out + a.oBytes * r) y.1
            (if a.lseOut then v.row 6 a.cls (a.lse + 4 * r) [y.2] else v, acc.2 || !st.seen)) (v, false)
          let held : AttendHeld :=
            { writes := r.1.writes, num := r.1.num, bits := r.1.bits % 8 + (if r.2 then 8 else 0), satn := r.1.satn, wide := r.1.wide,
              root := q.root, gen := q.gen, blocks := read.foldl (fun l t => t.2.1.foldl (fun l b => if l.contains b then l else l ++ [b]) l) [] }
          s.modCore n (fun c => { c with attend := some held })

/-- Step 5 of R304: the root header and every block used are read again, and each GEN is checked; the cause of the first failure. -/
def State.attendRecheck (s : State) (n : Nat) (a : AttendCmd) (h : AttendHeld) : State × Option Cause :=
  ((h.root, 64, 4, 1) :: h.blocks.map (fun b => (b, 8, 0, 2))).foldl (fun (acc : State × Option Cause) r =>
    match acc with
    | (s, some f) => (s, some f)
    | (s, none) =>
      match s.attnRead n r.1 r.2.1 with
      | (s, .inr f) => (s, some f)
      | (s, .inl b) => (s, if field b r.2.2.1 4 = h.gen then none else some (.kvTable r.2.2.2 a.handle))) (s, none)

/-- AT_ATTEND: a first step takes the command and does steps 1 to 4 of R304, and a second one steps 5 and 6; a table edit between
the two is met by step 5 (R302 to R305, R307; log 54). -/
def execAtAttend (core : Nat) (clash : Option Clash) (s : State) : Res :=
  .next (s.engine core 3 (fun b => byteAt b 0 != 1) (fun _ => true) clash (fun s x =>
    let a := attendCmd x.bytes
    match (s.core core).attend with
    | none =>
      if !(s.core core).attendOk x.bytes then s.engineRaise core x 0x15
      else if !(s.core core).gatesOpen a.inTally a.outTally 5 then s
      else s.attendTake core x a
    | some h =>
      match s.attendRecheck core a h with
      | (s, some f) => s.endRun core f
      | (s, none) =>
        (s.modCore core (fun c => { c with attend := none })).unitEnd core 3
          { writes := h.writes, num := h.num, bits := h.bits, satn := h.satn, wide := h.wide } a.status a.inTally a.outTally
          (if bitOf h.bits 3 then 8 else 0)))

end Sys2Proof.Machine
end

