-- ==== Sys2Proof/Machine/Power.lean ====
section
/-! DEFINITION. Input power, rails, status lines, resets, operating hours and PMBus (R46 to R67, R76 to R81, R92, R98, R99). -/

namespace Sys2Proof.Machine

/-- The part of a host link that lies outside the module: its PERSTk# pin and the host's memory. -/
def HostLink.outside (l : HostLink) : HostLink := { perst := l.perst, hostMem := l.hostMem }

/-- Everything that a cold or module reset clears (R98): set-up registers, jobs, cores, keys, sessions, policy, counters,
timebase, and the registers that boot fills (R557, R561). Kept: flash, the harvest map, pins, rails, buffered pit log
records. -/
def State.clearAll (s : State) : State :=
  { s with
    flash := { s.flash with fwVersion := 0, romVersion := 0, measurement := [], image := none, tried := [], retired := [],
                            retireFullSent := false },
    links := s.links.map HostLink.outside, wnd := {}, cores := List.replicate 192 {},
    mem := { moduleKeyEpoch := s.mem.moduleKeyEpoch }, parts := List.replicate 8 {},
    lnk := {}, mesh := {}, time := { mgmtTicks := s.time.mgmtTicks },
    plog := { buffer := s.plog.buffer, newest := s.plog.newest, flashed := s.plog.flashed, dropped := s.plog.dropped,
              erasing := s.plog.erasing, halfErased := s.plog.halfErased },
    sec := { keySerial := s.sec.keySerial }, mgt := {} }

/-- Every rail but VDD_HK goes off (R55, R67, R79, R80). -/
def State.railsOff (s : State) : State :=
  s.modPwr (fun p =>
    { p with
      rails := (List.range 8).map (fun i =>
        let r := p.rails.getD i {}
        if i = 7 then r else { r with on := false, inRegulation := false }),
      pgood := false, bypassOpen := false, bypassDrive := false, clocksRunning := false, stage := 0 })

/-- An hours entry (R92). -/
def hoursEntry (hours cycles : Nat) : Bytes :=
  let b := leBytes 4 hours ++ leBytes 4 cycles ++ leBytes 4 0
  b ++ leBytes 4 (crc32 b)

/-- Entry slots of the hours area that are not wholly erased, in order (R84, R92). -/
def State.hoursSlots (s : State) : List Nat :=
  (Mem1.keep (fun k => decide (0xA0000 ≤ k) && decide (k < 0xC0000)) s.flash.bytes).foldr
    (fun c l => let i := (c.1 - 0xA0000) / 16; if l.head? = some i then l else i :: l) []

/-- Hours and power-cycle count of a slot of the hours area, if its entry is valid (R92). -/
def State.hoursAt (s : State) (i : Nat) : Option (Nat × Nat) :=
  let b := s.flashRead (0xA0000 + 16 * i) 16
  if field b 8 4 == 0 && field b 12 4 == crc32 (b.take 12) then some (field b 0 4, field b 4 4) else none

/-- The latest valid entry: its slot, hours and power cycles. Both counts only grow, so the latest is the greatest (R92; log
104). -/
def State.hoursLatest (s : State) : Option (Nat × Nat × Nat) :=
  s.hoursSlots.foldl (fun best i =>
    match s.hoursAt i, best with
    | none, _ => best
    | some e, none => some (i, e)
    | some e, some b => if e.2 < b.2.2 ∨ (e.2 = b.2.2 ∧ e.1 < b.2.1) then best else some (i, e)) none

/-- The counts that housekeeping goes on from: those of the latest valid entry (R92). -/
def State.loadHours (s : State) : State :=
  let e := s.hoursLatest.getD (0, 0, 0)
  let sec := e.1 / 4096
  let next := s.hoursSlots.foldl (fun n i => if i / 4096 = sec then max n (i % 4096 + 1) else n) 0
  s.modFlash (fun f => { f with hours := e.2.1, powerCycles := e.2.2, hoursSector := sec, hoursSlot := next })

/-- Append an hours entry, changing sectors when one is full (R92). -/
def State.writeHours (s : State) : State :=
  let e := hoursEntry s.flash.hours s.flash.powerCycles
  let base (k : Nat) : Nat := 0xA0000 + 0x10000 * k
  if s.flash.hoursSlot < 4096 then
    (s.flashWrite (base s.flash.hoursSector + 16 * s.flash.hoursSlot) e).modFlash (fun f => { f with hoursSlot := f.hoursSlot + 1 })
  else
    let o := 1 - s.flash.hoursSector
    ((s.flashWrite (base o) e).flashErase (base s.flash.hoursSector)).modFlash (fun f => { f with hoursSector := o, hoursSlot := 1 })

/-- Rails and clocks go away: powered domains lose their state (R55, R67, R79, R80). -/
def State.powerOff (s : State) (phase : Phase) : State :=
  (s.clearAll.railsOff).modPwr (fun p => { p with phase := phase, dbgOnMgmtOsc := true })

/-- Rails beyond VDD_HK have power or are ramping. -/
def State.powerPresent (s : State) : Bool := s.powered || s.pwr.phase == .powerUp

/-- VDD_HK is up. -/
def State.housekeeping (s : State) : Bool := s.pwr.phase != .noInput

/-- Code of R531 for the event of a rank of R68: input loss, thermal trip, PWR_EN deasserted, MOD_RESET_N asserted. -/
def rankCode : Nat → Nat
  | 0 => 0x0001 | 1 => 0x0002 | 2 => 0x0004 | _ => 0x0005

/-- FAULT_N is released by MOD_RESET_N with the input at 39.0 V or above and no thermal trip latched (R64). -/
def State.resetFault (s : State) : State :=
  if 39000 ≤ s.pwr.millivolts ∧ !s.pwr.thermtrip then s.modPwr (fun p => { p with faultN := false }) else s

/-- The pin state of a deferred event is acted on (R64, R67, R68). -/
def State.actDeferred (s : State) (rank : Nat) : State :=
  match rank with
  | 1 => s.modPwr (fun p => { p with thermtrip := true, faultN := true, phase := if p.phase = .standby then .off else p.phase })
  | 2 => s.modPwr (fun p => { p with pwrEn := false, faultN := false })
  | _ => (s.modPwr (fun p => { p with modReset := true })).resetFault

/-- The power sequence in progress ends: the pin states that waited for it are acted on (R68). -/
def State.endSequence (s : State) : State :=
  if s.pwr.seq.isNone then s
  else (s.pwr.deferred.foldl State.actDeferred s).modPwr (fun p => { p with seq := none, deferred := [] })

/-- A sequence of a higher rank than `rank` is in progress (R68). -/
def State.outranked (s : State) (rank : Nat) : Bool := (s.pwr.seq.map (fun q => decide (q.rank < rank))).getD false

/-- A lower-ranked event is logged during a higher-ranked sequence, and its pin state waits (R68, R531). -/
def State.deferEvent (s : State) (rank : Nat) : State :=
  (s.plogFixed 0x000E (rankCode rank)).modPwr (fun p => { p with deferred := p.deferred ++ [rank] })

/-- A sequence starts, or takes over from a lower-ranked one; `hours` when the hours entry of it is written (R68). -/
def State.startSequence (s : State) (rank : Nat) (hours : Bool) : State :=
  s.modPwr (fun p => { p with seq := some { rank := rank, start := s.time.mgmtTicks, hours := hours } })

/-- The hours entry of a sequence, unless the sequence it takes over from has written it (R55, R68, R80). -/
def State.sequenceHours (s : State) : State := if (s.pwr.seq.map (·.hours)).getD false then s else s.writeHours

/-- A flush of a power sequence with the record of its trigger: the buffer goes first, so that the trigger's record finds
room (R55, R537). -/
def State.sequenceFlush (s : State) (code payload : Nat) : State :=
  let r := s.plogFlush true
  (r.plogTake code 0 payload true).plogFlush true

/-- A 64 KiB flash sector whose bytes the spec leaves open (R536, R568, log 125). -/
def State.freeSector (s : State) (a : Nat) : State :=
  let (d, s) := s.draw
  s.flashWrite a (sliceBytes (Config.freeBytes d 65536) 0 65536)

/-- Power goes during a pit log erase: the sector is half erased, and its bytes are free until a boot erases it (R536). -/
def State.loseErase (s : State) : State :=
  match s.plog.erasing with
  | some k => (s.freeSector (0x100000 + 65536 * k)).modPlog (fun p => { p with halfErased := some k, erasing := none })
  | none => s

/-- Power goes during a flash commit, which ends unfinished; the sector buffer is lost (R568, log 125). -/
def State.loseCommit (s : State) : State :=
  let s := match s.flash.commitBusy with
    | some a => s.freeSector a
    | none => s
  s.modFlash (fun f => { f with commitBusy := none, commitAbandoned := false, sectorBuf := [] })

/-- INPUT_LOSS: the input falls to 38.0 V or below and the input-loss sequence runs (R55, R56, R68, R536). The record's
reading is in mV (log 34). -/
def execInputLoss (millivolts : Nat) (s : State) : Res :=
  if s.housekeeping && decide (millivolts ≤ 38000) && decide (38000 < s.pwr.millivolts) then
    if (s.pwr.seq.map (fun q => q.rank == 0)).getD false then .next (s.modPwr (fun p => { p with millivolts := millivolts }))
    else
      let mgt := s.mgt
      let s := s.modPwr (fun p => { p with millivolts := millivolts, faultN := true, pgood := false })
      let s := s.sequenceFlush 0x0001 millivolts
      let s := if s.plog.erasing.isSome then s.loseErase.modPlog (fun p => { p with buffer := [] }) else s
      let s := ((s.powerOff .off).sequenceHours).startSequence 0 true
      .next { (s.modPwr (fun p => { p with afterInputLoss := true, pwrEnLowTicks := false })) with mgt := mgt }
  else .next s

/-- HOUSEKEEPING_STOP: below 24 V after an input loss nothing is powered any more (R56). -/
def execHousekeepingStop (millivolts : Nat) (s : State) : Res :=
  if s.pwr.phase == .off && s.pwr.afterInputLoss && decide (millivolts < 24000) then
    let s := s.powerOff .noInput
    let s := s.loseErase.loseCommit.modPlog (fun p => { p with buffer := [], dropped := 0, newest := p.flashed })
    let s := s.modTime (fun t => { t with mgmtTicks := 0 })
    .next (s.modPwr (fun p =>
      { p with rails := p.rails.map (fun _ => {}), millivolts := millivolts, faultN := false, thermtrip := false,
               afterInputLoss := false, pwrEn := false, pwrEnLowTicks := true, seq := none, deferred := [] }))
  else .next s

/-- Return to standby on VDD_HK (R56, R80). -/
def State.toStandby (s : State) : State :=
  s.modPwr (fun p =>
    { p with phase := .standby, afterInputLoss := false, rails := p.rails.set 7 { (p.rails.getD 7 {}) with on := true, inRegulation := true } })

/-- STANDBY_RETURN: PWR_EN has been low for 10 ms after an input loss (R56, R64). -/
def execStandbyReturn (millivolts : Nat) (s : State) : Res :=
  if s.pwr.phase == .off && s.pwr.afterInputLoss && decide (24000 ≤ millivolts) then
    let s := s.endSequence
    let s := s.modPwr (fun p => { p with millivolts := millivolts, pwrEn := false, faultN := false, pwrEnLowTicks := true })
    .next (if 39000 < millivolts ∧ !s.pwr.thermtrip then s.toStandby else s)
  else .next s

/-- TURN_ON_THRESHOLD_RISING: the input rises above 39.0 V (R51, R56). Housekeeping starts from the counts in flash (R92). -/
def execTurnOnThresholdRising (millivolts : Nat) (s : State) : Res :=
  if 39000 < millivolts then
    match s.pwr.phase with
    | .noInput =>
      .next (((s.modPwr (fun p => { p with millivolts := millivolts })).modTime (fun t => { t with mgmtTicks := 0 })).loadHours.toStandby)
    | .off =>
      let s := s.modPwr (fun p => { p with millivolts := millivolts })
      .next (if s.pwr.seq.isNone && s.pwr.afterInputLoss && s.pwr.pwrEnLowTicks && !s.pwr.thermtrip then s.toStandby else s)
    | _ => .next s
  else .next s

/-- POWER_UP: PWR_EN is asserted. In standby, or when the power-down sequence ends, power-up runs: a cold reset that flushes
the pit log first (R40, R41, R78, R81, R92, R98). In the off state only the pin is noted (R56). -/
def execPowerUp (strap : BitVec 2) (s : State) : Res :=
  let s := if s.pwr.phase == .standby then s.endSequence else s
  if s.pwr.phase == .standby && !s.pwr.thermtrip then
    let s := ((s.plogFlush false).clearAll).loadHours
    let s := s.modPwr (fun p =>
      { p with phase := .powerUp, pwrEn := true, pwrEnLowTicks := false, strap := strap, stage := 0,
               rails := p.rails.map (fun r => { r with on := true }) })
    let s := (s.modFlash (fun f =>
      { f with powerCycles := (f.powerCycles + 1) % 2 ^ 32, secSramCleared := false, harvestPending := true,
               harvestArea := Mem1.keep (fun k => decide (0x30000 ≤ k) && decide (k < 0x40000)) f.bytes,
               trained := List.replicate 64 false, dramZeroed := false })).writeHours
    .next (if strap = 0 then (s.mgtEvent 0).plogFixed 0x0007 0 else s)
  else if s.pwr.phase == .off then .next (s.modPwr (fun p => { p with pwrEn := true, pwrEnLowTicks := false, deferred := p.deferred.filter (· != 2) }))
  else .next s

/-- RAILS_IN_REGULATION: PGOOD is released and boot begins, or waits for MOD_RESET_N (R63, R78, R99, R32). Outside power-up
a rail that had left regulation is back, and PGOOD with it (R63). -/
def execRailsInRegulation (s : State) : Res :=
  if s.pwr.phase == .powerUp then
    .next (s.modPwr (fun p =>
      { p with phase := if p.modReset then .inReset else .boot, pgood := true, dbgOnMgmtOsc := false, stage := 0,
               rails := p.rails.map (fun r => { r with on := true, inRegulation := true }) }))
  else if s.powered then
    .next (s.modPwr (fun p => { p with pgood := true, rails := p.rails.map (fun r => { r with inRegulation := r.on }) }))
  else .next s

/-- PAYLOAD of a rail fault record (R531). -/
def railPayload (rail : Fin 8) (status : BitVec 16) : Nat := 0x40 + rail.val + status.toNat * 65536

/-- The status reports that the output is off, in overvoltage fault or no longer good: bits 6, 5 and 11 of STATUS_WORD
(PRESUMED, PMBus 1.4's layout; log 37). -/
def offRegulation (status : BitVec 16) : Bool := bitOf status.toNat 5 || bitOf status.toNat 6 || bitOf status.toNat 11

/-- Report an output fault of a regulator. PGOOD is low while a rail is out of regulation, and the bypass closed with it
(R47, R53, R63 to R65). -/
def State.railFault (s : State) (rail : Fin 8) (status : BitVec 16) : State :=
  let s := s.modRail rail (fun r =>
    { r with statusWord := status, alert := true, inRegulation := r.inRegulation && !offRegulation status })
  s.modPwr (fun p =>
    { p with faultN := true, pgood := p.pgood && !offRegulation status, bypassOpen := p.bypassOpen && !offRegulation status,
             bypassDrive := p.bypassDrive && !offRegulation status })

/-- POWER_UP_FAILURE: a rail is out of regulation 25 ms after PWR_EN (R79). -/
def execPowerUpFailure (rail : Fin 8) (statusWord : BitVec 16) (s : State) : Res :=
  if s.pwr.phase == .powerUp then
    let mgt := s.mgt
    let s := s.railFault rail statusWord
    let s := (s.plogTake 0x0006 0 (railPayload rail statusWord) true).plogFlush false
    let s := s.powerOff .off
    .next { (s.modPwr (fun p => { p with afterInputLoss := true, pwrEnLowTicks := false })) with mgt := mgt }
  else .next s

/-- POWER_DOWN: PWR_EN is deasserted. While powered the power-down sequence runs; during a higher-ranked sequence the event is
logged and waits; in the off state the pin releases FAULT_N (R64, R68, R80). -/
def execPowerDown (s : State) : Res :=
  if s.outranked 2 then .next (if s.pwr.pwrEn && !s.pwr.deferred.contains 2 then s.deferEvent 2 else s)
  else if s.powerPresent then
    let mgt := s.mgt
    let s := s.sequenceFlush 0x0004 0
    let s := ((s.powerOff .standby).sequenceHours).startSequence 2 true
    .next { (s.modPwr (fun p => { p with pwrEn := false, faultN := false, pwrEnLowTicks := true })) with mgt := mgt }
  else if s.pwr.phase == .off && s.pwr.pwrEn then .next (s.modPwr (fun p => { p with pwrEn := false, faultN := false }))
  else .next s

/-- MODULE_RESET: MOD_RESET_N is asserted for at least 1 ms (R47, R64, R68, R98, R99). Within power-up it is absorbed and
logged, and boot holds (R99, R101). -/
def execModuleReset (s : State) : Res :=
  if !s.housekeeping || s.pwr.modReset then .next s
  else if s.outranked 3 then .next (if s.pwr.deferred.contains 3 then s else s.deferEvent 3)
  else if s.powered then
    let s := (s.plogTake 0x0005 0 0 true).plogFlush false
    let s := s.clearAll.resetFault
    .next ((s.modPwr (fun p =>
      { p with modReset := true, phase := .inReset, stage := 0, bypassOpen := false, bypassDrive := false, clocksRunning := false })).modFlash
        (fun f => { f with secSramCleared := false, trained := List.replicate 64 false, dramZeroed := false, sectorBuf := [] }))
  else
    let s := if s.pwr.phase == .powerUp then s.plogFixed 0x000E 0x0005 else s
    .next (s.modPwr (fun p => { p with modReset := true })).resetFault

/-- MODULE_RESET_RELEASE: boot runs again from B0 (R99). -/
def execModuleResetRelease (s : State) : Res :=
  .next (s.modPwr (fun p =>
    { p with modReset := false, deferred := p.deferred.filter (· != 3), phase := if p.phase = .inReset then .boot else p.phase }))

/-- A sensor reading is the hottest that the management interface reports until the next one (R66; log 105). -/
def State.sensor (s : State) (reading : Int) : State := s.modPwr (fun p => { p with temperature := reading })

/-- THERMAL_WARNING: a junction at 105 °C or above (R66, R531). A reading below is only reported. -/
def execThermalWarning (reading : Int) (s : State) : Res :=
  if s.powered then
    .next (if 420 ≤ reading then ((s.sensor reading).mgtEvent 1).plogFixed 0x0003 (wrapInt 16 reading) else s.sensor reading)
  else .next s

/-- THERMAL_TRIP: a junction reaches 115 °C, whatever firmware does (R47, R64, R67, R68). -/
def execThermalTrip (reading : Int) (s : State) : Res :=
  if s.housekeeping && decide (460 ≤ reading) && !s.pwr.thermtrip && !s.pwr.deferred.contains 1 then
    let s := s.sensor reading
    if s.outranked 1 then .next (s.deferEvent 1)
    else
      let mgt := s.mgt
      let s := s.modPwr (fun p => { p with thermtrip := true, faultN := true, pgood := false })
      let s := s.sequenceFlush 0x0002 (wrapInt 16 reading)
      let h := (s.pwr.seq.map (·.hours)).getD false
      .next { (s.powerOff .off).startSequence 1 h with mgt := mgt }
  else .next s

/-- THERMTRIP_RELEASE: PWR_EN has been low for 10 ms and the hottest sensor reads below 100 °C (R64, R67). -/
def execThermtripRelease (reading : Int) (s : State) : Res :=
  if s.housekeeping && decide (reading < 400) && s.endSequence.pwr.thermtrip then
    let s := s.endSequence.modPwr (fun p =>
      { p with thermtrip := false, temperature := reading, pwrEn := false, faultN := false, pwrEnLowTicks := true })
    .next (if s.pwr.phase == .off && decide (39000 < s.pwr.millivolts) then s.toStandby else s)
  else .next s

/-- RAIL_FAULT: a regulator reports an output fault (R64, R531). -/
def execRailFault (rail : Fin 8) (statusWord : BitVec 16) (s : State) : Res :=
  if s.housekeeping && (s.rail rail).on then
    .next ((s.railFault rail statusWord).plogFixedFlush 0x0006 (railPayload rail statusWord))
  else .next s

/-- SURROUNDINGS_VIOLATION: an observed reading out of range (R76, R531; units, log 34). -/
def execSurroundingsViolation (kind : Surroundings) (reading : BitVec 32) (s : State) : Res :=
  let r := reading.toNat
  let out :=
    match kind with
    | .input => (decide (r < 40000) || decide (60000 < r), 1, 2)
    | .refclk => (decide (200 < (signedOf 32 r).natAbs), 2, 3)
    | .junction => (decide (420 ≤ signedOf 32 r), 3, 1)
  let s' :=
    match kind with
    | .input => if 38000 < r then s.modPwr (fun p => { p with millivolts := r }) else s
    | .refclk => s
    | .junction => s.sensor (signedOf 32 r)
  if s.housekeeping && out.1 then .next ((s'.mgtEvent out.2.2).plogFixed 0x000C (out.2.1 + r * 2 ^ 32)) else .next s

/-- HOURS_STEP: another 0.1 h with PGOOD released (R92). -/
def execHoursStep (s : State) : Res :=
  if s.pwr.pgood then .next ((s.modFlash (fun f => { f with hours := (f.hours + 1) % 2 ^ 32 })).writeHours) else .next s

/-- A STATUS byte of a regulator: free where the summary bit of STATUS_WORD that stands for it is set, else zero (PRESUMED,
PMBus 1.4; log 36). -/
def State.railStatus (s : State) (rail : Fin 8) (bit k : Nat) : Bytes :=
  if bitOf (s.rail rail).statusWord.toNat bit then leBytes 1 (Config.telemetry (8 * (16 + bit) + rail) k).toNat else [0]

/-- PMBUS_READ: a telemetry value is free, a status value is the regulator's, and every other read command is answered (R53,
R54, R61; log 36). -/
def execPmbusRead (rail : Fin 8) (cmd : PmbusRead) (s : State) : Res :=
  if s.housekeeping then
    let (k, s') := s.draw
    let put (s : State) (bs : Bytes) : Res := .next (s.modMgt (fun m => { m with reply := bs }))
    let w := (s.rail rail).statusWord.toNat
    match cmd with
    | .statusWord => put s (leBytes 2 w)
    | .statusByte => put s (leBytes 1 w)
    | .statusCml => put s [if (s.rail rail).cml then 0x80#8 else 0]
    | .statusVout => put s' (s.railStatus rail 15 k)
    | .statusIout => put s' (s.railStatus rail 14 k)
    | .statusInput => put s' (s.railStatus rail 13 k)
    | .statusMfrSpecific => put s' (s.railStatus rail 12 k)
    | .statusFans12 => put s' (s.railStatus rail 10 k)
    | .statusOther => put s' (s.railStatus rail 9 k)
    | .statusTemperature => put s' (s.railStatus rail 2 k)
    | .vin => put s' (leBytes 2 (Config.telemetry (8 * 0 + rail) k).toNat)
    | .vout => put s' (leBytes 2 (Config.telemetry (8 * 1 + rail) k).toNat)
    | .iout => put s' (leBytes 2 (Config.telemetry (8 * 2 + rail) k).toNat)
    | .pout => put s' (leBytes 2 (Config.telemetry (8 * 3 + rail) k).toNat)
    | .temperature1 => put s' (leBytes 2 (Config.telemetry (8 * 4 + rail) k).toNat)
    | .other code => put s' (Config.freeBytes k code.toNat)
  else .next s

/-- CLEAR_FAULTS: the one PMBus write a regulator accepts (R54, R65). -/
def execClearFaults (rail : Fin 8) (s : State) : Res :=
  if s.housekeeping then .next (s.modRail rail (fun r => { r with statusWord := 0, cml := false, alert := false })) else .next s

/-- PMBUS_WRITE_IGNORED: any other write sets the CML bit and changes no rail; CLEAR_FAULTS (code 0x03) is not one (R54).
That it also asserts the regulator's SMBALERT#, and leaves STATUS_WORD as it was, is PRESUMED (log 36). -/
def execPmbusWriteIgnored (rail : Fin 8) (code : BitVec 8) (s : State) : Res :=
  if s.housekeeping && code != 3 then .next (s.modRail rail (fun r => { r with cml := true, alert := true })) else .next s

/-- The management interface holds an unmasked pending event (R65, R563). -/
def State.mgmtAlert (s : State) : Bool := (s.mgt.events &&& ~~~s.mgt.mask) != 0

/-- ALERT_N is asserted (R65). -/
def State.alertN (s : State) : Bool := s.mgmtAlert || (List.range 8).any (fun i => (s.rail i).alert)

/-- ALERT_RESPONSE: the lowest alerting address answers (R60, R65). A device whose source stays pending answers every read
(DESIGN CHOICE, log 106). -/
def execAlertResponse (s : State) : Res :=
  if s.housekeeping then
    let a : Bytes :=
      match (List.range 8).find? (fun i => (s.rail i).alert) with
      | some i => [BitVec.ofNat 8 (0x40 + i)]
      | none => if s.mgmtAlert then [0x5A#8] else []
    .next (s.modMgt (fun m => { m with reply := a }))
  else .next s

end Sys2Proof.Machine
end

