-- ==== Sys2Proof/Machine/Records.lean ====
section
/-! DEFINITION. The fence record and the page-retirement list as flash holds them, and fencing (R90, R378, R464 to R466,
R472, R473). -/

namespace Sys2Proof.Machine

/-- An ML-DSA-87 signature of the device identity key verifies under a context (R90, R476). -/
def State.identityVerifies (s : State) (msg ctx sig : Bytes) : Bool := Config.mldsaVerify s.flash.identityPk msg ctx sig

/-- A fence entry's 16 bytes (R473). -/
def FenceEntry.bytes (e : FenceEntry) : Bytes :=
  leBytes 1 (if e.router then 2 else 1) ++ leBytes 1 e.reason.toNat ++ leBytes 1 e.row ++ leBytes 1 e.column
    ++ leBytes 2 e.core.toNat ++ leBytes 2 0 ++ leBytes 4 e.hours ++ leBytes 4 e.cycles

/-- A fence entry from its 16 bytes, when its codes are valid (R473). -/
def parseFenceEntry (b : Bytes) : Option FenceEntry :=
  let kind := byteAt b 0
  let core := field b 4 2
  if inRange kind 1 2 && inRange (byteAt b 1) 1 4 && inRange (byteAt b 2) 1 14 && decide (byteAt b 3 < 16) && field b 6 2 == 0
      && (if kind = 2 then core == 0xFFFF else decide (core < 192)) then
    some { router := kind == 2, reason := BitVec.ofNat 8 (byteAt b 1), row := byteAt b 2, column := byteAt b 3,
           core := BitVec.ofNat 16 core, hours := field b 8 4, cycles := field b 12 4 }
  else none

/-- Read a list of optional values as one that is whole. -/
def allSome {α : Type} : List (Option α) → Option (List α)
  | [] => some []
  | none :: _ => none
  | some x :: xs => (allSome xs).map (x :: ·)

/-- A valid copy of the fence record: its generation and entries (R90, R473). -/
def State.fenceCopyAt (s : State) (base : Nat) : Option (Nat × List FenceEntry) :=
  let b := s.flashRead base 12883
  let n := field b 8 2
  if field b 0 4 == 0x4C584652 && decide (n ≤ 512) && zeroBytes b 10 63 && zeroBytes b (64 + 16 * n) 8255
      && s.identityVerifies (b.take 8256) [] ((b.drop 8256).take 4627) then
    (allSome ((List.range n).map (fun i => parseFenceEntry (sliceBytes b (64 + 16 * i) 16)))).map (fun l => (field b 4 4, l))
  else none

/-- The valid copy with the higher sequence or generation number: whether it is copy 1, and its contents (R85, R90). Of two valid
copies with equal numbers copy 0 is used (DESIGN CHOICE, log 108). -/
def newerCopy {α : Type} (a b : Option (Nat × α)) : Option (Bool × Nat × α) :=
  match a, b with
  | none, none => none
  | some x, none => some (false, x)
  | none, some y => some (true, y)
  | some x, some y => if x.1 < y.1 then some (true, y) else some (false, x)

/-- Load the fence record in use (R90, R479). With no valid copy the empty record counts as generation 0, and copy 0 is written
next (DESIGN CHOICE, log 109). -/
def State.loadFence (s : State) : State × Bool :=
  match newerCopy (s.fenceCopyAt 0x60000) (s.fenceCopyAt 0x70000) with
  | some (one, g, l) =>
    (s.modFlash (fun f =>
      { f with fenceGen := g, fenceEntries := l, fenceCopy := one,
               fenceHash := Config.sha3_512 (s.flashRead (if one then 0x70000 else 0x60000) 12883) }), true)
  | none => (s.modFlash (fun f => { f with fenceGen := 0, fenceEntries := [], fenceCopy := true, fenceHash := [] }), false)

/-- Write the fence record over its older copy with the next generation (R90, R464, R473). -/
def State.writeFence (s : State) : State :=
  let g := (s.flash.fenceGen + 1) % 2 ^ 32
  let es := s.flash.fenceEntries
  let body := sliceBytes (leBytes 4 0x4C584652 ++ leBytes 4 g ++ leBytes 2 es.length ++ List.replicate 54 0
    ++ es.flatMap FenceEntry.bytes) 0 8256
  let copy := body ++ sliceBytes (Config.identitySign body []) 0 4627
  let base := if s.flash.fenceCopy then 0x60000 else 0x70000
  ((s.flashErase base).flashWrite base copy).modFlash (fun f =>
    { f with fenceGen := g, fenceCopy := !f.fenceCopy, fenceHash := Config.sha3_512 copy })

/-- A valid copy of the page-retirement list: its generation and entries (R90, R378). -/
def State.retireCopyAt (s : State) (base : Nat) : Option (Nat × List RetireEntry) :=
  let b := s.flashRead base 37459
  let n := field b 8 2
  let entry (i : Nat) : Option RetireEntry :=
    let e := field b (64 + 8 * i) 8
    if bitOf e 23 || bitsOf e 63 28 != 0 || !inRange (bitsOf e 27 24) 1 3 || decide (s.spareBase / 65536 ≤ bitsOf e 22 0) then none
    else some { page := bitsOf e 22 0, reason := bitsOf e 27 24 }
  if field b 0 4 == 0x4C585052 && decide (n ≤ 4096) && zeroBytes b 10 63 && zeroBytes b (64 + 8 * n) 32831
      && s.identityVerifies (b.take 32832) [] ((b.drop 32832).take 4627) then
    (allSome ((List.range n).map entry)).map (fun l => (field b 4 4, l))
  else none

/-- Load the page-retirement list in use (R90, R377); the empty list as for the fence record (DESIGN CHOICE, log 109). -/
def State.loadRetired (s : State) : State × Bool :=
  match newerCopy (s.retireCopyAt 0x80000) (s.retireCopyAt 0x90000) with
  | some (one, g, l) => (s.modFlash (fun f => { f with retireGen := g, retired := l, retireCopy := one }), true)
  | none => (s.modFlash (fun f => { f with retireGen := 0, retired := [], retireCopy := true }), false)

/-- Write the page-retirement list over its older copy with the next generation (R90, R377, R378). -/
def State.writeRetired (s : State) : State :=
  let g := (s.flash.retireGen + 1) % 2 ^ 32
  let es := s.flash.retired
  let body := sliceBytes (leBytes 4 0x4C585052 ++ leBytes 4 g ++ leBytes 2 es.length ++ List.replicate 54 0
    ++ es.flatMap (fun e => leBytes 8 (e.page + e.reason * 2 ^ 24))) 0 32832
  let copy := body ++ sliceBytes (Config.identitySign body []) 0 4627
  let base := if s.flash.retireCopy then 0x80000 else 0x90000
  ((s.flashErase base).flashWrite base copy).modFlash (fun f => { f with retireGen := g, retireCopy := !f.retireCopy })

/-- The logical core at a router position, if an enabled core lies there (R20 to R23). -/
def State.coreAt (s : State) (row column : Nat) : Option Nat := (List.range 192).find? (fun n => s.corePos n == (row, column))

/-- The placement checks that a fencing repeats (R166, R386, R464). -/
def State.recheckPlacement (s : State) : State :=
  let s := s.wnd.serials.foldl (fun s ser =>
    match s.job ser with
    | none => s
    | some j =>
      if j.phase != .live then s
      else (List.range j.tasks.length).foldl (fun s i =>
        match s.job ser, s.task ser i with
        | some j, some t => if t.st == .ready && s.notPlaceable j t then s.failTask ser i 0x10A 2 t.lastCore else s
        | _, _ => s) s) s
  s.endPillarless

/-- Fence logical core `n` for a reason of R473: it leaves every pool, its pillars end, the event is written and the record
gains an entry (R385, R464). -/
def State.fenceCore (s : State) (n reason : Nat) : State :=
  if s.isFenced n then s
  else
    let (r, c) := s.corePos n
    let s := s.modWnd (fun w => { w with fenced := insertSorted n w.fenced })
    let s := s.modCore n (fun x => { x.endPillars (fun _ => true) with slots := [], tlb := [] })
    let s := s.eventModule { code := 0x0E03, sev := 2, source := srcWinder,
                             payload := n + reason * 2 ^ 8 + c * 2 ^ 16 + r * 2 ^ 20 }
    let e : FenceEntry := { router := false, reason := BitVec.ofNat 8 reason, row := r, column := c, core := BitVec.ofNat 16 n,
                            hours := s.flash.hours, cycles := s.flash.powerCycles }
    let s := s.modFlash (fun f => { f with fenceEntries := f.fenceEntries ++ [e] })
    s.writeFence.recheckPlacement

end Sys2Proof.Machine
end

