-- ==== Sys2Proof/Machine/Boot.lean ====
section
/-! DEFINITION. Boot stages B0 to B7 and recovery (R82 to R97, R472, R476 to R478). -/

namespace Sys2Proof.Machine

/-- Boot is about to run stage `n` (R82). -/
def State.atStage (s : State) (n : Nat) : Bool := s.pwr.phase == .boot && s.pwr.stage == n

/-- A boot failure enters recovery: PCIe idle, bypasses closed, no CL clock (R97). -/
def State.enterRecovery (s : State) : State :=
  let s := s.modPwr (fun p => { p with phase := .recovery, bypassOpen := false, bypassDrive := false, clocksRunning := false })
  { s with links := s.links.map (fun l => { l with ltssm := .idle }) }

/-- A boot stage succeeds. -/
def State.passStage (s : State) : State := s.modPwr (fun p => { p with stage := p.stage + 1 })

/-- A record failed to verify: its pit log record and event (R89, R90, R531, R563). -/
def State.recordInvalid (s : State) (area : Nat) : State := (s.mgtEvent 4).plogFixed 0x0009 area

/-- PLL_LOCK: stage B0 (R82, R95, R506). The half-erased pit log sector that an input loss left is erased and recorded, and
numbering continues from flash (R535, R536). -/
def execPllLock (s : State) : Res :=
  if s.atStage 0 then
    let s := s.passStage.modTime (fun t => { ({} : TimeSt) with on := true, mgmtTicks := t.mgmtTicks })
    let s := { s with links := (List.range 4).map (fun k =>
      let l := s.link k
      if k < s.linkCount ∧ !l.perst then { l with ltssm := .detect } else l) }
    let s := s.modPlog (fun p => { p with newest := if p.buffer.isEmpty then p.flashed else p.newest })
    match s.plog.halfErased with
    | some k => .next (((s.flashErase (0x100000 + 65536 * k)).modPlog (fun p => { p with halfErased := none })).plogFixed 0x000D k)
    | none => .next s
  else .next s

/-- REFCLK_TIMEOUT: B0 has waited 100 ms (R82). -/
def execRefclkTimeout (s : State) : Res := if s.atStage 0 then .next s.enterRecovery else .next s

/-- The endorsement record verifies for an identity public key (R477, R478). -/
def State.endorsed (s : State) (pk : Bytes) : Bool :=
  let b := s.flashRead 0x22000 9827
  field b 0 4 == 0x4C58454E && field b 4 4 == 1 && (b.drop 16).take 2592 == pk
    && (b.drop 8).take 8 == (Config.sha3_512 pk).take 8
    && Config.sha3_512 ((b.drop 2608).take 2592) == Config.vendorRootHash
    && Config.mldsaVerify ((b.drop 2608).take 2592) (b.take 5200) ("LX960-ENDORSE".toList.map (fun c => BitVec.ofNat 8 c.toNat))
      ((b.drop 5200).take 4627)

/-- ROM_IDENTITY: stage B1 (R82, R109, R469, R476 to R478). -/
def execRomIdentity (puf : List (BitVec 8)) (s : State) : Res :=
  if s.atStage 1 then
    if !Config.romIntegrity [] then .next s.enterRecovery
    else
      let s := s.modFlash (fun f => { f with secSramCleared := true, romVersion := Config.romVersion })
      match Config.pufSeed puf (s.flashRead 0x20000 8192) with
      | none => .next s.enterRecovery
      | some seed =>
        let pk := Config.mldsaPublic seed
        if s.endorsed pk then
          let s := s.modFlash (fun f =>
            { f with identityPk := pk, dsn := BitVec.ofNat 64 (leNat ((Config.sha3_512 pk).take 8)), tried := [], image := none })
          let (s, _) := s.loadFence
          let routers := (s.flash.fenceEntries.filter (·.router)).map (fun e => (e.row, e.column))
          .next ((s.modMesh (fun m => { m with failed := routers })).passStage)
        else .next s.enterRecovery
  else .next s

/-- The image that the flash directory prefers: false A, true B (R85). -/
def State.preferredImage (s : State) : Bool :=
  let copy (base : Nat) : Option (Nat × Bool) :=
    let b := s.flashRead base 68
    if field b 0 4 == 0x4C584449 && field b 64 4 == crc32 (b.take 64) then some (field b 4 4, byteAt b 8 == 1) else none
  match newerCopy (copy 0) (copy 0x10000) with
  | some (_, _, p) => p
  | none => false

/-- Flash offset of an image (R84). -/
def imageBase (b : Bool) : Nat := if b then 0x2100000 else 0x400000

/-- The checks of R87 in order: the number of the first that fails, from 1 (log 38). -/
def State.imageCheck (s : State) (b : Bool) : Option Nat :=
  let h := s.flashRead (imageBase b) 8192
  let len := field h 12 4
  if field h 0 4 ≠ 0x4C584657 ∨ field h 4 4 ≠ 1 then some 1
  else if 30400512 < len then some 2
  else if Config.sha3_512 ((h.drop 16).take 2592) ≠ Config.vendorRootHash then some 3
  else
    let msg := h.take 2608 ++ s.flashRead (imageBase b + 8192) len
    if Config.mldsaVerify ((h.drop 16).take 2592) msg [] ((h.drop 2608).take 4627) then none else some 4

/-- IMAGE_VERIFY: stage B2 for one image (R85 to R88, R531). -/
def execImageVerify (s : State) : Res :=
  if s.atStage 2 then
    let b := if s.flash.tried.isEmpty then s.preferredImage else !s.preferredImage
    match s.imageCheck b with
    | none =>
      let h := s.flashRead (imageBase b) 2608
      let msg := h ++ s.flashRead (imageBase b + 8192) (field h 12 4)
      .next ((s.modFlash (fun f => { f with image := some b, fwVersion := BitVec.ofNat 32 (field h 8 4),
                                            measurement := Config.sha3_512 msg })).passStage)
    | some k =>
      let s := (s.mgtEvent 6).plogFixed 0x0008 (b2n b + 256 * k)
      let s := s.modFlash (fun f => { f with tried := f.tried ++ [b] })
      if 2 ≤ s.flash.tried.length then
        .next ((s.modPwr (fun p => { p with faultN := true })).plogFixedFlush 0x000B 0).enterRecovery
      else .next s
  else .next s

/-- The harvest map that was in flash at the cold reset is valid: its ENABLE and ATTN entries and signed message (R89, R472). -/
def State.harvestMap (s : State) : Option (List (BitVec 16) × List Bool × Bytes) :=
  let b := Mem1.read flashD s.flash.harvestArea 0x30000 7283
  let en := (List.range 16).map (fun c => field b (16 + 2 * c) 2)
  let at' := (List.range 16).map (fun c => byteAt b (48 + c))
  let okOne (c : Nat) : Bool :=
    let e := en.getD c 0
    let a := at'.getD c 0
    (List.range 14).countP (bitOf e) == 12 && e / 2 ^ 14 == 0 && decide (a < 2) && bitOf e (attnBit (a == 1))
  if field b 0 4 == 0x4C58484D && field b 4 4 == 1 && field b 8 8 == s.flash.dsn.toNat && (List.range 16).all okOne
      && Config.sha3_512 ((b.drop 64).take 2592) == Config.vendorRootHash
      && Config.mldsaVerify ((b.drop 64).take 2592) (b.take 2656) [] ((b.drop 2656).take 4627) then
    some (en.map (BitVec.ofNat 16), at'.map (· == 1), b.take 2656)
  else none

/-- RECORD_VERIFY: stage B3 (R21 to R24, R82, R89, R90, R377, R464, R466). The harvest map is read at a cold boot only. -/
def execRecordVerify (s : State) : Res :=
  if s.atStage 3 then
    let (cfgOk, _, cfgMsg) := Config.configRecord (s.flashRead 0x40000 65536)
    let s :=
      if s.flash.harvestPending then
        match s.harvestMap with
        | some (en, at', msg) => s.modFlash (fun f => { f with harvestPending := false, harvestOk := true, enable := en, attn := at',
                                                               harvestHash := Config.sha3_512 msg })
        | none => s.modFlash (fun f => { f with harvestPending := false, harvestOk := false, harvestHash := [] })
      else s
    let mapOk := s.flash.harvestOk
    if cfgOk && mapOk then
      let s := s.modFlash (fun f => { f with configHash := Config.sha3_512 cfgMsg })
      let (s, f) := s.loadFence
      let s := if f then s else s.recordInvalid 6
      let (s, r) := s.loadRetired
      let s := if r then s else s.recordInvalid 8
      let fenced := (s.flash.fenceEntries.filter (fun e => !e.router)).filterMap (fun e => s.coreAt e.row e.column)
      .next ((s.modWnd (fun w => { w with fenced := fenced.foldl (fun l n => insertSorted n l) [] })).passStage)
    else
      let s := if cfgOk then s else (s.modFlash (fun f => { f with configHash := [] })).recordInvalid 4
      let s := if mapOk then s else s.recordInvalid 3
      .next s.enterRecovery
  else .next s

/-- CORE_SELF_TEST: stage B4 (R82, R91, R34). -/
def execCoreSelfTest (failed : List Nat) (s : State) : Res :=
  if s.atStage 4 then
    let s := { s with cores := List.replicate 192 {} }
    let s := s.modPwr (fun p => { p with clocksRunning := true })
    let st := s.stamp
    let s := s.modWnd (fun w => { w with clusters := List.replicate 16 .stopped, gapStamp := List.replicate 16 st })
    .next ((failed.foldl (fun s n => if n < 192 then s.fenceCore n 1 else s) s).passStage)
  else .next s

/-- DRAM_TRAINING: stage B5 (R82, R93, R94, R531). -/
def execDramTraining (failedChannel : Option (Fin 64)) (s : State) : Res :=
  if s.atStage 5 then
    match failedChannel with
    | none => .next ((s.modFlash (fun f => { f with trained := List.replicate 64 true })).passStage)
    | some c => .next ((s.mgtEvent 5).plogFixedFlush 0x000A c.val).enterRecovery
  else .next s

/-- DRAM_ZEROING: stage B6 (R82). -/
def execDramZeroing (ok : Bool) (s : State) : Res :=
  if s.atStage 6 then
    if ok then
      .next ((s.modFlash (fun f => { f with dramZeroed := true })).modMem (fun m =>
        { m with dram := [], poison := [], bad := [], flip := [], msc := [], moduleKeyEpoch := m.moduleKeyEpoch + 1 })).passStage
    else .next s.enterRecovery
  else .next s

/-- BOOT_OPEN: stage B7, the running state, and the start of link training for every enabled port (R82, R96, R411). -/
def execBootOpen (s : State) : Res :=
  if s.atStage 7 then
    let s := s.passStage.modPwr (fun p => { p with phase := .running })
    .next (s.modLnk (fun l => { l with ports := (List.range 6).map (fun p =>
      let x := l.ports.getD p {}
      if bitOf l.cfg.toNat p then { x with st := .localTest } else x) }))
  else .next s

end Sys2Proof.Machine
end

