-- ==== Sys2Proof/Machine/Session.lean ====
section
/-! DEFINITION. Envelopes, tenant sessions and the reset of a partition (R98, R100, R137, R365, R385, R492, R494 to R498). -/

namespace Sys2Proof.Machine

/-- ASCII bytes of a string. -/
def ascii (t : String) : Bytes := t.toList.map (fun c => BitVec.ofNat 8 c.toNat)

/-- The 12-byte nonce of an envelope (R497). -/
def envelopeNonce (dir seq : Nat) : Bytes := leBytes 12 (seq % 2 ^ 64 + dir * 2 ^ 88)

/-- An envelope's header and ciphertext match a session and open under its key (R497, R498): its SEQ and plaintext. -/
def Session.openWith (x : Session) (part : Nat) (b : Bytes) : Option (Nat × Bytes) :=
  let len := field b 24 4
  let seq := field b 16 8
  let top := x.accepted.foldl max 0
  if field b 0 4 == 0x4C585345 && byteAt b 4 == 0 && byteAt b 5 == part && field b 6 2 == 0 && field b 8 4 == x.id.toNat
      && field b 12 4 == 0 && zeroBytes b 28 47 && len % 64 == 0 && b.length == len + 64
      && !x.accepted.contains seq && (x.accepted.isEmpty || decide (top < seq + 4096)) then
    (Config.gcmOpen x.kTd (envelopeNonce 0 seq) (b.take 48) ((b.drop 48).take len) ((b.drop (48 + len)).take 16)).map (fun p => (seq, p))
  else none

/-- Record an accepted SEQ; those too old to be accepted again are forgotten (R498). -/
def Session.accept (x : Session) (seq : Nat) : Session :=
  let l := seq :: x.accepted
  let top := l.foldl max 0
  { x with accepted := l.filter (fun n => decide (top < n + 4096)) }

/-- Open a tenant-to-device envelope under a partition's active session (R498). -/
def State.openEnvelope (s : State) (p : Nat) (b : Bytes) : Option (State × Bytes) :=
  match (s.part p).session with
  | none => none
  | some x =>
    match x.openWith p b with
    | none => none
    | some (seq, t) => some (s.modPart p (fun q => { q with session := some (x.accept seq) }), t)

/-- Seal device-to-tenant data as the session's next envelope (R497, R498). -/
def Session.seal (x : Session) (part : Nat) (t : Bytes) : Session × Bytes :=
  let h := leBytes 4 0x4C585345 ++ leBytes 1 1 ++ leBytes 1 part ++ leBytes 2 0 ++ leBytes 4 x.id.toNat ++ leBytes 4 0
    ++ leBytes 8 x.outSeq ++ leBytes 4 t.length ++ List.replicate 20 0
  ({ x with outSeq := x.outSeq + 1 },
    h ++ sliceBytes (Config.gcmSeal x.kDt (envelopeNonce 1 x.outSeq) h t) 0 (t.length + 16))

/-- The active session of a partition ends, with its event (R495). -/
def State.endSession (s : State) (p : Nat) : State :=
  match (s.part p).session with
  | none => s
  | some x =>
    (s.modPart p (fun q => { q with session := none })).eventPart p
      { code := 0x0F03, sev := 0, source := srcSec, payload := x.id.toNat }

/-- Clear a function's rings; BASE and SIZE stay (R98, R137, R549). -/
def Fn.clearRings (f : Fn) : Fn :=
  let off (r : Ring) : Ring := { base := r.base, size := r.size }
  { f with sq := off f.sq, cq := off f.cq, eq := off f.eq, fetched := [], reserved := 0, dropped := 0,
           holdEnd := [none, none], holdTicks := [0, 0], holdPending := [false, false] }

/-- The jobs that satisfy a predicate are taken away by a reset (R100, R137). -/
def State.killJobs (s : State) (p : Job → Bool) (pillarsToo : Bool) : State :=
  (s.jobList.filter (fun x => p x.2)).foldl (fun s x => s.killJob x.1 pillarsToo) s

/-- Bytes of the level-0 and level-1 tables of a partition's alias window, as (DPA, entry) pairs (R364, R365). -/
def Part.aliasEntries (p : Part) : List (Nat × Nat) :=
  let root := p.root
  let tables := ceilDiv p.capacity (2 ^ 34)
  (List.range tables).map (fun j => (root + 8 * (0x2000 + j), root + 0x20000 + 4096 * j + 0xD))
    ++ (List.range (ceilDiv p.capacity (2 ^ 25))).map (fun k =>
      (root + 0x20000 + 8 * k, dpaOfCapacity p.ranges (k * 2 ^ 25) + 0xF))

/-- Write the tables of R365. -/
def State.writeAlias (s : State) (p : Nat) : State :=
  (s.part p).aliasEntries.foldl (fun s e => s.memWrite e.1 (leBytes 8 e.2)) s

/-- The senders that a collective's buckets answered BUSY: node, key, bucket (R433, R436). -/
def Coll.waiters (c : Coll) : List (Nat × Nat × Nat) :=
  (List.zip (List.range c.buckets.length) c.buckets).flatMap (fun (b : Nat × Bucket) =>
    b.2.tiles.flatMap (fun (t : TileSt) => t.waiters.map (fun n => (n, c.desc.key.toNat, b.1))))

/-- Write zeros through a partition's new key to its ranges (R492). -/
def State.zeroPart (s : State) (p : Nat) : State :=
  let P := s.part p
  let out (x : Nat) : Bool := !P.owns (32 * x)
  let outB (x : Nat) : Bool := out (s.sectorAt x)
  s.modMem (fun m =>
    { m with dram := Mem1.keep (fun a => !P.owns a) m.dram, poison := m.poison.filter out, bad := m.bad.filter outB,
             flip := m.flip.filter outB, msc := m.msc.filter (fun l => l.part != some p) })

/-- The performance counters of a partition's last run on a core are cleared (R98). -/
def Core.clearCounters (c : Core) (p : Nat) : Core :=
  let cleared (e : Epoch) : Epoch := if e.part = p then { number := e.number } else e
  { c with epoch := cleared c.epoch, frozen := cleared c.frozen }

/-- A partition reset (R98, R492): the session ends, jobs end without entries, rings, pillars, registers and counters clear,
and zeroing under a new key starts. `entry` is the policy entry from now on; an entry that is not VALID leaves no partition. -/
def State.partitionReset (s : State) (p : Nat) (entry : Bytes) : State :=
  let s := s.endSession p
  let fns := s.partFns p
  let s := s.killJobs (fun j => j.part == p) false
  let s := { s with cores := s.cores.map (fun (c : Core) => (c.endPillars (fun x => x.part == p)).clearCounters p) }
  let s := fns.foldl (fun s kf => s.modFn kf.1 kf.2 Fn.clearRings) s
  let s := s.modLnk (fun l => { l with colls := l.colls.filter (fun c => c.part != p),
                                       past := l.past.filter (fun c => c.part != p) ++ l.colls.filter (fun c => c.part == p && c.desc.kind == 1),
                                       keyWaiters := l.keyWaiters ++ (l.colls.filter (fun c => c.part == p)).flatMap Coll.waiters,
                                       armPending := l.armPending.filter (fun a => a.part != p) })
  let s := s.invalidatePart p
  let old := s.zeroPart p
  if bitOf (byteAt entry 0) 0 then
    let s := old.modPart p (fun _ =>
      { ({} : Part) with valid := true, policy := entry, zeroing := true, keySerial := some (old.sec.keySerial + 1) })
    (s.modSec (fun x => { x with keySerial := x.keySerial + 1 })).zeroPart p
  else old.modPart p (fun _ => {})

/-- PARTITION_ZEROING_DONE: the tables of R365 are in place and the partition is ready (R365, R492). -/
def execPartitionZeroingDone (part : Fin 8) (s : State) : Res :=
  if s.running && (s.part part).valid && (s.part part).zeroing then
    .next ((s.writeAlias part).modPart part (fun q => { q with zeroing := false }))
  else .next s

end Sys2Proof.Machine
end

