-- ==== Sys2Proof/Machine/HostIf.lean ====
section
/-! DEFINITION. Host links, doorbells, submission, validation of graphs and MSI-X hold-off (R95, R98, R103 to R137, R141 to
R148, R163, R514, R529). -/

namespace Sys2Proof.Machine

/-- A function's state after a host link reset: its HIF registers and rings at reset, its mailbox kept (R98). -/
def Fn.hifReset (f : Fn) : Fn :=
  { ({} : Fn) with mboxAddr := f.mboxAddr, mboxBusy := f.mboxBusy, secLockViol := f.secLockViol, plogCursor := f.plogCursor,
                   msixSent := f.msixSent }

/-- A physical function's doorbell registers at reset (R98, R547). -/
def HostLink.doorbellReset (l : HostLink) : HostLink :=
  { fns := l.fns, perst := l.perst, ltssm := l.ltssm, rate := l.rate, width := l.width, hostMem := l.hostMem,
    cfgRetries := l.cfgRetries, urSent := l.urSent }

/-- A reset of narrower scope that falls within a cold or module reset is absorbed by it and logged. The record is that of R68; a
link or function reset has no code of its own there, so the code it names is free (R101; log 112). -/
def State.absorbReset (s : State) : State :=
  if s.pwr.phase == .powerUp || s.pwr.phase == .inReset then
    let (k, s) := s.draw
    s.plogFixed 0x000E (Config.freeNat k % 65536)
  else s

/-- A host link reset, its pin apart (R98, R100, R110, R137). -/
def State.resetLink (s : State) (k : Nat) : State :=
  let s := s.killJobs (fun j => j.link == k) true
  s.modLink k (fun l => { l.doorbellReset with fns := l.fns.map Fn.hifReset, rate := 0, width := 0 })

/-- HOST_LINK_RESET: PERSTk# is asserted (R98, R100, R101). -/
def execHostLinkReset (link : Fin 4) (s : State) : Res :=
  let s := s.modLink link (fun l => { l with perst := true })
  if s.pwr.phase == .powerUp || s.pwr.phase == .inReset then .next s.absorbReset
  else if s.powered && decide (link.val < s.linkCount) then
    .next ((s.resetLink link).modLink link (fun l => { l with ltssm := .idle }))
  else .next s

/-- Boot stage B0 has ended and the PCIe links are not held in electrical idle (R82, R95, R97, R99). -/
def State.linksLive (s : State) : Bool := s.running || (s.pwr.phase == .boot && decide (1 ≤ s.pwr.stage))

/-- HOST_LINK_RELEASE: PERSTk# is deasserted (R95). -/
def execHostLinkRelease (link : Fin 4) (s : State) : Res :=
  let go := s.linksLive && decide (link.val < s.linkCount)
  .next (s.modLink link (fun l => { l with perst := false, ltssm := if go && l.ltssm == .idle then .detect else l.ltssm }))

/-- PCIE_LINK_TRAINING: Flit Mode is required (R42, R103). `rate` is in tenths of a GT/s. A change of link status while hosts
may use the link is signalled on vector 2 (R134; log 111). -/
def execPcieLinkTraining (link : Fin 4) (partnerFlitMode : Bool) (rate width : Nat) (s : State) : Res :=
  let lanes := 16 / max 1 s.linkCount
  let l := s.link link
  if s.linksLive && decide (link.val < s.linkCount) && !l.perst && (l.ltssm == .detect || l.ltssm == .noFlit)
      && [25, 50, 80, 160, 320, 640, 1280].contains rate && [1, 2, 4, 8, 16].contains width && decide (width ≤ lanes) then
    if partnerFlitMode then
      let s := s.modLink link (fun l => { l with ltssm := .l0, rate := rate, width := width })
      .next (if s.running then s.msix link 0 2 else s)
    else .next ((s.modLink link (fun l => { l with ltssm := .noFlit })).mgtEvent 7)
  else .next s

/-- CONFIG_REQUEST_RETRY: before B7 ends (R95). -/
def execConfigRequestRetry (link : Fin 4) (isConfig : Bool) (s : State) : Res :=
  if s.pwr.phase == .boot && decide (link.val < s.linkCount) && (s.link link).ltssm != .idle then
    .next (s.modLink link (fun l => if isConfig then { l with cfgRetries := l.cfgRetries + 1 } else { l with urSent := l.urSent + 1 }))
  else .next s

/-- A function-level reset (R98, R100, R137). -/
def State.resetFunction (s : State) (k f : Nat) : State :=
  let s := s.killJobs (fun j => j.link == k && j.fn == f) true
  let s := s.modFn k f (fun x => { ({} : Fn) with msixSent := x.msixSent })
  let s := s.modSec (fun x => { x with queue := x.queue.filter (fun m =>
    match m.win with | .func a b => !(a.val == k && b.val == f) | _ => true) })
  if f = 0 then s.modLink k HostLink.doorbellReset else s

/-- FUNCTION_LEVEL_RESET (R98). Within a wider reset (a cold or module reset, or its link held by PERSTk#) it is absorbed and
logged (R101). -/
def execFunctionLevelReset (link : Fin 4) (fn : Fin 8) (s : State) : Res :=
  if s.running && decide (link.val < s.linkCount) then
    if (s.link link).perst then
      let (k, s) := s.draw
      .next (s.plogFixed 0x000E (Config.freeNat k % 65536))
    else .next (s.resetFunction link fn)
  else .next s.absorbReset

/-- D3HOT_ENTRY: with a live job, as a function-level reset (R110). -/
def execD3hotEntry (link : Fin 4) (fn : Fin 8) (s : State) : Res :=
  if s.running && decide (link.val < s.linkCount) && !(s.link link).perst then
    let live := s.wnd.jobs.any (fun j => j.link == link.val && j.fn == fn.val)
    .next ((if live then s.resetFunction link fn else s).modFn link fn (fun x => { x with d3hot := true }))
  else .next s

/-- DATA_LINK_DOWN not caused by PERSTk# (R110). -/
def execDataLinkDown (link : Fin 4) (s : State) : Res :=
  if s.powered && decide (link.val < s.linkCount) && !(s.link link).perst then
    .next ((s.resetLink link).modLink link (fun l => { l with ltssm := if l.ltssm = .idle then .idle else .detect }))
  else .next s

/-- Index `i` of a slot is acceptable: below the size, and a consumer index not past what the Winder wrote (R119). -/
def Ring.indexOk (r : Ring) (consumer : Bool) (i : Nat) : Bool :=
  decide (i < r.entries) && (!consumer || decide (r.dist r.head i ≤ r.dist r.head r.tail))

/-- INDEX_INVALID (R119, R132). -/
def State.indexInvalid (s : State) (k f which value : Nat) : State :=
  s.eventFn k f { code := 3, sev := 1, source := srcWinder, payload := which + value * 65536 }

/-- EVENT_OVERFLOW comes first once the event ring has space again (R133). -/
def State.eventOverflow (s : State) (k f : Nat) : State :=
  let fn := s.fn k f
  if fn.dropped = 0 ∨ fn.eq.full then s
  else
    let n := fn.dropped
    (s.modFn k f (fun x => { x with dropped := 0 })).eventFn k f { code := 2, sev := 1, source := srcWinder, payload := n }

/-- Act on one function's slot (R113, R119, R133). -/
def State.readSlot (s : State) (k f : Nat) (v : Nat) : State :=
  let fn := s.fn k f
  let q := bitsOf v 15 0
  let c := bitsOf v 31 16
  let e := bitsOf v 47 32
  let qOk := fn.sq.indexOk false q
  let cOk := fn.cq.indexOk true c
  let eOk := fn.eq.indexOk true e
  let s := s.modFn k f (fun x =>
    { x with sq := if x.sq.en && qOk then { x.sq with tail := q } else x.sq,
             cq := if x.cq.en && cOk then { x.cq with head := c } else x.cq,
             eq := if x.eq.en && eOk then { x.eq with head := e } else x.eq })
  let s := s.eventOverflow k f
  let s := if fn.sq.en && !qOk then s.indexInvalid k f 0 q else s
  let s := if fn.cq.en && !cOk then s.indexInvalid k f 1 c else s
  if fn.eq.en && !eOk then s.indexInvalid k f 2 e else s

/-- WND.POLL_CFG.IDLE_AFTER; 0 acts as 1 (R118). -/
def State.idleAfter (s : State) : Nat := max 1 (bitsOf s.wnd.pollCfg.toNat 15 8)

/-- The polling state after a completed read (R117). -/
def HostLink.polled (l : HostLink) (changed busy : Bool) (after : Nat) : HostLink :=
  if l.active then
    let n := if changed || busy then 0 else l.unchanged + 1
    if after ≤ n then { l with active := false, unchanged := 0 } else { l with unchanged := n }
  else if changed then { l with active := true, unchanged := 0 }
  else l

/-- DOORBELL_READ_COMPLETE (R114 to R121, R133). Reserved slot bits are ignored. -/
def execDoorbellReadComplete (link : Fin 4) (read : HostRead) (s : State) : Res :=
  let l := s.link link
  if s.running && l.dbEn && l.outstanding then
    match read with
    | .ok b =>
      if b.length ≠ 64 then .next s
      else
      let vals := (List.range 8).map (fun f => BitVec.ofNat 64 (field b (8 * f) 8 % 2 ^ 48))
      let changed := vals != l.slots
      let s := s.modLink link (fun l => { l with outstanding := false, readReq := none, dbErrRun := 0, slots := vals })
      let s := (List.range 8).foldl (fun s f => s.readSlot link f (vals.getD f 0).toNat) s
      let busy := s.wnd.jobs.any (fun j => j.link == link.val)
      let n := s.idleAfter
      .next (s.modLink link (fun l => l.polled changed busy n))
    | _ =>
      let s := s.modLink link (fun l => { l with outstanding := false, readReq := none, dbErr := satAdd 32 l.dbErr 1, dbErrRun := l.dbErrRun + 1 })
      if (s.link link).dbErrRun = 16 then
        let s := s.modLink link (fun l => { l with active := false, unchanged := 0 })
        .next ((s.eventFn link 0 { code := 4, sev := 2, source := srcWinder, payload := 16 }).mgtEvent 8)
      else .next s
  else .next s

/-- A doorbell read of a link starts unless one is outstanding: 64 bytes at DB_ADDR with the physical function's requester ID. In
D3hot the function requests nothing (R110, R116). -/
def State.startDoorbellRead (s : State) (k : Nat) : State :=
  s.modLink k (fun l =>
    if l.dbEn && !l.outstanding && !(l.fns.getD 0 {}).d3hot then
      { l with outstanding := true, readReq := some (0, l.dbAddr.toNat, 64) }
    else l)

/-- DOORBELL_FALLBACK_POLL: while the cadence is stopped every enabled page is read once every 2^20 ticks (R514). -/
def execDoorbellFallbackPoll (link : Fin 4) (s : State) : Res :=
  if s.running && s.time.stopped then .next (s.startDoorbellRead link) else .next s

/-- A waiting job stops its ring (R163). -/
def State.ringWaits (s : State) (k f : Nat) : Bool := s.wnd.jobs.any (fun j => j.link == k && j.fn == f && j.phase == .waiting)

/-- SUBMISSION_FETCH_COMPLETE: entries from the head up to SQ_TAIL, never beyond (R121). A failed fetch changes nothing and
is fetched again (log 39). -/
def execSubmissionFetchComplete (link : Fin 4) (fn : Fin 8) (read : HostRead) (s : State) : Res :=
  let f := s.fn link fn
  match read with
  | .ok b =>
    if s.running && f.sq.en then
      let n := min (b.length / 64) (f.sq.dist f.sq.head f.sq.tail - f.fetched.length)
      let es : List SubEntry := (List.range n).map (fun i => { bytes := sliceBytes b (64 * i) 64 })
      .next (s.modFn link fn (fun x => { x with fetched := x.fetched ++ es }))
    else .next s
  | _ => .next s

/-- The entry that consumption has reached, when its ring may go on (R121, R163). -/
def State.frontEntry (s : State) (k f : Nat) : Option Bytes :=
  if s.running && (s.fn k f).sq.en && !s.ringWaits k f then (s.fn k f).fetched.head?.map (·.bytes) else none

/-- Consume the front entry of a ring (R121). -/
def State.consumeEntry (s : State) (k f : Nat) : State :=
  s.modFn k f (fun x => { x with fetched := x.fetched.drop 1, sq := { x.sq with head := x.sq.succ x.sq.head } })

/-- A completion ring entry can be reserved (R121). -/
def Fn.canReserve (f : Fn) : Bool :=
  f.cq.en && decide (f.cq.dist f.cq.head f.cq.tail + f.reserved + 1 < f.cq.entries)

/-- Consume the front entry with a completion reservation (R121). -/
def State.consumeReserved (s : State) (k f : Nat) : State := (s.consumeEntry k f).modFn k f (fun x => { x with reserved := x.reserved + 1 })

/-- NOP (R123). -/
def execNop (link : Fin 4) (fn : Fin 8) (s : State) : Res :=
  match s.frontEntry link fn with
  | some b => if byteAt b 0 = 0 then .next (s.consumeEntry link fn) else .next s
  | none => .next s

/-- ENTRY_INVALID: a reserved OPCODE (R123, R132). -/
def execEntryInvalid (link : Fin 4) (fn : Fin 8) (s : State) : Res :=
  match s.frontEntry link fn with
  | some b =>
    if 3 ≤ byteAt b 0 then
      let i := (s.fn link fn).sq.head
      .next ((s.consumeEntry link fn).eventFn link fn { code := 1, sev := 1, source := srcWinder, payload := i + byteAt b 0 * 65536 })
    else .next s
  | none => .next s

/-- The DETAIL of a SUBMIT_JOB entry that ends at once, in the order of R124's table (log 40). -/
def State.entryFault (s : State) (p : Nat) (b : Bytes) : Option Nat :=
  let fl := byteAt b 1
  let len := field b 16 4
  if bitOf fl 1 && (s.part p).session.isNone then some 2
  else if !bitOf fl 1 && (s.part p).flag 1 then some 3
  else if field b 8 8 % 64 ≠ 0 ∨ len % 64 ≠ 0 ∨ len < 64 ∨ 4194304 < len then some 4
  else if s.wnd.jobs.any (fun j => j.part == p && j.id.toNat == field b 4 4) then some 5
  else if 4 ≤ fl ∨ field b 2 2 ≠ 0 ∨ field b 20 4 ≠ 0 ∨ !zeroBytes b 32 63 then some 6
  else none

/-- SUBMIT_JOB: the live-job limits, the reservation, then the descriptor fetch or a job-end entry at once (R121 to R125,
R163). -/
def execSubmitJob (link : Fin 4) (fn : Fin 8) (s : State) : Res :=
  match s.frontEntry link fn, s.fnPart link fn with
  | some b, some p =>
    if byteAt b 0 ≠ 1 ∨ 1024 ≤ s.wnd.jobs.length ∨ (s.part p).liveJobs ≤ s.liveJobsOf p ∨ !(s.fn link fn).canReserve then .next s
    else
      let id := BitVec.ofNat 32 (field b 4 4)
      let tag := BitVec.ofNat 64 (field b 24 8)
      let irq := bitOf (byteAt b 1) 0
      let fault := s.entryFault p b
      let s := s.consumeReserved link fn
      match fault with
      | some d => .next (s.complete link fn id 0 0x10A (BitVec.ofNat 32 d) tag irq)
      | none =>
        let j : Job :=
          { id := id, link := link, fn := fn, part := p, irq := irq, sealed := bitOf (byteAt b 1) 1, userTag := tag,
            descAddr := BitVec.ofNat 64 (field b 8 8), descLen := field b 16 4, ringPos := s.wnd.serial, phase := .fetching }
        .next (s.modWnd (fun w => { w with jobs := w.jobs ++ [j], serials := w.serials ++ [w.serial], serial := w.serial + 1 }))
  | _, _ => .next s

/-- ABORT_JOB: before the commit point the job is aborted, otherwise the abort is late (R127 to R130, R163). A second abort of a
job that is being aborted is late too (DESIGN CHOICE, log 113). -/
def execAbortJob (link : Fin 4) (fn : Fin 8) (s : State) : Res :=
  match s.frontEntry link fn with
  | some b =>
    if byteAt b 0 ≠ 2 ∨ !(s.fn link fn).canReserve then .next s
    else
      let id := BitVec.ofNat 32 (field b 4 4)
      let irq := bitOf (byteAt b 1) 0
      let s := s.consumeReserved link fn
      match s.jobList.find? (fun x => x.2.link == link.val && x.2.fn == fn.val && x.2.id == id) with
      | none => .next (s.complete link fn id 1 2 0 0 irq)
      | some (ser, j) =>
        let late := j.ending.isSome || (j.phase == .live && j.tasks.all (fun t => t.st.final))
        let s := s.modJob ser (fun j => { j with acks := j.acks ++ [(if late then 2 else 1, irq)] })
        if late then .next s else .next (s.failJob ser 1 0)
  | none => .next s

/-! ### Validation of a graph descriptor (R141 to R147) -/

/-- Field offsets of a graph header, read once. -/
structure Graph where
  bytes : Bytes
  tasks : Nat
  edgeOff : Nat
  edges : Nat
  predOff : Nat
  preds : Nat
  deriving DecidableEq, Repr

/-- The header's fields (R141). -/
def parseGraph (b : Bytes) : Graph :=
  { bytes := b, tasks := field b 6 2, edgeOff := field b 8 4, edges := field b 12 4, predOff := field b 16 4, preds := byteAt b 20 }

/-- Entry `i` of the task table (R142). -/
def Graph.task (g : Graph) (i : Nat) : Bytes := sliceBytes g.bytes (64 + 64 * i) 64
/-- Entry `i` of the edge table (R145). -/
def Graph.edge (g : Graph) (i : Nat) : Edge :=
  let b := sliceBytes g.bytes (g.edgeOff + 8 * i) 8
  { src := field b 0 2, dst := field b 2 2, resolve := byteAt b 4 == 1 }
/-- Entry `i` of the predicate table (R147). -/
def Graph.predBytes (g : Graph) (i : Nat) : Bytes := sliceBytes g.bytes (g.predOff + 16 * i) 16

/-- Check 0x11: the tables and their offsets lie within the descriptor, and no table overlaps another (R141, R146; an empty table
occupies nothing, and a misaligned offset or a count out of range fails here, log 41). -/
def Graph.layoutOk (g : Graph) : Bool :=
  let n := g.bytes.length
  let t := 64 + 64 * g.tasks
  let e := g.edgeOff + 8 * g.edges
  let p := g.predOff + 16 * g.preds
  decide (1 ≤ g.tasks) && decide (t ≤ n) && g.edgeOff % 8 == 0 && g.predOff % 16 == 0 && decide (g.preds ≤ 64)
    && decide (e ≤ n) && decide (p ≤ n)
    && (g.edges == 0 || decide (t ≤ g.edgeOff)) && (g.preds == 0 || decide (t ≤ g.predOff))
    && (g.edges == 0 || g.preds == 0 || decide (e ≤ g.predOff) || decide (p ≤ g.edgeOff))

/-- TAG of a learning task is well formed (R393; log 41 on GATE_COUNT). -/
def learningTagOk (tag : Nat) : Bool :=
  bitsOf tag 39 38 == 0 && bitsOf tag 63 59 == 0 && (if bitOf tag 50 then bitsOf tag 58 51 != 0 else bitsOf tag 58 51 == 0)

/-- No reserved code, field or bit in a task entry (R142, R143, R393). -/
def taskEntryOk (b : Bytes) : Bool :=
  decide (byteAt b 0 < 3) && decide (byteAt b 1 < 16) && (decide (byteAt b 2 < 64) || byteAt b 2 == 255) && byteAt b 3 == 0
    && decide (field b 32 8 < 2 ^ 44) && zeroBytes b 40 63 && (byteAt b 0 != 1 || learningTagOk (field b 24 8))

/-- No reserved code, field or bit in a predicate entry (R147). -/
def predEntryOk (b : Bytes) : Bool :=
  inRange (byteAt b 0) 1 3 && byteAt b 1 == 0 && zeroBytes b 10 15 && (byteAt b 0 == 1 || field b 2 2 == 0)

/-- Check 0x12 (R141 to R147). -/
def Graph.reservedOk (g : Graph) : Bool :=
  let b := g.bytes
  decide (byteAt b 24 < 2) && zeroBytes b 26 31 && decide (field b 32 8 < 2 ^ 44) && zeroBytes b 40 63
    && (List.range g.tasks).all (fun i => taskEntryOk (g.task i))
    && (List.range g.edges).all (fun i =>
      let e := sliceBytes b (g.edgeOff + 8 * i) 8
      decide (byteAt e 4 < 2) && zeroBytes e 5 7)
    && (List.range g.preds).all (fun i => predEntryOk (g.predBytes i))

/-- Check 0x13 (R146). A BUCKET_COUNT of 0, for which R147 gives no check, fails here too (DESIGN CHOICE, log 41). -/
def Graph.indicesOk (g : Graph) (colls : Nat) : Bool :=
  (List.range g.edges).all (fun i => let e := g.edge i; decide (e.src < g.tasks) && decide (e.dst < g.tasks))
    && (List.range g.tasks).all (fun i => let k := byteAt (g.task i) 2; k == 255 || decide (k < g.preds))
    && (List.range g.preds).all (fun i =>
      let b := g.predBytes i
      if byteAt b 0 = 1 then decide (field b 2 2 < g.tasks)
      else decide (field b 4 2 < colls) && decide (1 ≤ field b 8 2) && decide (field b 6 2 + field b 8 2 ≤ 4096))

/-- Tasks left after `n` rounds of taking away tasks without a predecessor among those left. -/
def peel (es : List Edge) : Nat → List Nat → List Nat
  | 0, l => l
  | n + 1, l => peel es n (l.filter (fun t => es.any (fun e => e.dst == t && l.contains e.src)))

/-- Tasks that reach one of `l` in `n` steps of edges or fewer. -/
def ancestors (es : List Edge) : Nat → List Nat → List Nat
  | 0, l => l
  | n + 1, l => ancestors es n ((es.filter (fun e => l.contains e.dst)).foldl (fun l e => insertSorted e.src l) l)

/-- Check 0x14 (R146). -/
def Graph.orderOk (g : Graph) : Bool :=
  let es := (List.range g.edges).map g.edge
  es.all (fun e => e.src != e.dst) && (peel es g.tasks (List.range g.tasks)).isEmpty
    && (List.range g.preds).all (fun k =>
      let b := g.predBytes k
      byteAt b 0 != 1 ||
        let reach := ancestors es g.tasks [field b 2 2]
        (List.range g.tasks).all (fun i => byteAt (g.task i) 2 != k || !reach.contains i))

/-- Check 0x15 (R141, R146). -/
def Graph.rangesOk (g : Graph) : Bool :=
  let k := field g.bytes 22 2
  inRange k 256 2048 && k % 64 == 0 && decide (byteAt g.bytes 25 ≤ 12)

/-- Check 0x16 (R146, R164). -/
def State.placesOk (s : State) (p : Nat) (g : Graph) : Bool :=
  (List.range g.tasks).all (fun i =>
    let b := g.task i
    let aff := field b 4 2
    let core := field b 6 2
    (byteAt b 0 != 1 || aff == 0xFFFF || s.pillarExists p aff)
      && (!bitOf (byteAt b 1) 2 || (s.inPool p core && (byteAt b 0 != 2 || isAttention core))))

/-- The first check of R146 that a descriptor fails, as its DETAIL. -/
def State.graphFault (s : State) (p : Nat) (b : Bytes) : Option Nat :=
  let g := parseGraph b
  let P := s.part p
  if field b 0 4 ≠ 0x4C584A42 ∨ field b 4 2 ≠ 1 then some 0x10
  else if !g.layoutOk then some 0x11
  else if !g.reservedOk then some 0x12
  else if !g.indicesOk (let n := bitsOf P.collCount.toNat 8 0; if n ≤ 256 then n else 0) then some 0x13
  else if !g.orderOk then some 0x14
  else if !g.rangesOk then some 0x15
  else if !s.placesOk p g then some 0x16
  else if P.taskLimit < g.tasks ∨ P.maxStaging < field b 22 2 then some 0x17
  else none

/-- A task entry as the job's table holds it (R142). A beat already counted is met (R139). -/
def parseTask (now : Nat) (b : Bytes) : TaskSt :=
  let nb := field b 32 8
  { cls := BitVec.ofNat 8 (byteAt b 0), flags := BitVec.ofNat 8 (byteAt b 1), pred := BitVec.ofNat 8 (byteAt b 2),
    affinity := field b 4 2, coreFix := field b 6 2, program := BitVec.ofNat 64 (field b 8 8),
    argAddr := BitVec.ofNat 64 (field b 16 8), tag := BitVec.ofNat 64 (field b 24 8), notBefore := nb,
    notBeforeMet := decide (nb ≤ now) }

/-- A predicate entry as the job's table holds it (R147). -/
def parsePred (b : Bytes) : Pred :=
  { source := byteAt b 0, task := field b 2 2, coll := field b 4 2, first := field b 6 2, count := field b 8 2 }

/-- Fill a job from its validated graph (R141 to R147). -/
def Job.fill (j : Job) (now : Nat) (b : Bytes) : Job :=
  let g := parseGraph b
  let sb := field b 32 8
  { j with tasks := (List.range g.tasks).map (fun i => parseTask now (g.task i)), edges := (List.range g.edges).map g.edge,
           preds := (List.range g.preds).map (fun i => parsePred (g.predBytes i)), replayLimit := byteAt b 21,
           stagingKib := field b 22 2, shadow := bitOf (byteAt b 24) 0, shadowShift := byteAt b 25, startBeat := sb,
           startMet := decide (sb ≤ now) }

/-- The enabled entries of a partition's watch table; a table that cannot be read gives none (R529; log 42). -/
def State.watchTable (s : State) (p : Nat) : List WatchEntry :=
  let w := (s.part p).trcWatch.toNat
  let n := min 16 (bitsOf w 52 48)
  (List.range n).filterMap (fun i =>
    match s.readVa p (bitsOf w 47 6 * 64 + 64 * i) 64 with
    | none => none
    | some b =>
      if bitOf (byteAt b 17) 0 && decide (byteAt b 17 < 2) && zeroBytes b 18 23 && zeroBytes b 32 63
          && inRange (field b 8 4) 1 67108864 then
        some { index := i, va := field b 0 8, length := field b 8 4, version := field b 12 4, mb := byteAt b 16, dest := field b 24 8 }
      else none)

/-- The live-task counts let a validated job into the scoreboard (R163). -/
def State.jobFits (s : State) (j : Job) : Bool :=
  decide (s.liveTasks + j.tasks.length ≤ 262144) && decide (s.liveTasksOf j.part + j.tasks.length ≤ (s.part j.part).taskLimit)

/-- A job enters the scoreboard (R139, R163, R171). -/
def State.enterScoreboard (s : State) (ser : Nat) : State := (s.modJob ser (fun j => { j with phase := .live })).settleJob ser

/-- A descriptor has been read and opened: validation, the watch copy, read through the memory groups, waiting signals, and the
scoreboard (R146, R163, R351, R430, R529). -/
def State.descriptor (s : State) (ser : Nat) (j : Job) (b : Bytes) : State :=
  match s.graphFault j.part b with
  | some d => s.failJob ser 0x10A (BitVec.ofNat 32 d)
  | none =>
    let w := s.watchTable j.part
    let at0 := (s.part j.part).trcWatch.toNat
    let s := s.touchVa j.part (bitsOf at0 47 6 * 64) (64 * min 16 (bitsOf at0 52 48))
    let s := s.modJob ser (fun j => { j.fill s.time.beat.toNat b with watch := w, phase := .waiting })
    let s := s.takeWaiting ser
    match s.job ser with
    | some j => if s.jobFits j then s.enterScoreboard ser else s
    | none => s

/-- DESCRIPTOR_READ_COMPLETE (R124, R146, R163, R498). -/
def execDescriptorReadComplete (job : Nat) (read : HostRead) (s : State) : Res :=
  match s.job job with
  | some j =>
    if !s.running || j.phase != .fetching then .next s
    else
      match read with
      | .ok b =>
        if b.length ≠ j.descLen then .next s
        else if j.sealed then
          match s.openEnvelope j.part b with
          | some (s, t) => .next (s.descriptor job j t)
          | none => .next (s.failJob job 0x10A 2)
        else .next (s.descriptor job j b)
      | .poisoned => .next (s.failJob job 0x101 1)
      | _ => .next (s.failJob job 0x100 1)
  | none => .next s

/-- JOB_ENTER_SCOREBOARD: a waiting job fits (R163). -/
def execJobEnterScoreboard (job : Nat) (s : State) : Res :=
  match s.job job with
  | some j => if s.running && j.phase == .waiting && s.jobFits j then .next (s.enterScoreboard job) else .next s
  | none => .next s

/-- MSIX_HOLDOFF_END: the hold-off of vector 0 or 1 ends by beats, or by ticks while the cadence is stopped (R135, R514). -/
def execMsixHoldoffEnd (link : Fin 4) (fn : Fin 8) (vector : Fin 2) (s : State) : Res :=
  let f := s.fn link fn
  match f.holdEnd.getD vector none with
  | none => .next s
  | some b =>
    if s.running && (decide (b ≤ s.time.counted) || (s.time.stopped && decide (2 ^ 20 ≤ f.holdTicks.getD vector 0))) then
      let pend := f.holdPending.getD vector false
      let s := s.modFn link fn (fun x => { x with holdEnd := x.holdEnd.set vector none, holdPending := x.holdPending.set vector false })
      .next (if pend then s.msix link fn vector else s)
    else .next s

end Sys2Proof.Machine
end

