-- ==== Sys2Proof/Machine/Regs.lean ====
section
/-! DEFINITION. Register writes: access codes, locks and the registers whose writes act (R12, R13, R107, R112, R213, R214,
R481, R521, R524, R538, R539, R542 to R563). -/

namespace Sys2Proof.Machine

/-- The part of a 64-bit register that a write reaches: the value placed in its 64 bits, and which halves are written. -/
structure WriteHalf where
  v : Nat
  lo : Bool
  hi : Bool
  deriving DecidableEq, Repr

/-- A field [f.1:f.2] is written; one that spans bit 32 needs both halves (R543). -/
def WriteHalf.hits (w : WriteHalf) (f : Nat × Nat) : Bool := if f.1 < 32 then w.lo else if 32 ≤ f.2 then w.hi else w.lo && w.hi

/-- A register with its written fields replaced (R12, R13, R543). -/
def WriteHalf.merge (w : WriteHalf) (old : BitVec 64) (fs : List (Nat × Nat)) : BitVec 64 :=
  fs.foldl (fun (r : BitVec 64) f =>
    if w.hits f then
      let m := (2 ^ (f.1 + 1 - f.2) - 1) * 2 ^ f.2
      (r &&& ~~~(BitVec.ofNat 64 m)) ||| BitVec.ofNat 64 (bitsOf w.v f.1 f.2 * 2 ^ f.2)
    else r) old

/-- A refused access is counted for its window (R107, R543, R544). -/
def State.refuseAccess (s : State) (w : Window) : State :=
  match w with
  | .mgmt => s.modMgt (fun m => { m with refusedCount := satAdd 32 m.refusedCount 1 })
  | .func k f | .bar2 k f => s.modFn k f (fun x => { x with errCount := satAdd 32 x.errCount 1 })
  | .config _ _ => s

/-- A write to RWL fields: ignored and counted once a lock is taken, else done (R12, R546). -/
def lockedWrite (locked hit : Bool) (viol go : State → State) (s : State) : State :=
  if !hit then s else if locked then viol s else go s

/-- A ring's checks of R112. -/
def Ring.configOk (r : Ring) (hasPart : Bool) : Bool :=
  let n := r.entries
  hasPart && r.base.toNat % 4096 == 0 && inRange n 16 65536 && (List.range 17).any (fun k => n == 2 ^ k)

/-- Enabling a ring whose bit is written 1 (R112, R549). -/
def Ring.enable (r : Ring) (want hasPart : Bool) : Ring × Bool :=
  if !want || r.en then (r, false)
  else if r.configOk hasPart then ({ en := true, base := r.base, size := r.size }, false)
  else (r, true)

/-- A write to HIF.RING_CTRL (R112, R549). -/
def Fn.ringWrite (f : Fn) (v : Nat) (hasPart : Bool) : Fn :=
  let a := f.sq.enable (bitOf v 0) hasPart
  let b := f.cq.enable (bitOf v 1) hasPart
  let c := f.eq.enable (bitOf v 2) hasPart
  { f with sq := a.1, cq := b.1, eq := c.1, configError := f.configError || a.2 || b.2 || c.2 }

/-- A write to HIF.DB_CTRL (R118, R550). The slot values read before a disable stay, and the first read after the next enable is
compared with them (DESIGN CHOICE, log 107). -/
def State.doorbellWrite (s : State) (k v : Nat) : State :=
  let l := s.link k
  let bad := bitOf v 0 && l.dbAddr.toNat % 64 != 0
  let en := bitOf v 0 && !bad
  let s := if bad then s.modFn k 0 (fun f => { f with configError := true }) else s
  s.modLink k (fun l =>
    { l with dbEn := en, moduleEvents := bitOf v 1, active := if en && l.dbEn then l.active else false,
             unchanged := if en && l.dbEn then l.unchanged else 0, dbErrRun := if en && l.dbEn then l.dbErrRun else 0 })

/-- A write to BASE or SIZE of a ring: counted when the ring is enabled (R549). -/
def State.ringParam (s : State) (k f : Nat) (w : WriteHalf) (get : Fn → Ring) (put : Fn → Ring → Fn) (isBase : Bool) : State :=
  let fn := s.fn k f
  let r := get fn
  let fs : List (Nat × Nat) := if isBase then [(63, 0)] else [(16, 0)]
  lockedWrite fn.locked (fs.any w.hits) (fun s => s.modFn k f (fun x => { x with lockViol := satAdd 32 x.lockViol 1 }))
    (fun s =>
      if r.en then s.modFn k f (fun x => { x with errCount := satAdd 32 x.errCount 1 })
      else s.modFn k f (fun x => put x (if isBase then { r with base := w.merge r.base fs } else { r with size := w.merge r.size fs }))) s

/-- Writes to the HIF block (R547 to R550). -/
def State.hifWrite (s : State) (k f o : Nat) (w : WriteHalf) : State :=
  let fn := s.fn k f
  let viol (s : State) : State := s.modFn k f (fun x => { x with lockViol := satAdd 32 x.lockViol 1 })
  if o = 0x008 then (if w.lo && bitOf w.v 0 then s.modFn k f (fun x => { x with configError := false }) else s)
  else if o = 0x010 then (if w.lo && bitOf w.v 0 then s.modFn k f (fun x => { x with locked := true }) else s)
  else if o = 0x018 then
    lockedWrite fn.locked w.lo viol (fun s =>
      let hp := (s.fnPart k f).isSome
      s.modFn k f (fun x => x.ringWrite w.v hp)) s
  else if o = 0x020 then s.ringParam k f w (·.sq) (fun x r => { x with sq := r }) true
  else if o = 0x028 then s.ringParam k f w (·.sq) (fun x r => { x with sq := r }) false
  else if o = 0x030 then s.ringParam k f w (·.cq) (fun x r => { x with cq := r }) true
  else if o = 0x038 then s.ringParam k f w (·.cq) (fun x r => { x with cq := r }) false
  else if o = 0x040 then s.ringParam k f w (·.eq) (fun x r => { x with eq := r }) true
  else if o = 0x048 then s.ringParam k f w (·.eq) (fun x r => { x with eq := r }) false
  else if o = 0x058 then
    (if w.lo then s.modFn k f (fun x => { x with msiHoldoff := BitVec.ofNat 8 w.v }) else s)
  else if o = 0x080 then
    lockedWrite fn.locked (w.hits (63, 0)) viol (fun s => s.modLink k (fun l => { l with dbAddr := w.merge l.dbAddr [(63, 0)] })) s
  else if o = 0x088 then lockedWrite fn.locked w.lo viol (fun s => s.doorbellWrite k w.v) s
  else s

/-- Writes to the SEC block. GO is the row MAILBOX_GO, which carries the request it reads (R481, R551). -/
def State.secWrite (s : State) (k f o : Nat) (w : WriteHalf) : State :=
  let fn := s.fn k f
  if o = 0x000 then
    if fn.mboxBusy then s.modFn k f (fun x => { x with errCount := satAdd 32 x.errCount 1 })
    else s.modFn k f (fun x => { x with mboxAddr := w.merge x.mboxAddr [(63, 0)] })
  else s

/-- The epoch record that a sample of a core returns to a partition (R213, R214, R555). -/
def State.sample (s : State) (p n : Nat) : Epoch :=
  let c := s.core n
  let e := if c.phase == .idle || c.phase == .waitClock then c.frozen else c.epoch
  if n < 192 ∧ e.part = p then e else {}

/-- Writes to the PART block (R370, R553 to R555). -/
def State.partWrite (s : State) (p o : Nat) (w : WriteHalf) : State :=
  let P := s.part p
  let viol (s : State) : State := s.modPart p (fun x => { x with lockViol := satAdd 32 x.lockViol 1 })
  let rwl (fs : List (Nat × Nat)) (g : Part → Part) : State :=
    lockedWrite P.locked (fs.any w.hits) viol (fun s => s.modPart p g) s
  if o = 0x008 then (if w.lo && bitOf w.v 0 then s.modPart p (fun x => { x with locked := true }) else s)
  else if o = 0x050 then rwl [(15, 0), (31, 16)] (fun x => { x with fetch := w.merge x.fetch [(15, 0), (31, 16)] })
  else if o = 0x058 then rwl [(15, 0)] (fun x => { x with xlatCfg := w.merge x.xlatCfg [(15, 0)] })
  else if o = 0x060 then rwl [(63, 0)] (fun x => { x with collBase := w.merge x.collBase [(63, 0)] })
  else if o = 0x068 then rwl [(8, 0)] (fun x => { x with collCount := w.merge x.collCount [(8, 0)] })
  else if o = 0x080 then
    if w.lo then
      let r := (s.sample p (bitsOf w.v 7 0)).words
      s.modPart p (fun x => { x with sampleCore := w.merge x.sampleCore [(7, 0)], sampleRec := r })
    else s
  else s

/-- TRC.CFG takes a value; ENABLE from 0 to 1 takes BASE and SIZE up (R524, R556). -/
def Part.traceCfgWrite (p : Part) (w : WriteHalf) : Part :=
  let v := w.merge p.trcCfg [(15, 0), (16, 16), (17, 17), (31, 24), (63, 32)]
  if !bitOf p.trcCfg.toNat 16 && bitOf v.toNat 16 then
    { p with trcCfg := v, trcActiveBase := p.trcBase, trcActiveSize := bitsOf v.toNat 63 32, trcHead := 0, trcWrapped := false }
  else { p with trcCfg := v }

/-- Writes to the TRC block (R524, R529, R556). -/
def State.trcWrite (s : State) (p o : Nat) (w : WriteHalf) : State :=
  if o = 0x000 then s.modPart p (fun x => { x with trcBase := w.merge x.trcBase [(63, 0)] })
  else if o = 0x010 then s.modPart p (fun x => x.traceCfgWrite w)
  else if o = 0x018 then s.modPart p (fun x => { x with trcWatch := w.merge x.trcWatch [(47, 0), (52, 48)] })
  else s

/-- Writes to PLOG by a reader (R538, R539, R560). -/
def State.plogWrite (s : State) (win : Window) (o : Nat) (w : WriteHalf) : State :=
  let cur (x : BitVec 32) : BitVec 32 :=
    (w.merge (x.setWidth 64) [(1, 0), (3, 2), (14, 4)]).setWidth 32
  if o = 0x018 then
    match win with
    | .mgmt => s.modPlog (fun p => { p with cursor := cur p.cursor })
    | .func k _ | .bar2 k _ | .config k _ => s.modFn k 0 (fun f => { f with plogCursor := cur f.plogCursor })
  else if win != .mgmt then s
  else if o = 0x000 then
    let s := if w.lo && bitOf w.v 0 then s.modPlog (fun p => { p with frozen := true, unfroze := false }) else s
    if w.lo && bitOf w.v 1 then (s.modPlog (fun p => { p with frozen := false, unfroze := true })).plogDrain 64 false else s
  else if 0x100 ≤ o ∧ o < 0x200 then
    s.modPlog (fun p => { p with trig := p.trig.modify ((o - 0x100) / 8) (fun x => w.merge x [(15, 0), (18, 16), (19, 19)]) })
  else if 0x200 ≤ o ∧ o < 0x240 then
    s.modPlog (fun p => { p with listCount := p.listCount.modify ((o - 0x200) / 8) (fun x => w.merge x [(5, 0)]) })
  else if 0x400 ≤ o ∧ o < 0xB00 then
    let i := (o - 0x400) / 4
    let s := if w.lo then s.modPlog (fun p => { p with lists := p.lists.set i (BitVec.ofNat 32 (bitsOf w.v 23 0)) }) else s
    if w.hi then s.modPlog (fun p => { p with lists := p.lists.set (i + 1) (BitVec.ofNat 32 (bitsOf w.v 55 32)) }) else s
  else s

/-- Writes to WND, MEMC, LNK, TMB and MGT from a window with the right (R376, R413, R515, R521, R552 to R563). -/
def State.moduleWrite (s : State) (b o : Nat) (w : WriteHalf) : State :=
  let rwl (fs : List (Nat × Nat)) (viol go : State → State) : State := lockedWrite s.mgt.locked (fs.any w.hits) viol go s
  let wnd (s : State) : State := s.modWnd (fun x => { x with lockViol := satAdd 32 x.lockViol 1 })
  let memc (s : State) : State := s.modMem (fun x => { x with memcLockViol := satAdd 32 x.memcLockViol 1 })
  let lnk (s : State) : State := s.modLnk (fun x => { x with lockViol := satAdd 32 x.lockViol 1 })
  let tmb (s : State) : State := s.modTime (fun x => { x with lockViol := satAdd 32 x.lockViol 1 })
  let mgt (s : State) : State := s.modMgt (fun x => { x with lockViol := satAdd 32 x.lockViol 1 })
  if b = 0x10 ∧ o = 0x000 then
    rwl [(2, 0), (15, 8)] wnd (fun s => s.modWnd (fun x => { x with pollCfg := w.merge x.pollCfg [(2, 0), (15, 8)] }))
  else if b = 0x11 ∧ o = 0x000 then rwl [(7, 0)] memc (fun s => s.modMem (fun x => { x with scrubCfg := w.merge x.scrubCfg [(7, 0)] }))
  else if b = 0x11 ∧ o = 0x008 then rwl [(7, 0)] memc (fun s => s.modMem (fun x => { x with retireCfg := w.merge x.retireCfg [(7, 0)] }))
  else if b = 0x12 ∧ o = 0x000 then rwl [(11, 0)] lnk (fun s => s.modLnk (fun x => { x with node := w.merge x.node [(11, 0)] }))
  else if b = 0x12 ∧ o = 0x008 then
    rwl [(5, 0), (15, 8), (47, 16)] lnk (fun s => s.modLnk (fun x => { x with cfg := w.merge x.cfg [(5, 0), (15, 8), (47, 16)] }))
  else if b = 0x13 ∧ o = 0x008 then
    rwl [(1, 0), (2, 2), (27, 8)] tmb (fun s => s.modTime (fun x =>
      let c := w.merge x.cadCfg [(1, 0), (2, 2), (27, 8)]
      { x with cadCfg := c, cadenceOut := x.cadenceOut && bitsOf c.toNat 1 0 == 2 }))
  else if b = 0x13 ∧ o = 0x018 then
    rwl [(7, 0), (10, 8), (11, 11)] tmb (fun s => s.modTime (fun x =>
      { x with sync := w.merge x.sync [(7, 0), (10, 8)] ||| (if w.lo && bitOf w.v 11 then 0x800 else 0) }))
  else if b = 0x15 ∧ o = 0x020 then
    let clr := w.merge 0 ((List.range 11).map (fun i => (i, i)))
    s.modMgt (fun x => { x with events := x.events &&& ~~~clr })
  else if b = 0x15 ∧ o = 0x028 then rwl [(10, 0)] mgt (fun s => s.modMgt (fun x => { x with mask := w.merge x.mask [(10, 0)] }))
  else if b = 0x15 ∧ o = 0x040 then (if w.lo && bitOf w.v 0 then s.modMgt (fun x => { x with locked := true }) else s)
  else s

/-- A register lies at an offset that an access of 4 or 8 bytes touches. -/
def State.holdsRegister (s : State) (w : Window) (o size : Nat) : Bool :=
  (s.regAt w o).isSome || (size == 8 && (s.regAt w (o + 4)).isSome)
    || (size == 4 && o % 8 == 4 && (match s.regAt w (o - 4) with | some (8, _) => true | _ => false))

/-- A host link carries requests: configuration space and BARs are open from B7, the strap gives the link, PERSTk# does not hold
it in reset, and it is in L0 (R40, R82, R103). -/
def State.linkUp (s : State) (k : Nat) : Bool :=
  s.running && decide (k < s.linkCount) && !(s.link k).perst && (s.link k).ltssm == .l0

/-- A window covers the access: the management window, a function's BARs unless it is in D3hot, and its configuration space (R40,
R82, R103, R106, R108, R543). -/
def State.windowCovers (s : State) (w : Window) (o size : Nat) : Bool :=
  match w with
  | .mgmt => s.housekeeping && decide (o + size ≤ 0x100000)
  | .func k f => s.linkUp k && !(s.fn k f).d3hot && decide (o + size ≤ (if f.val = 0 then 0x100000 else 0x10000))
  | .bar2 k f => s.linkUp k && !(s.fn k f).d3hot && decide (o + size ≤ 0x1000)
  | .config k _ => s.linkUp k && decide (o + size ≤ 0x1000)

/-- The 4-byte words that a write reaches, by offset. -/
def WriteHalf.words (w : WriteHalf) (a : Nat) : List (Nat × Nat) :=
  (if w.lo then [(a, w.v % 2 ^ 32)] else []) ++ (if w.hi then [(a + 4, w.v / 2 ^ 32)] else [])

/-- A word of the MSI-X table is written; the Pending Bit Array is RO (R106, R134). -/
def Fn.bar2Word (f : Fn) (o v : Nat) : Fn :=
  if 64 ≤ o then f
  else
    { f with msixTable := f.msixTable.modify (o / 16) (fun e =>
        match o % 16 / 4 with
        | 0 => { e with addr := BitVec.ofNat 64 (e.addr.toNat / 2 ^ 32 * 2 ^ 32 + v) }
        | 1 => { e with addr := BitVec.ofNat 64 (e.addr.toNat % 2 ^ 32 + v * 2 ^ 32) }
        | 2 => { e with data := BitVec.ofNat 32 v }
        | _ => { e with mask := bitOf v 0 }) }

/-- Writes to BAR2; a vector that opens sends its pending message (R106, R134). -/
def State.bar2Write (s : State) (k f a : Nat) (w : WriteHalf) : State :=
  (s.modFn k f (fun x => (w.words a).foldl (fun x p => x.bar2Word p.1 p.2) x)).msixRelease k f

/-- One half of a BAR's base is written. -/
def barSet (base : BitVec 64) (v : Nat) (high : Bool) : BitVec 64 :=
  if high then BitVec.ofNat 64 (base.toNat % 2 ^ 32 + v * 2 ^ 32) else BitVec.ofNat 64 (base.toNat / 2 ^ 32 * 2 ^ 32 + v)

/-- A word of configuration space is written: the registers that PCI Express 7.0 makes writable, within the limits of R103 (Max
Payload Size to 512 B, Max Read Request Size to 4,096 B; a code beyond keeps the old one). Moving to D3hot and initiating an
FLR are rows of their own (R103, R106, R108; log 110). -/
def Fn.configWord (x : Fn) (pf : Bool) (o v : Nat) : Fn :=
  let c := x.cfg
  let put (c : CfgSpace) : Fn := { x with cfg := c }
  match o with
  | 0x04 => put { c with command := BitVec.ofNat 16 (v &&& 0x547) }
  | 0x10 => if pf then put { c with bar0 := barSet c.bar0 v false } else x
  | 0x14 => if pf then put { c with bar0 := barSet c.bar0 v true } else x
  | 0x18 => if pf then put { c with bar2 := barSet c.bar2 v false } else x
  | 0x1C => if pf then put { c with bar2 := barSet c.bar2 v true } else x
  | 0x44 => if pf && bitsOf v 1 0 == 0 then { x with d3hot := false } else x
  | 0x50 => put { c with msixMask := bitOf v 30, msixEnable := bitOf v 31 }
  | 0x68 =>
    let mps := if bitsOf v 7 5 ≤ 2 then bitsOf v 7 5 else bitsOf c.devCtl.toNat 7 5
    let mrrs := if bitsOf v 14 12 ≤ 5 then bitsOf v 14 12 else bitsOf c.devCtl.toNat 14 12
    put { c with devCtl := BitVec.ofNat 16 (bitsOf v 4 0 + 32 * mps + 256 * bitsOf v 11 8 + 4096 * mrrs) }
  | 0x178 => if pf then put { c with sriov := BitVec.ofNat 16 (v &&& 0x19) } else x
  | 0x180 => if pf && decide (v % 2 ^ 16 ≤ 7) then put { c with numVfs := BitVec.ofNat 16 v } else x
  | 0x194 => if pf then put { c with vfBar0 := barSet c.vfBar0 v false } else x
  | 0x198 => if pf then put { c with vfBar0 := barSet c.vfBar0 v true } else x
  | 0x19C => if pf then put { c with vfBar2 := barSet c.vfBar2 v false } else x
  | 0x1A0 => if pf then put { c with vfBar2 := barSet c.vfBar2 v true } else x
  | _ => x

/-- Writes to configuration space (R103, R108). -/
def State.configWrite (s : State) (k f a : Nat) (w : WriteHalf) : State :=
  (s.modFn k f (fun x => (w.words a).foldl (fun x p => x.configWord (f == 0) p.1 p.2) x)).msixRelease k f

/-- A write of 4 or 8 bytes in a window (R12, R107, R543 to R546). -/
def State.regWrite (s : State) (w : Window) (o size v : Nat) : State :=
  let aligned := (size == 4 || size == 8) && o % max 1 size == 0
  if !aligned then s.refuseAccess w
  else if !s.holdsRegister w o size then s.refuseAccess w
  else
    let a := o / 8 * 8
    let h : WriteHalf :=
      if size = 8 then { v := v % 2 ^ 64, lo := true, hi := true }
      else if o % 8 = 0 then { v := v % 2 ^ 32, lo := true, hi := false }
      else { v := v % 2 ^ 32 * 2 ^ 32, lo := false, hi := true }
    let blk := a / 0x1000
    let off := a % 0x1000
    match w with
    | .mgmt =>
      if !(s.powered || standbyBlock a) then s
      else if blk = 0x14 then s.plogWrite w off h else s.moduleWrite blk off h
    | .func k f =>
      if blk = 0 then s.hifWrite k f off h
      else if blk = 1 then s.secWrite k f off h
      else if blk = 2 then (match s.fnPart k f with | some p => s.partWrite p off h | none => s)
      else if blk = 3 then (match s.fnPart k f with | some p => s.trcWrite p off h | none => s)
      else if blk = 0x14 ∧ off = 0x018 then s.plogWrite w off h
      else if k.val = 0 then (if blk = 0x14 then s.plogWrite w off h else s.moduleWrite blk off h)
      else s.refuseAccess w
    | .bar2 k f => s.bar2Write k f a h
    | .config k f => s.configWrite k f a h

/-- A register write command: it reaches its window or addresses nothing. -/
def State.writeCommand (s : State) (w : Window) (o size v : Nat) : State :=
  if s.windowCovers w o size then s.regWrite w o size v else s

/-- A read of 4 or 8 bytes that reaches its window returns the value; one of another size or alignment, or to a function in
D3hot, is an Unsupported Request, which AER reports on vector 2 of the physical function (R106 to R108, R134; log 111). -/
def State.readCommand (s : State) (w : Window) (k o size : Nat) : State :=
  if s.windowCovers w o size && (size == 4 || size == 8) && o % max 1 size == 0 then
    s.modLink k (fun l => { l with barData := some (BitVec.ofNat 64 (s.regRead w o size)) })
  else (s.modLink k (fun l => { l with urSent := l.urSent + 1 })).msix k 0 2

/-- The register window of one of a function's spaces (R106, R108, R542). -/
def fnWindow (x : FnSpace) (link : Fin 4) (fn : Fin 8) : Window :=
  match x with
  | .bar0 => .func link fn
  | .bar2 => .bar2 link fn
  | .config => .config link fn

/-- BAR_READ_INVALID, and the reads that are valid (R106 to R108). -/
def execBarReadInvalid (link : Fin 4) (fn : Fin 8) (offset : FnOffset) (size : Nat) (s : State) : Res :=
  .next (if s.linkUp link then s.readCommand (fnWindow offset.space link fn) link offset.offset size else s)

/-- REGISTER_WRITE (R12, R107, R543 to R546). -/
def execRegisterWrite (win : Window) (offset size : Nat) (value : BitVec 64) (s : State) : Res :=
  .next (s.writeCommand win offset size value.toNat)

/-- RING_ENABLE: HIF.RING_CTRL is written (R112, R549). -/
def execRingEnable (link : Fin 4) (fn : Fin 8) (value : BitVec 64) (s : State) : Res :=
  .next (s.writeCommand (.func link fn) 0x018 8 value.toNat)

/-- DOORBELL_ENABLE: HIF.DB_CTRL is written (R118, R550). -/
def execDoorbellEnable (link : Fin 4) (fn : Fin 8) (value : BitVec 64) (s : State) : Res :=
  .next (s.writeCommand (.func link fn) 0x088 8 value.toNat)

/-- FUNCTION_LOCK: HIF.LOCK is written (R545). -/
def execFunctionLock (link : Fin 4) (fn : Fin 8) (value : BitVec 64) (s : State) : Res :=
  .next (s.writeCommand (.func link fn) 0x010 8 value.toNat)

/-- PARTITION_LOCK: PART.LOCK is written (R545). -/
def execPartitionLock (link : Fin 4) (fn : Fin 8) (value : BitVec 64) (s : State) : Res :=
  .next (s.writeCommand (.func link fn) 0x2008 8 value.toNat)

/-- MODULE_LOCK: MGT.LOCK is written (R545). -/
def execModuleLock (win : Window) (value : BitVec 64) (s : State) : Res :=
  .next (s.writeCommand win 0x15040 8 value.toNat)

/-- COUNTER_SAMPLE: PART.SAMPLE_CORE is written (R213, R214, R555). -/
def execCounterSample (link : Fin 4) (fn : Fin 8) (value : BitVec 64) (s : State) : Res :=
  .next (s.writeCommand (.func link fn) 0x2080 8 value.toNat)

/-- ADOPT_ENABLE: TMB.SYNC is written (R521). -/
def execAdoptEnable (win : Window) (value : BitVec 64) (s : State) : Res :=
  .next (s.writeCommand win 0x13018 8 value.toNat)

/-- TRACE_ENABLE: TRC.CFG is written (R524, R556). -/
def execTraceEnable (link : Fin 4) (fn : Fin 8) (value : BitVec 64) (s : State) : Res :=
  .next (s.writeCommand (.func link fn) 0x3010 8 value.toNat)

/-- FREEZE: PLOG.CTRL is written with FREEZE (R538). -/
def execFreeze (win : Window) (s : State) : Res := .next (s.writeCommand win 0x14000 8 1)

/-- UNFREEZE: PLOG.CTRL is written with UNFREEZE; buffered records are then written (R538). -/
def execUnfreeze (win : Window) (s : State) : Res := .next (s.writeCommand win 0x14000 8 2)

end Sys2Proof.Machine
end

