-- ==== Sys2Proof/Machine/Cadence.lean ====
section
/-! DEFINITION. The timebase, beats, holdover and the tick of an empty queue (R69, R70, R117, R139, R506 to R516, R521, R522,
R527; log 5). -/

namespace Sys2Proof.Machine

/-- OUT_MODE of TMB.CAD_CFG; 3 acts as 0 (R515). -/
def TimeSt.outMode (t : TimeSt) : Nat := let m := bitsOf t.cadCfg.toNat 1 0; if m = 3 then 0 else m
/-- SRC_PERIOD; a value out of range acts as 1,000 (R515). -/
def TimeSt.srcPeriod (t : TimeSt) : Nat := let p := bitsOf t.cadCfg.toNat 27 8; if inRange p 250 1000000 then p else 1000

/-- A rising edge of CADENCE_IN, which CADENCE_OUT repeats in forward mode (R69, R70). -/
def TimeSt.forward (t : TimeSt) : TimeSt :=
  let t := { t with cadenceIn := true, cadenceHigh := 0 }
  if t.outMode = 1 then { t with cadenceOut := true, cadenceEdges := t.cadenceEdges + 1 } else t

/-- CADENCE_IN after one tick: it falls at a free moment after its edge, and CADENCE_OUT repeats the level in forward mode (R69,
R70; log 103). -/
def TimeSt.cadenceTick (t : TimeSt) : TimeSt :=
  if !t.cadenceIn then t
  else
    let up := decide (t.cadenceHigh + 1 < Config.cadenceHigh t.cadenceEdges)
    { t with cadenceHigh := t.cadenceHigh + 1, cadenceIn := up, cadenceOut := if t.outMode = 1 then up else t.cadenceOut }

/-- BEAT after one more counted beat, with a pending adoption of k (R508, R509, R521; log 45). -/
def TimeSt.nextBeat (t : TimeSt) : BitVec 44 :=
  match t.adoptK with
  | none => if t.beat.toNat = beatMax then t.beat else t.beat + 1
  | some k =>
    let b := (t.beat.toNat : Int) + 1 + k
    if (beatMax : Int) ≤ b then BitVec.ofNat 44 beatMax else BitVec.ofInt 44 b

/-- Measured intervals after a beat: one more when this beat and the one before it are real edges' (R510). -/
def TimeSt.measured (t : TimeSt) (real : Bool) : List Nat :=
  if real && t.lastReal then (t.intervals ++ [t.et]).drop (t.intervals.length - 15) else t.intervals

/-- The timebase after a counted beat (R508 to R512). At the limit it behaves as stopped (R509). -/
def TimeSt.count (t : TimeSt) (real : Bool) : TimeSt :=
  let iv := t.measured real
  let lk := t.locked || iv.length == 16
  let b := t.nextBeat
  let top := b.toNat == beatMax
  { t with beat := b, et := 0, counted := t.counted + 1, intervals := iv, locked := lk,
           period := if iv.length = 16 then iv.foldl (· + ·) 0 / 16 else t.period,
           lastReal := real, synthesised := if real then t.synthesised else t.synthesised + 1,
           stopped := t.stopped || top, holdoverActive := t.holdoverActive && !top }

/-- Beats that jobs wait for are met once they have been counted (R139, R141, R522). -/
def Job.beats (j : Job) (beat : Nat) : Job :=
  { j with startMet := j.startMet || decide (j.startBeat ≤ beat),
           tasks := j.tasks.map (fun t => { t with notBeforeMet := t.notBeforeMet || decide (t.notBefore ≤ beat) }) }

/-- A WBEAT whose beat has been counted stays satisfied (R199, R522). -/
def Core.beatMet (c : Core) (beat : Nat) : Core :=
  match c.stall with
  | some (.beat b) => if b ≤ beat then { c with stall := some (.beat 0) } else c
  | _ => c

/-- A beat is counted, real or synthesised, and every unit that waits for beats acts (R117, R508 to R513, R521, R522, R527). -/
def State.countBeat (s : State) (real : Bool) : State :=
  let k := s.time.adoptK
  let s := s.modTime (fun t => { t.count real with adoptK := none })
  let b := s.time.beat.toNat
  let s := match k with
    | none => s
    | some k =>
      let p := bitsOf s.time.sync.toNat 10 8
      (s.modTime (fun t => { t with sync := t.sync &&& ~~~0x800#64 })).eventPartModule p
        { code := 0x1003, sev := 0, source := srcTime, payload := wrapInt 64 k }
  let s := s.modWnd (fun w => { w with jobs := w.jobs.map (fun j => j.beats b) })
  let s := { s with cores := s.cores.map (fun c => c.beatMet b) }
  let s := (List.range 8).foldl (fun (s : State) p =>
    if b % 2 ^ min 40 (bitsOf (s.part p).trcCfg.toNat 31 24) = 0 then s.trace p 6 srcTime 1 (leBytes 1 (b2n (!real))) else s) s
  let s := if !s.running then s
    else (List.range 4).foldl (fun (s : State) k =>
      if (s.link k).active || b % 2 ^ bitsOf s.wnd.pollCfg.toNat 2 0 == 0 then s.startDoorbellRead k else s) s
  s.settleAll

/-- A CADENCE trace record for every partition (R513, R527). -/
def State.cadenceTrace (s : State) (restored : Bool) (n : Nat) : State :=
  (List.range 8).foldl (fun (s : State) p => s.trace p 10 srcTime 1 (leBytes 1 (b2n restored) ++ leBytes 7 0 ++ leBytes 8 n)) s

/-- CADENCE_RESTORED (R513, R541). -/
def State.cadenceRestored (s : State) (n : Nat) : State :=
  (s.eventModule { code := 0x1002, sev := 0, source := srcTime, payload := n % 2 ^ 32 }).cadenceTrace true n

/-- BEAT_COUNT: a CADENCE_IN edge that counts, ends holdover or ends a loss (R508, R510, R513, R521). -/
def execBeatCount (s : State) : Res :=
  let t := s.time
  if !t.on then .next s
  else if t.beat.toNat == beatMax then .next (s.modTime TimeSt.forward)
  else if t.holdoverActive then
    let n := t.synthesised
    let s := s.modTime (fun t => { t.forward with holdoverActive := false })
    if t.et < t.period / 2 then .next ((s.modTime (fun t => { t with et := 0, lastReal := true })).cadenceRestored n)
    else .next ((s.countBeat true).cadenceRestored n)
  else if t.et < 200 then .next s
  else if t.stopped then
    let s := s.modTime (fun t => { t.forward with stopped := false, lastReal := false,
                                                  intervals := if t.locked then t.intervals else [] })
    .next ((s.countBeat true).cadenceRestored 0)
  else .next ((s.modTime TimeSt.forward).countBeat true)

/-- GLITCH_REJECT: an edge less than 200 ticks after the last counted beat (R508). -/
def execGlitchReject (s : State) : Res :=
  if s.time.on && !s.time.holdoverActive && decide (s.time.et < 200) then
    .next (s.modTime (fun t => { t.forward with glitches := satAdd 32 t.glitches 1 }))
  else .next s

/-- ET at which the cadence is lost (R511). -/
def TimeSt.lossAt (t : TimeSt) : Nat := if t.locked then t.period + t.period / 4 else 1250000

/-- CADENCE_LOST: holdover starts with a synthesised beat, or the beats stop (R511, R512, R514). -/
def execCadenceLost (s : State) : Res :=
  let t := s.time
  if t.on && !t.holdoverActive && !t.stopped && decide (t.lossAt ≤ t.et) then
    let hold := t.locked && bitOf t.cadCfg.toNat 2
    let s := s.eventModule { code := 0x1001, sev := 1, source := srcTime, payload := b2n hold + t.beat.toNat * 2 ^ 20 }
    let s := s.cadenceTrace false 0
    if hold then
      let s := (s.modTime (fun t => { t with holdoverActive := true, synthesised := 0 })).countBeat false
      .next (s.modTime (fun t => { t with et := t.period / 4 }))
    else .next (s.modTime (fun t => { t with stopped := true, lastReal := false }))
  else .next s

/-- SYNTHESISED_BEAT: in holdover ET reaches P (R512). -/
def execSynthesisedBeat (s : State) : Res :=
  if s.time.on && s.time.holdoverActive && decide (s.time.period ≤ s.time.et) then .next (s.countBeat false) else .next s

/-- SOURCE_CADENCE_EDGE: CADENCE_OUT in source mode (R70, R515). -/
def execSourceCadenceEdge (s : State) : Res :=
  let t := s.time
  if t.on && t.outMode == 2 then
    if !t.cadenceOut && decide (t.srcPeriod ≤ t.srcTimer) then
      .next (s.modTime (fun t => { t with cadenceOut := true, srcTimer := 0, cadenceEdges := t.cadenceEdges + 1 }))
    else if t.cadenceOut && decide (t.srcPeriod / 2 ≤ t.srcTimer) then .next (s.modTime (fun t => { t with cadenceOut := false }))
    else .next s
  else .next s

/-- The timebase after one tick (R507, R510, R515). -/
def TimeSt.tick (t : TimeSt) : TimeSt :=
  if t.on then
    let t := t.cadenceTick
    { t with et := min (t.et + 1) (2 ^ 24 - 1), ticks := t.ticks + 1, srcTimer := min (t.srcTimer + 1) (2 ^ 20 - 1),
             mgmtTicks := t.mgmtTicks + 1 }
  else { t with mgmtTicks := t.mgmtTicks + 1 }

/-- Amounts that count a core's own clock in one tick are free (log 11): counters 0, 2, 5, 6, 7, 11 and 12 of R211. -/
def Core.cycles (c : Core) (n draw : Nat) : Core :=
  [0, 2, 5, 6, 7, 11, 12].foldl (fun (c : Core) k =>
    if k = 7 ∧ !isAttention n then c else c.count k (Config.freeCycles (16 * n + k) draw)) c

/-- A core after one tick: held ticks, run ticks and its epoch's TICKS; a stolen issue slot is over (R169, R173, R211, R212,
R315). -/
def Core.tick (c : Core) (n draw : Nat) : Core :=
  if c.phase == .idle || c.phase == .waitClock then c
  else
    let run := c.phase == .clearing || c.phase == .executing
    ({ c with heldTicks := c.heldTicks + 1, stealQuad := none,
               runTicks := if run then c.runTicks + 1 else c.runTicks }.count 1 1).cycles n draw

/-- A function's hold-off timers after one tick (R514). -/
def Fn.tick (f : Fn) : Fn :=
  { f with holdTicks := (List.range 2).map (fun v => if (f.holdEnd.getD v none).isSome then f.holdTicks.getD v 0 + 1 else 0) }

/-- A power sequence has ended 15 ms after its start (R55, R67, R80; log 35). -/
def State.sequenceTick (s : State) : State :=
  match s.pwr.seq with
  | some q => if q.start + 15000000 ≤ s.time.mgmtTicks then s.endSequence else s
  | none => s

/-- One tick of the 1 ns timebase: what a step does on an empty queue (log 5). -/
def State.tick (s : State) : State :=
  if !s.housekeeping then s
  else
    let (k, s) := s.draw
    State.sequenceTick
      { s with time := s.time.tick,
               cores := (List.zip (List.range s.cores.length) s.cores).map (fun nc => nc.2.tick nc.1 k),
               links := s.links.map (fun l => { l with fns := l.fns.map Fn.tick }) }

end Sys2Proof.Machine
end

