-- ==== Sys2Proof/Machine/Links.lean ====
section
/-! DEFINITION. Vehild ports: bring-up, failures, link keys in SECURE, and the flits that arrive (R407 to R424, R503, R504). -/

namespace Sys2Proof.Machine

/-- SHA3-512 of the enrolled owner key, or zeros (R479, R504). -/
def State.ownerHash (s : State) : Bytes :=
  if s.ownerEnrolled then sliceBytes (Config.sha3_512 (s.flashRead 0x50010 2592)) 0 64 else List.replicate 64 0
/-- VENDOR_PK of the module's own endorsement record (R477, R504). -/
def State.vendorPk (s : State) : Bytes := s.flashRead (0x22000 + 2608) 2592
/-- MIN_PEER_FW of the applied policy (R489). -/
def State.minPeerFw (s : State) : Nat := match s.sec.policyApplied with | some b => field b 24 4 | none => 0

/-- The vendor's endorsement of a peer's identity key, over the record that R477 gives for it (R109, R477, R504). -/
def State.peerEndorsed (s : State) (pk sig : Bytes) : Bool :=
  Config.mldsaVerify s.vendorPk
    (leBytes 4 0x4C58454E ++ leBytes 4 1 ++ sliceBytes (Config.sha3_512 pk) 0 8 ++ pk ++ s.vendorPk) (ascii "LX960-ENDORSE") sig

/-- Bytes of a link offer (R503). -/
def offerLength : Nat := 13582
/-- Bytes of a link accept (R503). -/
def acceptLength : Nat := 13646

/-- Both signatures of a peer's offer (`b` = 0) or accept (`b` = 64) verify (R503, R504). -/
def State.peerSigned (s : State) (m : Bytes) (b : Nat) : Bool :=
  let pk := (m.drop (1736 + b)).take 2592
  s.peerEndorsed pk ((m.drop (4328 + b)).take 4627)
    && Config.mldsaVerify pk (m.take (8955 + b)) (ascii "LX960-LINK") ((m.drop (8955 + b)).take 4627)

/-- Nodes, owner and firmware of a peer's message pass the checks of R504; an accept also names the offer by its hash. -/
def State.peerFields (s : State) (m : Bytes) (src dst : Nat) (offerHash : Option Bytes) : Bool :=
  let owner := (m.drop 104).take 64
  field m 0 2 == src && field m 2 2 == dst && decide (s.minPeerFw ≤ field m 4 4)
    && owner == s.ownerHash && owner != List.replicate 64 0
    && (match offerHash with | some h => (m.drop 168).take 64 == h | none => true)

/-- A peer's offer, or its accept of an offer with the given hash, passes the checks of R504. -/
def State.peerOk (s : State) (m : Bytes) (src dst : Nat) (offerHash : Option Bytes) : Bool :=
  m.length == (if offerHash.isSome then acceptLength else offerLength)
    && s.peerFields m src dst offerHash && s.peerSigned m (if offerHash.isSome then 64 else 0)

/-- The keying material of R504. -/
def linkOkm (k offer accept : Bytes) : Bytes :=
  Config.sha3_512 (ascii "LX960-LINK-KEYS" ++ k ++ Config.sha3_512 offer ++ Config.sha3_512 accept)

/-- A port's traffic to a peer starts anew under a key: its flits in the replay buffer are sealed again in their places, its data
packets that wait will be sent again, and its control packets go on waiting (R415, R424, R443; log 121). -/
def PortSt.rekey (p : PortSt) (me : BitVec 12) (k : LinkKey) : PortSt × LinkKey :=
  let mine (f : Flit) : Bool := f.src == me && f.dst.toNat == k.node && f.typ == 1
  let r := p.replay.foldl (fun (a : List (Flit × Bytes) × LinkKey) g =>
    if mine g.1 then
      let v := g.1.vc.toNat
      let ctr := a.2.ctrOut.getD v 0
      (a.1 ++ [(sealFlit a.2 g.1 g.2 ctr, g.2)], { a.2 with ctrOut := a.2.ctrOut.set v (ctr + 1) })
    else (a.1 ++ [g], a.2)) ([], k)
  let dead (x : TxItem) : Bool := x.pkt.dst.toNat == k.node
  let cut (v : Nat) : Bool := p.txq.any (fun x => dead x && x.left != 0 && x.pkt.vc.toNat == v)
  ({ p with replay := r.1,
            txq := (p.txq.filter (fun x => !(dead x && isData x.pkt.msg))).map (fun x => if dead x then { x with left := 0 } else x),
            mid := (List.zip (List.range p.mid.length) p.mid).map (fun (x : Nat × Option Bool) => if cut x.1 then none else x.2) }, r.2)

/-- A key for a peer is installed with counters at 0; partial packets from the peer are dropped, and every packet to it that is
not acknowledged is sent again in order (R422, R424, R504). -/
def State.installKey (s : State) (node : Nat) (okm : Bytes) : State :=
  let lower := decide (s.nodeId < node)
  let up := sliceBytes okm 0 32
  let down := sliceBytes okm 32 32
  let key : LinkKey := { node := node, kOut := if lower then up else down, kIn := if lower then down else up }
  let me := BitVec.ofNat 12 s.nodeId
  let r := s.lnk.ports.foldl (fun (a : List PortSt × LinkKey) p =>
    let x := p.rekey me a.2
    (a.1 ++ [{ x.1 with rxPackets := x.1.rxPackets.filter (fun y => !y.2.any (fun f => f.src.toNat == node)) }], x.2)) ([], key)
  let s := s.modLnk (fun l => { l with keys := l.keys.filter (fun k => k.node != node) ++ [r.2], ports := r.1 })
  let s := (s.lnk.tx.filter (fun t => decide (t.port < 6) && t.pkt.dst.toNat == node)).foldl (fun s t => s.resend t) s
  (List.range 6).foldl State.pump s

/-- RETRY_10MS in ticks; 0 acts as 1 (R411, R413). -/
def State.retryTicks (s : State) : Nat := max 1 (bitsOf s.lnk.cfg.toNat 15 8) * 10000000

/-- LINK_DOWN and LINK_UP are module events of the port's router (R444). -/
def State.linkEvent (s : State) (p code sev payload : Nat) : State :=
  s.eventModule { code := code, sev := sev, source := srcPort p, payload := payload }

/-- Light that comes in on a lane of a ring port while the bypass is closed leaves by the same lane of the other ring port
(R46). -/
def bypassPath (port lane : Nat) : Option (Nat × Nat) := if port < 2 ∧ lane < 8 then some (1 - port, lane) else none
/-- Lanes of a port (R407). -/
def portLanes (port : Nat) : Nat := if port < 2 then 8 else 4
/-- The lane on which byte `i` of a flit travels (R408). -/
def flitLane (port i : Nat) : Nat := i / 32 % portLanes port

/-- The HANDSHAKE of IDENT: node ID, port code and the hash of the identity public key, in this order (R411, R414; log 121). -/
def State.identFlits (s : State) (p : Nat) : List Flit :=
  handshakeFlits (BitVec.ofNat 12 s.nodeId) 0
    (leBytes 2 s.nodeId ++ leBytes 1 p ++ sliceBytes (Config.sha3_512 s.flash.identityPk) 0 64)

/-- Flits leave a port (R414). -/
def State.sendRaw (s : State) (p : Nat) (fl : List Flit) : State := s.modPort p (fun x => { x with sent := x.sent ++ fl })

/-- A failure returns the port to DOWN; the bypass closes when both ring ports are DOWN (R411, R412, R444). -/
def State.portDown (s : State) (p reason : Nat) : State :=
  let s := s.modPort p (fun x => { x with st := .down, retryAt := some (s.time.ticks + s.retryTicks),
                                          downSince := some (x.downSince.getD s.time.counted) })
  let s := if (s.port 0).st == .down && (s.port 1).st == .down then
      s.modPwr (fun w => { w with bypassOpen := false, bypassDrive := false }) else s
  s.linkEvent p 0x0D02 1 (p + reason * 16)

/-- The port goes UP: tasks that wait for its route may be placed again, and waiting traffic goes on (R411, R415, R442 to
R444). -/
def State.portGoesUp (s : State) (p : Nat) : State :=
  let s := s.modPort p (fun x => { x with st := .up, downSince := none, retryAt := none })
  let s := s.linkEvent p 0x0D01 0 (p + ((s.port p).neighbour.getD 0) % 4096 * 16)
  let s := s.modWnd (fun w => { w with jobs := w.jobs.map (fun j => { j with tasks := j.tasks.map (fun t =>
    if t.routeDown = some p then { t with routeDown := none } else t) }) })
  let s := s.modPort p PortSt.resendAll
  let lost := s.lnk.tx.filter (fun t => t.port == p && t.resend)
  let again (x : TxItem) : Bool := lost.any (fun t => t.pkt == x.pkt)
  let s := s.modLnk (fun l => { l with tx := l.tx.map (fun t => if t.port = p then { t with resend := false } else t) })
  let s := s.modPort p (fun x => { x with txq := x.txq.filter (fun y => !again y) })
  (lost.foldl (fun s t => s.resend t) s).pump p

/-- LINK_LOCAL_TEST: the loopback test ends (R411, R412). -/
def execLinkLocalTest (port : Fin 6) (pass : Bool) (s : State) : Res :=
  if s.running && (s.port port).st == .localTest then
    if !pass then .next (s.portDown port 3)
    else if decide (port.val < 2) && !s.pwr.bypassOpen then
      .next ((s.modPort port (fun x => { x with st := .opening })).modPwr (fun w => { w with bypassDrive := true }))
    else .next (s.modPort port (fun x => { x with st := .train }))
  else .next s

/-- BYPASS_OPENED: the bypass is open and the ring port trains (R46, R411, R412). -/
def execBypassOpened (port : Fin 6) (s : State) : Res :=
  if s.running && (s.port port).st == .opening then
    .next ((s.modPort port (fun x => { x with st := .train })).modPwr (fun w => { w with bypassOpen := true }))
  else .next s

/-- LINK_TRAIN: training, FEC lock and deskew end (R409, R411). -/
def execLinkTrain (port : Fin 6) (ok : Bool) (s : State) : Res :=
  if s.running && (s.port port).st == .train then
    if ok then .next ((s.modPort port (fun x => { x with st := .ident })).sendRaw port (s.identFlits port)) else .next (s.portDown port 2)
  else .next s

/-- A new partner: the replay buffer and the partial packets are discarded, and the hop starts anew (R415). -/
def PortSt.newPartner (p : PortSt) : PortSt :=
  { p with replay := [], rxPackets := [], rxSeq := 0, txSeq := 1, credits := [32, 256, 256, 256],
           creditsOwed := [0, 0, 0, 0], nakPending := none, ackDue := false, mid := [none, none, none, none],
           txq := p.txq.map (fun x => { x with left := 0 }) }

/-- HANDSHAKE: the partner's node ID and identity hash arrive in IDENT; in UP, a node or a hash that is not IDENT's is a
mismatch (R411, R413, R415; log 121). -/
def execHandshake (port : Fin 6) (node : BitVec 12) (_peerPort : BitVec 8) (hash : List (BitVec 8)) (s : State) : Res :=
  let p := s.port port
  if s.running && p.st == .ident then
    let other := if port.val = 0 then (s.port 1).neighbour else if port.val = 1 then (s.port 0).neighbour else none
    if node.toNat = s.nodeId ∨ other = some node.toNat then .next (s.portDown port 4)
    else
      let changed := p.neighbour.isSome && p.neighbour != some node.toNat
      let s := s.modPort port (fun x =>
        { (if changed then x.newPartner else x) with neighbour := some node.toNat, neighbourHash := hash })
      let s := if changed then
          s.modLnk (fun l => { l with tx := l.tx.map (fun t => if t.port = port.val then { t with resend := true } else t) }) else s
      if port.val < 2 then .next (s.modPort port (fun x => { x with st := .secure })) else .next (s.portGoesUp port)
  else if s.running && p.st == .up && (p.neighbour != some node.toNat || p.neighbourHash != hash) then .next (s.portDown port 4)
  else .next s

/-- LINK_SECURE_DONE: the offer and accept of SECURE have been exchanged, with their shared secret, or the agreement has
failed (R411, R503, R504). -/
def execLinkSecureDone (port : Fin 6) (offer accept : List (BitVec 8)) (secret : List (BitVec 8)) (s : State) : Res :=
  let p := s.port port
  if s.running && p.st == .secure then
    let peer := p.neighbour.getD 0
    let ok := if s.nodeId < peer then s.peerOk accept peer s.nodeId (some (Config.sha3_512 offer))
      else s.peerOk offer peer s.nodeId none
    let own := handshakeFlits (BitVec.ofNat 12 s.nodeId) (BitVec.ofNat 12 peer) (if s.nodeId < peer then offer else accept)
    let s := s.sendRaw port own
    if ok then .next ((s.installKey peer (linkOkm secret offer accept)).portGoesUp port) else .next (s.portDown port 5)
  else .next s

/-- LINK_LOSS: a port loses lock, or its state takes longer than it may (R411, R444). -/
def execLinkLoss (port : Fin 6) (s : State) : Res :=
  if !s.running then .next s
  else
    match (s.port port).st with
    | .down => .next s
    | .localTest => .next (s.portDown port 3)
    | .opening | .train => .next (s.portDown port 2)
    | .ident | .up => .next (s.portDown port 1)
    | .secure => .next (s.portDown port 5)

/-- LINK_RETRY: the retry time of an enabled port has passed (R411, R413). -/
def execLinkRetry (port : Fin 6) (s : State) : Res :=
  let p := s.port port
  if s.running && p.st == .down && bitOf s.lnk.cfg.toNat port && decide ((p.retryAt.getD 0) ≤ s.time.ticks) then
    .next (s.modPort port (fun x => { x with st := .localTest, retryAt := none }))
  else .next s

/-- What arrives with any good flit: acknowledged flits leave the replay buffer, and a NAK has the rest resent (R414, R415). -/
def PortSt.hop (p : PortSt) (f : Flit) : PortSt :=
  let freed (g : Flit) : Bool := decide ((f.ackSeq - g.hopSeq).toNat < 2 ^ 15) && !(f.nak && g.hopSeq == f.ackSeq)
  let p := { p with replay := p.replay.filter (fun g => !freed g.1) }
  if f.nak then p.resendFrom f.ackSeq else p
/-- Credit returns with a flit; a flit that comes again brings none (R414, R418). -/
def PortSt.takeCredit (p : PortSt) (f : Flit) : PortSt :=
  { p with credits := p.credits.modify f.creditVc.toNat (fun c => min (if f.creditVc = 0 then 32 else 256) (c + f.credit.toNat)) }

/-- The 64-bit counter of a flit, from its low bits and the arrival order (R420, R422). -/
def rebuildCtr (expected low : Nat) : Nat :=
  let c := expected / 2 ^ 32 * 2 ^ 32 + low
  if expected ≤ c then c else c + 2 ^ 32

/-- Sectors of a packet's data that its flits' POISON bytes mark; flit payload may be shorter than 224 bytes (R414, R435). -/
def poisonSectors : Nat → List Flit → List Nat
  | _, [] => []
  | off, f :: fs =>
    ((List.range 7).filter (fun k => bitOf f.poison.toNat k && decide (32 ≤ off + 32 * k))).map (fun k => (off + 32 * k) / 32 - 1)
      ++ poisonSectors (off + f.len.toNat) fs

/-- Count a protocol error of a port (R414, R417). -/
def State.protoError (s : State) (p : Nat) : State := s.modPort p (fun x => { x with protoErr := satAdd 32 x.protoErr 1 })

/-- The flits of a packet are complete: its message and channel are checked, and it waits for its own command (R416, R417). -/
def State.packetDone (s : State) (port : Nat) (fl : List Flit) : State :=
  let f := fl.getD 0 {}
  let b := fl.flatMap (fun g => g.payload.take g.len.toNat)
  let p := parsePacket port f.vc f.src f.dst (poisonSectors 0 fl) b
  if msgVc p.msg != some f.vc || decide (b.length < 32 + 256 * p.lines.length) then s.protoError port
  else s.modLnk (fun l => { l with recvPend := l.recvPend ++ [p] })

/-- A decrypted flit joins its packet (R416). -/
def State.assemble (s : State) (port : Nat) (f : Flit) : State :=
  let old := lookupD [] f.vc.toNat (s.port port).rxPackets
  let fl := if f.first then [f] else old ++ [f]
  let put (l : List Flit) (s : State) : State := s.modPort port (fun x => { x with rxPackets := setKey f.vc.toNat l x.rxPackets })
  if (!f.first && old.isEmpty) || decide (64 < fl.length) then (put [] s).protoError port
  else if f.last then (put [] s).packetDone port fl
  else put fl s

/-- A DATA flit for this module: it is opened under the source's key, or the source is refused from now on (R422, R424). -/
def State.openFlit (s : State) (port : Nat) (f : Flit) : State :=
  match s.linkKey f.src.toNat with
  | none => s
  | some k =>
    if k.refused then s
    else
      let setKeyOf (g : LinkKey → LinkKey) (s : State) : State :=
        s.modLnk (fun l => { l with keys := l.keys.map (fun x => if x.node = k.node then g x else x) })
      let ctr := rebuildCtr (k.ctrIn.getD f.vc.toNat 0) f.e2eSeq.toNat
      match Config.gcmOpen k.kIn (flitNonce f.src f.dst f.vc ctr) (flitAad f) f.payload f.tag with
      | some t => ((setKeyOf (fun x => { x with ctrIn := x.ctrIn.set f.vc.toNat (ctr + 1) }) s)).assemble port { f with payload := t }
      | none => (setKeyOf (fun x => { x with refused := true }) s).linkEvent port 0x0D03 2 (port + f.src.toNat * 16)

/-- A DATA flit in its turn: it is opened here, forwarded between the ring ports, or dropped. Its buffer space returns as credit,
that of a forwarded flit when it leaves (R415, R418). -/
def State.dataFlit (s : State) (port : Nat) (f : Flit) : State :=
  let s := s.modPort port (fun x => { x.takeCredit f with rxSeq := f.hopSeq, nakPending := none, ackDue := true })
  let onward := decide (port < 2) && f.dst.toNat != s.nodeId
  if onward then (s.modPort (1 - port) (fun x => { x with fwd := x.fwd ++ [f] })).pump (1 - port)
  else
    let s := s.modPort port (fun x => { x with creditsOwed := x.creditsOwed.modify f.vc.toNat (· + 1) })
    if f.dst.toNat = s.nodeId then s.openFlit port f else s

/-- FLIT_RECEIVE: a flit arrives on an UP port; a ring port's light passes straight through a closed bypass (R46, R414 to
R424). -/
def execFlitReceive (port : Fin 6) (flit : Flit) (s : State) : Res :=
  let p := s.port port
  if port.val < 2 ∧ !s.pwr.bypassOpen then
    match bypassPath port (flitLane port 0) with
    | some (q, _) => .next (s.sendRaw q [flit])
    | none => .next s
  else if s.running && p.st == .up then
    if flit.bad then
      .next ((s.modPort port (fun x =>
        { x with uncorrectable := satAdd 32 x.uncorrectable 1, nakPending := some (x.rxSeq + 1) })).pump port)
    else if flit.typ = 3 then .next (s.protoError port)
    else
      let s := s.modPort port (fun x => x.hop flit)
      let s :=
        if flit.typ = 0 then s.modPort port (fun x => x.takeCredit flit)
        else if flit.typ != 1 then s
        else if decide ((p.rxSeq - flit.hopSeq).toNat < 2 ^ 15) then s.modPort port (fun x => { x with ackDue := true })
        else if flit.hopSeq != p.rxSeq + 1 then s.modPort port (fun x => { x with nakPending := some (x.rxSeq + 1) })
        else s.dataFlit port flit
      .next (s.pump port)
  else .next s

end Sys2Proof.Machine
end

