-- ==== Sys2Proof/Machine/Collective.lean ====
section
/-! DEFINITION. Collective packets as they arrive, the arming of collectives, and the life of their buckets (R423 to R444,
R470, R519 to R522). -/

namespace Sys2Proof.Machine

/-- The packet is the next of its source and channel and of the row's kind; it leaves the queue of arrived packets (R416, R420). -/
def State.takePacket (s : State) (p : Packet) (m : BitVec 8) : Option State :=
  if s.running && p.msg == m && s.lnk.recvPend.find? (fun q => q.src == p.src && q.vc == p.vc) == some p then
    some (s.modLnk (fun l => { l with recvPend := l.recvPend.erase p }))
  else none

/-- A data packet whose TAG has been completed before (R424). -/
def State.doneBefore (s : State) (p : Packet) : Bool := s.lnk.rxDone.contains (p.src.toNat, p.vc.toNat, p.tag.toNat)

/-- Acknowledge a data packet: its TAG is completed; a packet of this module itself just leaves its sender (R416, R424, R430). -/
def State.ackData (s : State) (p : Packet) : State :=
  if p.port = 6 then s.modLnk (fun l => { l with tx := l.tx.filter (fun t => !(t.port == 7 && t.pkt == p)) })
  else
    let s := if s.doneBefore p then s else s.modLnk (fun l => { l with rxDone := l.rxDone ++ [(p.src.toNat, p.vc.toNat, p.tag.toNat)] })
    s.answer msgAck p

/-- Answer BUSY: the sender keeps the packet (R433). -/
def State.busyData (s : State) (p : Packet) : State :=
  if p.port = 6 then s.modLnk (fun l => { l with tx := l.tx.map (fun t => if t.port = 7 ∧ t.pkt = p then { t with busy := true } else t) })
  else s.answer msgBusy p

/-- A packet that matches no armed collective is dropped and counted (R430). -/
def State.unmatched (s : State) : State := s.modLnk (fun l => { l with unmatched := satAdd 32 l.unmatched 1 })

/-- The key names a bucket that is CLOSED here: of a collective that a partition reset took, or of an ALL_REDUCE descriptor
that lists the source (R436). -/
def State.closedBucket (s : State) (key : BitVec 32) (bucket src : Nat) : Bool :=
  s.lnk.past.any (fun c => c.desc.key == key && decide (bucket < c.buckets.length) && c.nodes.any (fun n => n.1 == src))
  || (List.range 8).any (fun p => (List.range (s.part p).collTable).any (fun n =>
    match s.descBytes p n with
    | some b =>
      let d := parseDesc b
      d.kind == 1 && d.key == key && decide (bucket < d.buckets)
        && (List.range (min d.ranks 4096)).any (fun r => (s.nodeEntry p d r).map (·.1) == some src)
    | none => false))

/-- A packet of a CLOSED bucket is answered with BUSY; any other that matches no armed collective is dropped (R430, R436). -/
def State.notArmed (s : State) (p : Packet) : State :=
  if s.closedBucket p.key p.bucket.toNat p.src.toNat then
    let w := (p.src.toNat, p.key.toNat, p.bucket.toNat)
    (s.modLnk (fun l => { l with keyWaiters := if l.keyWaiters.contains w then l.keyWaiters else l.keyWaiters ++ [w] })).busyData p
  else s.unmatched

/-- Some line of a packet would be added to an accumulator line now (R432, R470). -/
def State.adds (s : State) (i term : Nat) (p : Packet) : Bool :=
  let ls := ((s.bucket i p.bucket.toNat).tiles.getD p.tile.toNat {}).lines
  (s.bucket i p.bucket.toNat).st == .opened
    && (List.range p.lines.length).any (fun k => let x := ls.getD (p.offset.toNat + k) {}; x.acc.isSome && x.next == term && !x.gaveUp)

/-- The memory group whose Tipple sums a packet's first line (R431). -/
def State.packetGroup (s : State) (i : Nat) (p : Packet) : Nat :=
  let b := s.bucket i p.bucket.toNat
  ((s.lineDpa (s.coll i).part b (p.tile.toNat * b.tileLines + p.offset.toNat)).map dpaGroup).getD 0

/-- Terms arrive at their adding point; the check of the addition finds an upset or not (R432, R433, R470, R471). -/
def State.takeTerms (s : State) (i term : Nat) (p : Packet) (upset : TippleCheck) : State :=
  let g := s.packetGroup i p
  let src := srcGroup g
  if upset = .permanent ∧ s.adds i term p then s.moduleFatal 1 (bitsOf src.toNat 14 8) (bitsOf src.toNat 7 0) src
  else
    let s := if upset = .transient ∧ s.adds i term p then
        s.modMem (fun m => { m with tippleTransient := m.tippleTransient.modify g (fun n => satAdd 32 n 1) }) else s
    match s.contribute i p term with
    | (s, .ack) => (s.ackData p).offerLocal
    | (s, .busy) => (s.busyData p).offerLocal

/-- CONTRIB: a contributor's lines arrive at the adding point of a HOME collective (R431 to R433, R436). -/
def execContrib (pkt : Packet) (upset : TippleCheck) (s : State) : Res :=
  match s.takePacket pkt msgContrib with
  | none => .next s
  | some s =>
    if s.doneBefore pkt then .next (s.ackData pkt)
    else
      match s.findColl pkt.key pkt.src.toNat [1] with
      | none => .next (s.notArmed pkt)
      | some i =>
        let c := s.coll i
        let rank := pkt.rank.toNat
        if s.linesFit i pkt && !c.chained && c.adder pkt.tile.toNat == c.desc.myRank && decide (rank < c.desc.ranks)
            && decide (pkt.part.toNat < c.desc.parts) && (c.rankNode rank).1 == pkt.src.toNat then
          .next (s.takeTerms i (c.termOf rank pkt.part.toNat) pkt upset)
        else .next s.unmatched

/-- PARTIAL: the running sum of rank r - 1 arrives (R432). -/
def execPartialSum (pkt : Packet) (upset : TippleCheck) (s : State) : Res :=
  match s.takePacket pkt msgPartial with
  | none => .next s
  | some s =>
    if s.doneBefore pkt then .next (s.ackData pkt)
    else
      match s.findColl pkt.key pkt.src.toNat [1] with
      | none => .next (s.notArmed pkt)
      | some i =>
        let c := s.coll i
        if s.linesFit i pkt && c.hasPartial && pkt.rank.toNat + 1 == c.desc.myRank
            && (c.rankNode pkt.rank.toNat).1 == pkt.src.toNat then
          .next (s.takeTerms i 0 pkt upset)
        else .next s.unmatched

/-- RESULT: final lines are written here and forwarded (R436, R438). -/
def execResult (pkt : Packet) (s : State) : Res :=
  match s.takePacket pkt msgResult with
  | none => .next s
  | some s =>
    if s.doneBefore pkt then .next (s.ackData pkt)
    else
      match s.findColl pkt.key pkt.src.toNat [1] with
      | none => .next (s.notArmed pkt)
      | some i =>
        if !s.linesFit i pkt then .next s.unmatched
        else
          let b := pkt.bucket.toNat
          match (s.bucket i b).st with
          | .complete => .next ((s.contribRefused i b pkt.src.toNat 1).ackData pkt)
          | .opened =>
            let base := pkt.tile.toNat * (s.bucket i b).tileLines + pkt.offset.toNat
            let s := (List.range pkt.lines.length).foldl (fun (s : State) k =>
              s.writeResult i b (base + k) (pkt.lines.getD k []) pkt.status
                ((pkt.poison.filter (fun q => q / 8 == k)).map (· % 8))) s
            let c := s.coll i
            let s := (c.resultTo false).foldl (fun (s : State) d =>
              s.sendData d.2 none { pkt with dst := BitVec.ofNat 12 d.1, rank := BitVec.ofNat 16 c.desc.myRank }) s
            .next ((s.ackData pkt).wakePart c.part).offerLocal
          | _ => .next ((s.addWaiter i b pkt.tile.toNat pkt.src.toNat).busyData pkt)

/-- Write the bytes of a SEND into the receive window; what does not translate is dropped (R430, R435, log 27). -/
def State.writeWindow (s : State) (c : Coll) (p : Packet) : State :=
  let s := s.touchWalks c.part (c.desc.recvVa + p.addr.toNat) p.data.length
  match s.xlateRangeAgent c.part (c.desc.recvVa + p.addr.toNat) p.data.length true with
  | .inl ps =>
    let s := s.writePieces ps p.data
    p.poison.foldl (fun (s : State) k =>
      if 32 * k < p.data.length then (sectorsOf (pieceAt ps (32 * k)) (min 32 (p.data.length - 32 * k))).foldl State.dramPoison s else s) s
  | .inr _ => s

/-- SOURCE of a SEND's signal: the port it came by, or the core whose staging keeps a packet of this module itself (R153). -/
def State.signalSource (s : State) (p : Packet) : BitVec 16 :=
  if p.port < 6 then srcPort p.port
  else
    match (s.lnk.tx.find? (fun t => t.port == 7 && t.pkt == p)).bind (fun t => t.core) with
    | some n => coreSource n
    | none => srcColl

/-- The signal of a SEND (R416, R430). -/
def State.packetSignal (s : State) (p : Packet) : LinkSignal :=
  { job := p.sigJob, task := p.sigTask.toNat, tally := bitsOf p.sigTally.toNat 5 0, count := p.sigCount.toNat,
    source := s.signalSource p }

/-- The signal of an arrived SEND is held, applied at once, or refused with `false` (R430). -/
def State.sendSignal (s : State) (i : Nat) (p : Packet) : State × Bool :=
  let c := s.coll i
  if !p.sig then (s, true)
  else if c.desc.kind = 4 ∧ !c.permuteFired ∧ s.time.beat.toNat < c.baseBeat then
    (s.modColl i (fun c => { c with permuteHeld := c.permuteHeld ++ [s.packetSignal p] }), true)
  else
    match s.linkSignal c.part (s.packetSignal p) with
    | (s, true) =>
      (if c.desc.kind = 4 then
        s.eventPart c.part { code := 0x0D09, sev := 1, source := srcColl, payload := c.number + p.rank.toNat % 4096 * 2 ^ 8 }
      else s, true)
    | (s, false) => (s, false)

/-- SEND_RECEIVE: bytes arrive for a receive window (R430). -/
def execSendReceive (pkt : Packet) (s : State) : Res :=
  match s.takePacket pkt msgSend with
  | none => .next s
  | some s =>
    if pkt.port != 6 && s.doneBefore pkt then .next (s.ackData pkt)
    else
      match s.findColl pkt.key pkt.src.toNat [3, 4] with
      | none => .next s.unmatched
      | some i =>
        let c := s.coll i
        if decide (c.desc.recvBytes < pkt.addr.toNat + pkt.data.length) then .next s.unmatched
        else
          match (s.writeWindow c pkt).sendSignal i pkt with
          | (t, true) => .next (t.ackData pkt)
          | (_, false) =>
            let w := (pkt.src.toNat, pkt.key.toNat)
            .next ((s.modPart c.part (fun q =>
              { q with busyWaiters := if q.busyWaiters.contains w then q.busyWaiters
                                      else (q.busyWaiters.takeWhile (fun x => decide (x.1 ≤ w.1))) ++ [w]
                                        ++ q.busyWaiters.dropWhile (fun x => decide (x.1 ≤ w.1)) })).busyData pkt)

/-- BARRIER_ARRIVE_RECEIVE: an arrival reaches rank 0 (R430, R519). -/
def execBarrierArriveReceive (pkt : Packet) (s : State) : Res :=
  match s.takePacket pkt msgArrive with
  | none => .next s
  | some s =>
    match s.findColl pkt.key pkt.src.toNat [2] with
    | none => .next s.unmatched
    | some i =>
      let c := s.coll i
      let r := pkt.rank.toNat
      if c.desc.myRank = 0 ∧ r < c.desc.ranks ∧ (c.rankNode r).1 = pkt.src.toNat then
        let t1 := BitVec.ofNat 64 (field pkt.data 0 8)
        .next ((s.modColl i (fun c => { c with arrivals := insertSorted r c.arrivals,
                                               arriveStamps := c.arriveStamps.filter (fun x => x.1 != r) ++ [(r, t1, s.stamp)] })).barrierCheck i)
      else .next s.unmatched

/-- Difference of two stamps in ticks, with a period (R519). -/
def stampDiff (p : Nat) (a b : BitVec 64) : Int :=
  ((a.toNat / 2 ^ 20 : Nat) - (b.toNat / 2 ^ 20 : Nat) : Int) * p + ((a.toNat % 2 ^ 20 : Nat) - (b.toNat % 2 ^ 20 : Nat) : Int)

/-- Quotient rounded to nearest, ties away from zero (R519). -/
def roundDiv (x : Int) (p : Nat) : Int :=
  let q := (2 * x.natAbs + p) / (2 * p)
  if x < 0 then -(q : Int) else q

/-- The offset of rank 0 against this module: theta and delta (R519). -/
def barrierOffset (p : Nat) (t1 t2 t3 t4 : BitVec 64) : Int × Int :=
  ((stampDiff p t2 t1 + stampDiff p t3 t4).tdiv 2, stampDiff p t4 t1 - stampDiff p t3 t2)

/-- The TIME_OFFSET record of a release, and the adoption it arms (R519 to R521). With P = 0 no beat offset is defined and k
is free; the record then carries REFUSED. -/
def State.timeOffset (s : State) (i : Nat) (t2 t3 : BitVec 64) : State :=
  let c := s.coll i
  let p := s.time.period
  let (th, de) := barrierOffset p c.t1 t2 t3 s.stamp
  let (f, s) := s.draw
  let k : Int := if p = 0 then Int.ofNat (Config.freeNat f) else roundDiv th p
  let rho := th - k * p
  let refused := decide ((p : Int) ≤ de)
  let y := s.time.sync.toNat
  let adopt := !refused && bitOf y 11 && bitsOf y 7 0 == c.number && bitsOf y 10 8 == c.part
  let s := s.trace c.part 7 srcColl 2 (leBytes 1 c.number ++ leBytes 1 0 ++ leBytes 2 c.desc.myRank ++ leBytes 4 p
    ++ leBytes 8 (wrapInt 64 k) ++ leBytes 4 (wrapInt 32 rho) ++ leBytes 4 (wrapInt 32 de)
    ++ leBytes 1 (b2n adopt) ++ leBytes 1 (b2n refused))
  if adopt then s.modTime (fun t => { t with adoptK := some k }) else s

/-- BARRIER_RELEASE: rank 0 releases this rank (R430, R519 to R521). -/
def execBarrierRelease (pkt : Packet) (s : State) : Res :=
  match s.takePacket pkt msgRelease with
  | none => .next s
  | some s =>
    match s.findColl pkt.key pkt.src.toNat [2] with
    | none => .next s.unmatched
    | some i =>
      if (s.coll i).desc.myRank = 0 ∨ ((s.coll i).rankNode 0).1 ≠ pkt.src.toNat then .next s.unmatched
      else
        let s := s.timeOffset i (BitVec.ofNat 64 (field pkt.data 0 8)) (BitVec.ofNat 64 (field pkt.data 8 8))
        let (s, left) := s.applySignals (s.coll i).part (s.coll i).keptSignals
        .next (s.modColl i (fun c => { c with keptSignals := left }))

/-- The kept packet that an ACK or BUSY answers: the oldest with its node, TAG, key and bucket (R416, R424, R433). -/
def State.answered (s : State) (p : Packet) : Option Nat :=
  s.lnk.tx.findIdx? (fun t => decide (t.port < 6) && t.pkt.dst == p.src && t.pkt.tag == p.tag && t.pkt.key == p.key && t.pkt.bucket == p.bucket)

/-- ACK: the sender's copy is freed (R424). -/
def execAck (pkt : Packet) (s : State) : Res :=
  match s.takePacket pkt msgAck with
  | none => .next s
  | some s =>
    match s.answered pkt with
    | some k => .next (s.modLnk (fun l => { l with tx := l.tx.eraseIdx k }))
    | none => .next s

/-- BUSY: the sender keeps the packet until it is woken (R433). -/
def execBusy (pkt : Packet) (s : State) : Res :=
  match s.takePacket pkt msgBusy with
  | none => .next s
  | some s =>
    match s.answered pkt with
    | some k => .next (s.modLnk (fun l => { l with tx := l.tx.modify k (fun t => { t with busy := true }) }))
    | none => .next s

/-- WAKE: the oldest BUSY packet of the bucket is sent again (R433). -/
def execWake (pkt : Packet) (s : State) : Res :=
  match s.takePacket pkt msgWake with
  | none => .next s
  | some s =>
    match s.lnk.tx.findIdx? (fun t => decide (t.port < 6) && t.busy && t.pkt.dst == pkt.src && t.pkt.key == pkt.key
        && t.pkt.bucket == pkt.bucket) with
    | some k =>
      let t := s.lnk.tx.getD k default
      .next ((s.modLnk (fun l => { l with tx := l.tx.modify k (fun t => { t with busy := false }) })).resend t)
    | none => .next s

/-- The tables of a collective as an ARM reads them: nodes and bucket entries (R425 to R427). -/
def State.collTables (s : State) (part : Nat) (d : CollDesc) : Option (List (Nat × Nat) × List Bytes) :=
  let node (r : Nat) : Option (Nat × Nat) :=
    (s.readVa part (d.nodeTable + 4 * r) 4).bind (fun b =>
      let x := leNat b
      if bitsOf x 15 12 = 0 ∧ bitsOf x 31 19 = 0 ∧ bitsOf x 18 16 < 6 then some (bitsOf x 11 0, bitsOf x 18 16) else none)
  match allSome ((List.range d.ranks).map node), allSome ((List.range d.buckets).map (s.bucketEntry part d)) with
  | some ns, some bs => some (ns, bs)
  | _, _ => none

/-- A bucket entry's fields are in range (R426). -/
def bucketEntryOk (b : Bytes) : Bool :=
  inRange (field b 0 4) 1 262144 && inRange (field b 4 2) 1 2048 && decide (byteAt b 6 < 2) && byteAt b 7 == 0 && zeroBytes b 12 15
    && field b 16 8 % 256 == 0 && zeroBytes b 24 31

/-- A descriptor's own fields are in range (R425, R427). -/
def descOk (b : Bytes) : Bool :=
  let d := parseDesc b
  let red := d.kind == 1
  inRange d.kind 1 4 && (if red then inRange d.topology 1 3 else d.topology == 0)
    && (if red && d.topology != 3 then decide (d.upPort < 2) else d.upPort == 0) && byteAt b 3 == 0
    && inRange d.ranks 1 4096 && decide (d.myRank < d.ranks) && (if red then inRange d.buckets 1 4096 else d.buckets == 0)
    && (!red || inRange d.parts 1 256) && decide (byteAt b 64 < 2) && zeroBytes b 65 127

/-- An armed collective uses another port for a node (R427). -/
def State.portConflict (s : State) (part num : Nat) (ns : List (Nat × Nat)) : Bool :=
  s.lnk.colls.any (fun c => !(c.part == part && c.number == num)
    && c.nodes.any (fun x => ns.any (fun y => y.1 == x.1 && y.2 != x.2)))

/-- What COLL reads for an ARM, or the REASON for which it refuses it (R427). -/
def State.armCheck (s : State) (a : ArmReq) : (CollDesc × List (Nat × Nat) × List Bytes) ⊕ Nat :=
  match s.descBytes a.part a.coll with
  | none => .inr 1
  | some b =>
    let d := parseDesc b
    if !descOk b then .inr 1
    else
      match s.collTables a.part d with
      | none => .inr 1
      | some (ns, bs) =>
        if !bs.all bucketEntryOk then .inr 1
        else if s.lnk.colls.any (fun c => c.part == a.part && c.number != a.coll && c.desc.key == d.key) then .inr 2
        else if s.lnk.colls.any (fun c => c.part == a.part && c.number == a.coll && c.buckets.any Bucket.live) then .inr 3
        else if decide (4096 < s.liveBuckets + d.buckets) then .inr 4
        else if s.portConflict a.part a.coll ns then .inr 5
        else .inl (d, ns, bs)

/-- Keys with every other node of the table are in place (R423). -/
def State.keysReady (s : State) (ns : List (Nat × Nat)) : Bool :=
  ns.all (fun n => n.1 == s.nodeId || (match s.linkKey n.1 with | some k => !k.refused | none => false))

/-- A bucket as it is armed (R426, R436). -/
def armedBucket (base : Nat) (e : Bytes) : Bucket :=
  let b : Bucket := { st := .armed, openBeat := base + field e 8 4, lines := field e 0 4, tileLines := field e 4 2,
                      zac := bitOf (byteAt e 6) 0, resultVa := BitVec.ofNat 64 (field e 16 8) }
  { b with tiles := (List.range b.tileCount).map (fun t => { lines := List.replicate (b.tileSize t) {} }) }

/-- Arm a collective; beats already past open their buckets at once (R427, R436, R514). -/
def State.armColl (s : State) (a : ArmReq) (d : CollDesc) (ns : List (Nat × Nat)) (bs : List Bytes) : State :=
  let old := ((s.armedColl a.part a.coll).map s.coll).getD {}
  let c : Coll := { old with part := a.part, number := a.coll, desc := d, nodes := ns, baseBeat := a.base,
                             buckets := bs.map (armedBucket a.base), permuteFired := false }
  let s := s.modLnk (fun l => { l with past := l.past.filter (fun x => !(x.part == a.part && x.number == a.coll)) })
  let s := match s.armedColl a.part a.coll with
    | some i => s.modColl i (fun _ => c)
    | none => s.modLnk (fun l => { l with colls := l.colls ++ [c] })
  match s.armedColl a.part a.coll with
  | some i =>
    (List.range bs.length).foldl (fun (s : State) b =>
      if (s.bucket i b).openBeat ≤ s.time.beat.toNat ∧ !s.time.stopped then s.openBucket i b else s) s
  | none => s

/-- ARM_DELIVERY: COLL takes the first delivered ARM that it can refuse or arm now (R423, R427). -/
def execArmDelivery (s : State) : Res :=
  let ready (a : ArmReq) : Bool := match s.armCheck a with | .inr _ => true | .inl (_, ns, _) => s.keysReady ns
  if !s.running then .next s
  else
    match s.lnk.armPending.findIdx? ready with
    | none => .next s
    | some k =>
      let a := s.lnk.armPending.getD k default
      let s := s.modLnk (fun l => { l with armPending := l.armPending.eraseIdx k })
      match s.armCheck a with
      | .inr r => .next (s.eventPart a.part { code := 0x0D07, sev := 2, source := srcColl, payload := a.coll % 256 + r * 2 ^ 8 })
      | .inl (d, ns, bs) => .next (s.armColl a d ns bs)

/-- The armed collective with a key for which `ok` holds. -/
def State.keyed (s : State) (key : BitVec 32) (kind : Nat) (ok : Coll → Bool) : Option Nat :=
  s.lnk.colls.findIdx? (fun c => c.desc.key == key && c.desc.kind == kind && ok c)

/-- BUCKET_OPEN: COLL has counted the bucket's opening beat (R436, R514, R522). -/
def execBucketOpen (key : BitVec 32) (bucket : Nat) (s : State) : Res :=
  let due (c : Coll) : Bool := let b := c.buckets.getD bucket {}; b.st == .armed && decide (b.openBeat ≤ s.time.beat.toNat)
  match s.keyed key 1 due with
  | some i => if s.running && !s.time.stopped then .next (s.openBucket i bucket) else .next s
  | none => .next s

/-- Beats counted since a bucket opened (R437, R514). -/
def State.openBeats (s : State) (b : Bucket) : Nat := s.time.counted - b.openedAt

/-- The lowest next term of a tile's lines that are not finished (R437). -/
def TileSt.waiting (t : TileSt) : Option Nat :=
  (t.lines.filter (fun x => !x.finished)).foldl (fun m x => some (match m with | some n => min n x.next | none => x.next)) none

/-- This module adds a tile's terms (R431). -/
def Coll.addsTile (c : Coll) (t : Nat) : Bool := c.adder t == c.desc.myRank

/-- PAYLOAD of LATE_RANK and BUCKET_GIVE_UP (R444). -/
def Coll.latePayload (c : Coll) (bucket tile term : Nat) : Nat :=
  let n := c.termName term
  c.number + bucket % 4096 * 2 ^ 8 + tile % 2 ^ 18 * 2 ^ 20 + n.1 % 4096 * 2 ^ 38 + n.2 % 256 * 2 ^ 50

/-- LATE_RANK: the next term of a tile is late (R437). -/
def execLateRank (key : BitVec 32) (bucket tile : Nat) (s : State) : Res :=
  let due (c : Coll) : Bool :=
    let b := c.buckets.getD bucket {}
    let late := if c.desc.lateBeats = 0 then 1024 else c.desc.lateBeats
    let t := b.tiles.getD tile {}
    b.st == .opened && c.addsTile tile && t.waiting.isSome && decide (late * (t.lastLate + 1) ≤ s.openBeats b)
  match s.keyed key 1 due with
  | some i =>
    if !s.running then .next s
    else
      let c := s.coll i
      let t := (s.bucket i bucket).tiles.getD tile {}
      let s := s.modBucket i bucket (fun b => { b with tiles := b.tiles.modify tile (fun t => { t with lastLate := t.lastLate + 1 }) })
      .next (s.eventPart c.part { code := 0x0D04, sev := 1, source := srcColl,
                                  payload := c.latePayload bucket tile (t.waiting.getD 0) })
  | none => .next s

/-- A tile's waiting lines give up, with the event, and are sent on (R437). -/
def State.giveUpTile (s : State) (i b t : Nat) : State :=
  let c := s.coll i
  let tile := (s.bucket i b).tiles.getD t {}
  match tile.waiting with
  | none => s
  | some term =>
    let (k, s) := s.draw
    let zac := (s.bucket i b).zac
    let free (j : Nat) : Line := bytesLine (sliceBytes (Config.freeBytes k (256 * j)) 0 256) 0
    let ls := (List.zip (List.range tile.lines.length) tile.lines).map (fun (x : Nat × LineSt) =>
      x.2.giveUp zac c.hasPartial (free x.1))
    let idx := (List.range tile.lines.length).filter (fun j => !(tile.lines.getD j {}).finished)
    let s := (List.zip (List.range tile.lines.length) tile.lines).foldl (fun (s : State) (x : Nat × LineSt) =>
      match s.lineDpa c.part (s.bucket i b) (t * (s.bucket i b).tileLines + x.1) with
      | some d => s.pinLine c.part (d / 256) x.2 (ls.getD x.1 {})
      | none => s) s
    let s := s.modBucket i b (fun x => { x with tiles := x.tiles.modify t (fun y => { y with lines := ls }) })
    let s := s.eventPart c.part { code := 0x0D05, sev := 2, source := srcColl, payload := c.latePayload b t term }
    (s.sendFinished i b t (idx.map (fun j => (j, ls.getD j {})))).wakePart c.part

/-- BUCKET_GIVE_UP: GIVE_UP_BEATS have passed since the bucket opened (R437). -/
def execBucketGiveUp (key : BitVec 32) (bucket : Nat) (s : State) : Res :=
  let due (c : Coll) : Bool :=
    let b := c.buckets.getD bucket {}
    b.st == .opened && !b.gaveUp && c.desc.giveUpBeats != 0 && decide (c.desc.giveUpBeats ≤ s.openBeats b)
  match s.keyed key 1 due with
  | some i =>
    if !s.running then .next s
    else
      let s := s.modBucket i bucket (fun b => { b with gaveUp := true })
      .next ((List.range (s.bucket i bucket).tiles.length).foldl (fun (s : State) t =>
        if (s.coll i).addsTile t then s.giveUpTile i bucket t else s) s).offerLocal
  | none => .next s

/-- BUCKET_COMPLETE: every result line is written here; the record, the predicates and the event follow (R436, R439, R440). -/
def execBucketComplete (key : BitVec 32) (bucket : Nat) (s : State) : Res :=
  let due (c : Coll) : Bool := let b := c.buckets.getD bucket {}; b.st == .opened && b.written.length == b.lines
  match s.keyed key 1 due with
  | some i =>
    if !s.running then .next s
    else
      let c := s.coll i
      let b := s.bucket i bucket
      let s := s.modBucket i bucket (fun b => { b with st := .complete })
      let record := leBytes 1 b.status.toNat ++ leBytes 3 0 ++ leBytes 4 b.replaced ++ leBytes 8 s.stamp.toNat
      let s := s.touchWalks c.part (c.desc.recordVa + 16 * bucket) 16
      let s := match s.xlateRangeAgent c.part (c.desc.recordVa + 16 * bucket) 16 true with
        | .inl ps => s.writePieces ps record
        | .inr _ => s
      let s := s.modWnd (fun w => { w with jobs := w.jobs.map (fun j =>
        if j.part = c.part ∧ j.phase ≠ .fetching then { j with preds := j.preds.map (fun p => p.bucket c.number bucket b.status) }
        else j) })
      let s := (List.range b.tiles.length).foldl (fun (s : State) t => s.wakeTile i bucket t (fun _ => true)) s
      let s := if c.desc.completeEvents then
          s.eventPart c.part { code := 0x0D0A, sev := 0, source := srcColl,
                               payload := c.number + bucket % 4096 * 2 ^ 8 + b.status.toNat * 2 ^ 20 }
        else s
      .next s.offerLocal.settleAll
  | none => .next s

/-- PERMUTE_SIGNAL_RELEASE: the instance's base beat has been counted (R430, R522). -/
def execPermuteSignalRelease (key : BitVec 32) (s : State) : Res :=
  match s.keyed key 4 (fun c => !c.permuteFired && decide (c.baseBeat ≤ s.time.beat.toNat)) with
  | some i =>
    if !s.running then .next s
    else
      let (s, left) := s.applySignals (s.coll i).part (s.coll i).permuteHeld
      .next (s.modColl i (fun c => { c with permuteHeld := left, permuteFired := left.isEmpty }))
  | none => .next s

/-- Ports whose route has stayed DOWN for FAIL_BEATS (R443). -/
def State.deadPorts (s : State) : List Nat :=
  let n := bitsOf s.lnk.cfg.toNat 47 16
  if n = 0 then []
  else (List.range 6).filter (fun p =>
    match (s.port p).downSince with | some b => (s.port p).st != .up && decide (b + n ≤ s.time.counted) | none => false)

/-- Drop kept packets, with what has not left of them, and other waiting packets (R443). -/
def State.dropPackets (s : State) (gone : TxPacket → Bool) (also : Packet → Bool) : State :=
  let dead := s.lnk.tx.filter gone
  let hit (x : TxItem) : Bool := dead.any (fun t => t.pkt == x.pkt) || also x.pkt
  s.modLnk (fun l =>
    { l with tx := l.tx.filter (fun t => !gone t),
             ports := l.ports.map (fun (p : PortSt) =>
               let cut (v : Nat) : Bool := p.txq.any (fun x => hit x && x.left != 0 && x.pkt.vc.toNat == v)
               { p with txq := p.txq.filter (fun x => !hit x),
                        mid := (List.zip (List.range p.mid.length) p.mid).map (fun (x : Nat × Option Bool) =>
                          if cut x.1 then none else x.2) }) })

/-- LINK_EFFECT_DROPPED: the effects of a core's commit whose route has stayed DOWN are dropped; the job fails once its
deliveries have ended. A number that is no core names the Tipples' and COLL's own traffic, barrier messages among it (R443). -/
def execLinkEffectDropped (core : Nat) (s : State) : Res :=
  let owner : Option Nat := if core < 192 then some core else none
  let gone (t : TxPacket) : Bool := t.core == owner && s.deadPorts.contains t.port
  let barrier (p : Packet) : Bool :=
    owner.isNone && s.deadPorts.contains p.port && (p.msg == msgArrive || p.msg == msgRelease)
  let dead := s.lnk.tx.filter gone
  if !s.running || (dead.isEmpty && !s.lnk.ports.any (fun p => p.txq.any (fun x => barrier x.pkt))) then .next s
  else
    let s := s.dropPackets gone barrier
    if core < 192 then
      let c := s.core core
      let nodes := dead.foldl (fun l t => insertSorted t.pkt.dst.toNat l) []
      let s := nodes.foldl (fun (s : State) n =>
        s.eventPart c.part { code := 0x0D08, sev := 2, source := coreSource core, payload := c.task % 65536 + n * 2 ^ 16 }) s
      .next (s.modTask c.job c.task (fun t => { t with linkFail := true }))
    else .next s

end Sys2Proof.Machine
end

