-- ==== Sys2Proof/Machine/MemSys.lean ====
section
/-! DEFINITION. The memory groups: request slots, bank queues and wake sets, walks, scrub, page retirement and refresh (R343 to
R381, R452). -/

namespace Sys2Proof.Machine

/-- The next set bit after the last one woken, among requesters of one kind (R359). -/
def Bank.nextWake (x : Bank) (core : Bool) : Option Requester :=
  let l := x.wake.filter (fun r => reqCore r == core)
  let after := match x.lastWoken with | some w => l.filter (fun r => decide (reqIndex w < reqIndex r)) | none => l
  let least (l : List Requester) : Option Requester :=
    l.foldl (fun (a : Option Requester) r => match a with | some y => if reqIndex r < reqIndex y then some r else some y | none => some r) none
  match least after with | some r => some r | none => least l

/-- An entry of a queue frees: it is reserved for the next of the wake set, to which WAKE goes (R359). -/
def Bank.wakeNext (x : Bank) (core : Bool) : Bank :=
  match x.nextWake core with
  | some r => { x with reserved := x.reserved ++ [r], lastWoken := some r }
  | none => x

/-- Put an access into its queue (R358). -/
def Bank.enqueue (x : Bank) (a : Access) : Bank :=
  if reqCore a.who then { x with coreQ := x.coreQ ++ [a] } else { x with edgeQ := x.edgeQ ++ [a] }

/-- Mark the slot of a core's access waiting or not (R358). -/
def State.slotWaits (s : State) (who : Requester) (id : Nat) (w : Bool) : State :=
  match who with
  | .core n => s.modCore n (fun c => { c with slots := c.slots.map (fun x => if x.id = id then { x with waiting := w } else x) })
  | .agent _ => s

/-- Where an access's block lies in DRAM: channel and bank. A scrub read names the place itself (R347, R375, R377). -/
def State.accessBank (s : State) (a : Access) : Nat × Nat :=
  let d := if a.scrub then 256 * a.block else s.remap (256 * a.block)
  (dpaChannel d, dpaBank d)

/-- An earlier access to the block waits in its bank's queues, so that a later one is served after it (R362). -/
def State.blockQueued (s : State) (a : Access) : Bool :=
  let (ch, b) := s.accessBank a
  let x := s.bank ch b
  (x.coreQ ++ x.edgeQ).any (fun y => y.block == a.block && y.scrub == a.scrub)

/-- The access hits its line at once (R351, R362); a scrub read always goes to DRAM (R375). -/
def State.hitsNow (s : State) (a : Access) : Bool := !a.scrub && (s.mem.line a.block).isSome && !s.blockQueued a

/-- An access enters its bank's queue (R358, R362). -/
def State.enqueue (s : State) (a : Access) : State :=
  let (ch, b) := s.accessBank a
  let k := s.mem.arrivals
  (s.modMem (fun m => { m with arrivals := m.arrivals + 1 })).modBank ch b (fun x => x.enqueue { a with serial := k })

/-- An access reaches its memory group: served by the cache, queued at its bank, or refused with BANK_BUSY (R351, R358,
R359). -/
def State.arrive (s : State) (a : Access) : State :=
  let (ch, b) := s.accessBank a
  let k := reqCore a.who
  if s.hitsNow a then s.mscHit a.block a.write
  else
    let g := dpaGroup (256 * a.block)
    let s := if a.scrub then s else s.modMem (fun m => { m with misses := bump48 m.misses g })
    if decide ((s.bank ch b).used k < queueSize k) then s.enqueue a
    else
      let s := s.modMem (fun m => { m with busy := bump48 m.busy g })
      let s := s.slotWaits a.who a.slot true
      s.modBank ch b (fun x =>
        { x with wake := if x.wake.contains a.who then x.wake else x.wake ++ [a.who],
                 agentWait := if k then x.agentWait else x.agentWait ++ [a] })

/-- A woken access arrives, for which an entry of a bank is reserved: it takes the entry, or hits and leaves the entry to the next
bit (R358, R359). -/
def State.arriveReserved (s : State) (a : Access) (ch b : Nat) : State :=
  let s := s.modBank ch b (fun x => { x with reserved := x.reserved.erase a.who })
  if s.hitsNow a then (s.mscHit a.block a.write).modBank ch b (fun x => x.wakeNext (reqCore a.who))
  else s.enqueue a

/-- A core may send an access: a slot is free, and fewer than 8 slots are held on its bank (R356, R357). -/
def Core.slotFree (c : Core) (id d : Nat) : Bool :=
  decide (c.slots.length < 48) && !c.slots.any (fun x => x.id == id)
    && decide ((c.slots.filter (fun x => x.channel == dpaChannel d && x.bank == dpaBank d)).length < 8)

/-- The access is one that a walk can have given: inside DRAM and inside its partition's ranges (R346, R349). -/
def State.accessOk (s : State) (part : Option Nat) (d : Nat) : Bool :=
  decide (d < s.dramBytes) && (match part with | some p => (s.part p).owns d | none => true)

/-- Errors that a line of the memory-side cache has taken are found (R372). -/
def State.lineErrors (s : State) (block : Nat) (errors : List (Fin 8)) : State :=
  s.modMem (fun m => { m with msc := m.msc.map (fun l =>
    if l.block = block ∧ !l.reorder then { l with bad := errors.foldl (fun b e => insertSorted (8 * block + e.val) b) l.bad } else l) })

/-- MEMORY_ACCESS (R351 to R359, R372). VC1 carries it, so that it is not sent while injection is stopped (R28, R468). -/
def execMemoryAccess (who : Requester) (slot : Nat) (part : Option Nat) (dpa : Nat) (op : MemOp) (s : State) : Res :=
  let a : Access := { who := who, slot := slot, block := dpa / 256, part := part, write := op.write }
  if !(s.running && s.accessOk part dpa && s.injects .request) then .next s
  else
    let s := s.lineErrors a.block op.lineErrors
    match who with
    | .agent _ => .next (s.arrive a)
    | .core n =>
      let c := s.core n
      if decide (192 ≤ n) || c.phase == .idle || part != some c.part || !c.slotFree slot dpa then .next s
      else
        let x : ReqSlot := { id := slot, block := dpa / 256, channel := dpaChannel dpa, bank := dpaBank dpa, part := part, write := op.write }
        .next ((s.modCore n (fun c => { c with slots := c.slots ++ [x] })).arrive a)

/-- The access that a queue serves next: one passed over 16 times, else the first row hit, else the oldest (R360). -/
def pickAccess (q : List Access) (row : Option Nat) : Nat :=
  match q.findIdx? (fun a => decide (16 ≤ a.passed)) with
  | some i => i
  | none => (q.findIdx? (fun a => row == some (dpaRow (256 * a.block)))).getD 0

/-- Take an access out of a queue; those before it were passed over (R360). -/
def takeAccess (q : List Access) (i : Nat) : List Access :=
  (q.take i).map (fun a => { a with passed := a.passed + 1 }) ++ q.drop (i + 1)

/-- What patrol scrub does with a block that it has read: corrected errors are written back, unless a dirty line supersedes the
block, and count toward CE_LIMIT of their page (R375, R376). -/
def State.scrubEffect (s : State) (at_ : Nat) : State :=
  let d := 256 * at_
  let sx := blockSectors at_
  let block := s.sectorAt (8 * at_) / 8
  let page := block / 256
  let fixed := sx.filter (fun x => s.mem.flip.contains x && !s.mem.bad.contains x)
  let s := s.readBlock block at_ true
  let dirty := match s.mem.line block with | some l => l.dirty | none => false
  let key := 64 * page + dpaChannel d
  let s := s.modMem (fun m =>
    { m with flip := if dirty then m.flip else m.flip.filter (fun x => !fixed.contains x),
             ceInPass := if fixed.isEmpty then m.ceInPass else setKey key (lookupD 0 key m.ceInPass + fixed.length) m.ceInPass })
  let n := s.mem.ceInPass.foldl (fun n e => if e.1 / 64 = page then n + e.2 else n) 0
  if !fixed.isEmpty && decide (bitsOf s.mem.retireCfg.toNat 7 0 < n) then s.askRetire page 3 (dpaGroup d) else s

/-- The access of a bank's queues that is served: the one that R360 picks, or an earlier one to the same block (R360, R362). -/
def Bank.serves (x : Bank) : Option Access :=
  let edgeFirst := (x.selections + 1) % 4 == 0
  let useEdge := if edgeFirst then !x.edgeQ.isEmpty else x.coreQ.isEmpty
  let q := if useEdge then x.edgeQ else x.coreQ
  match q[pickAccess q x.openRow]? with
  | none => none
  | some a => ((x.coreQ ++ x.edgeQ).filter (fun y => y.block == a.block && y.scrub == a.scrub)).foldl (fun (m : Option Access) y =>
      match m with | some z => if y.serial < z.serial then some y else some z | none => some y) none

/-- A bank serves an access of its queues: those before it were passed over, and its entry goes to the next of the wake set (R359,
R360). -/
def Bank.serve (x : Bank) (a : Access) : Bank :=
  let row := dpaRow (256 * a.block)
  let drop (q : List Access) : List Access := match q.findIdx? (· == a) with | some i => takeAccess q i | none => q
  let x := { x with selections := x.selections + 1, openRow := some row }
  if reqCore a.who then ({ x with coreQ := drop x.coreQ }).wakeNext true else ({ x with edgeQ := drop x.edgeQ }).wakeNext false

/-- DRAM_BANK_SERVE (R344, R345, R351, R352, R358 to R360, R362, R375): the bursts are read with the errors that they have taken
since; an access that a line serves by now reads nothing. -/
def execDramBankServe (channel : Fin 64) (turn : BankTurn) (s : State) : Res :=
  match (s.bank channel turn.bank).serves with
  | none => .next s
  | some a =>
    if !s.running then .next s
    else
      let at_ := if a.scrub then a.block else s.remap (256 * a.block) / 256
      let s := s.modBank channel turn.bank (fun x => x.serve a)
      if a.scrub then .next ((s.upsetBursts at_ turn.errors).scrubEffect at_)
      else if (s.mem.line a.block).isSome then .next (s.mscFill a.block a.write)
      else .next (((s.upsetBursts at_ turn.errors).readBlock a.block at_ false).mscFill a.block a.write)

/-- The bank after a requester has used or given up its oldest reservation. -/
def Bank.dropReserved (x : Bank) (who : Requester) : Bank := { x with reserved := x.reserved.erase who }

/-- A WAKE finds no waiting access: the bit is cleared and the entry goes to the next bit (R361). -/
def Bank.release (x : Bank) (who : Requester) : Bank :=
  ({ x.dropReserved who with wake := x.wake.filter (· != who) }).wakeNext (reqCore who)

/-- A core's oldest access that waits for a bank (R358, R359). -/
def State.waitingSlot (s : State) (n channel bank : Nat) : Option ReqSlot :=
  (s.core n).slots.find? (fun y => y.waiting && s.accessBank { who := .core n, slot := y.id, block := y.block, part := y.part, write := y.write } == (channel, bank))

/-- A WAKE is delivered to a requester: it resends its oldest waiting access to the bank, or releases the entry (R359, R361). -/
def State.takeWake (s : State) (who : Requester) (channel bank : Nat) : State :=
  let x := s.bank channel bank
  if !x.reserved.contains who then s
  else
    match who with
    | .core n =>
      match s.waitingSlot n channel bank with
      | some y =>
        (s.slotWaits who y.id false).arriveReserved { who := who, slot := y.id, block := y.block, part := y.part, write := y.write } channel bank
      | none => s.modBank channel bank (fun x => x.release who)
    | .agent _ =>
      match x.agentWait.find? (fun y => y.who == who) with
      | some y => (s.modBank channel bank (fun x => { x with agentWait := x.agentWait.erase y })).arriveReserved y channel bank
      | none => s.modBank channel bank (fun x => x.release who)

/-- MESH_WAKE: a VC0 message to a fenced core is dropped and counted, and one to a core of a stopped cluster restarts the cluster
and is delivered after the restart (R35, R359, R361, R464). -/
def execMeshWake (who : Requester) (channel : Fin 64) (bank : Fin 16) (s : State) : Res :=
  if !(s.running && (s.bank channel bank).reserved.contains who) then .next s
  else
    match who with
    | .agent _ => .next (s.takeWake who channel bank)
    | .core n =>
      if s.isFenced n then .next (s.modCore n (fun c => { c with droppedVc0 := c.droppedVc0 + 1 }))
      else if s.wnd.clusters.getD (clusterOf n) .stopped == .running then .next (s.takeWake who channel bank)
      else
        .next (s.modWnd (fun w =>
          { w with clusters := w.clusters.set (clusterOf n) .restarting, heldWakes := w.heldWakes ++ [(n, channel.val, bank.val)] }))

/-- CLUSTER_RESTART: held messages are delivered and the waiting tasks of the cluster start; a cluster that holds no task stops
again (R34, R35, R518). -/
def execClusterRestart (cluster : Fin 16) (s : State) : Res :=
  if s.running && s.wnd.clusters.getD cluster .stopped == .restarting then
    let mine (w : Nat × Nat × Nat) : Bool := clusterOf w.1 == cluster.val
    let ws := s.wnd.heldWakes.filter mine
    let s := (s.clusterRun cluster).modWnd (fun w => { w with heldWakes := w.heldWakes.filter (fun x => !mine x) })
    let s := ws.foldl (fun (s : State) w => s.takeWake (.core w.1) w.2.1 w.2.2) s
    let s := (List.range 12).foldl (fun (s : State) i =>
      if (s.core (12 * cluster + i)).phase == .waitClock then s.startOnCore (12 * cluster + i) else s) s
    .next (s.clusterStop cluster)
  else .next s

/-- WAKE_RESERVATION_LAPSE (R359). -/
def execWakeReservationLapse (channel : Fin 64) (bank : Fin 16) (s : State) : Res :=
  match (s.bank channel bank).reserved with
  | [] => .next s
  | r :: _ => if s.running then .next (s.modBank channel bank (fun x => (x.dropReserved r).wakeNext (reqCore r))) else .next s

/-- ACCESS_RESPONSE (R356, R361): only an access that is neither waiting nor queued has a response. -/
def execAccessResponse (core slot : Nat) (s : State) : Res :=
  match (s.core core).slots.find? (fun x => x.id == slot) with
  | none => .next s
  | some x =>
    if x.waiting || (s.bank x.channel x.bank).coreQ.any (fun a => a.who == .core core && a.slot == slot) then .next s
    else .next (s.modCore core (fun c => { c with slots := c.slots.filter (fun y => y.id != slot) }))

/-- An access kind that writes (R364, R369). -/
def kindWrites (k : AccessKind) : Bool := match k with | .out | .spill => true | _ => false

/-- TRANSLATION_WALK (R366, R367, R369): what the walk leaves in the translation caches and counters. Its outcome is met
where the access itself is made (R369; log 56). -/
def execTranslationWalk (core : Nat) (kind : AccessKind) (va : BitVec 64) (s : State) : Res :=
  if s.running && decide (core < 192) && (s.core core).phase == .executing && s.maySend core 0 0 then
    .next (s.xlate core (s.core core).part va.toNat (kindWrites kind) (kind == .fetch)).1
  else .next s

/-- Blocks of a channel (R343, R375). -/
def State.channelBlocks (s : State) : Nat := s.dramBytes / 256 / 64

/-- The block that scrub reads at a position of its pass: bank, then block within the row, then row (R347, R375; log 57). -/
def scrubBlock (ch pos : Nat) : Nat :=
  let r := pos / 256
  (r * 2 ^ 22 + pos / 16 % 16 * 2 ^ 18 + pos % 16 * 2 ^ 14 + (ch ^^^ r % 64) * 2 ^ 8) / 256

/-- Patrol scrub as an edge agent of a channel (R358, R375). -/
def scrubAgent (channel : Nat) : Requester := .agent (12 + channel)

/-- SCRUB_READ: the next block of the pass is read through the bank's edge-agent queue, where a full queue refuses it (R358, R359,
R375, R376, R380, R381). -/
def execScrubRead (turn : ScrubTurn) (s : State) : Res :=
  let channel := turn.channel
  if !s.running || bitsOf s.mem.scrubCfg.toNat 7 0 = 0 then .next s
  else
    let pos := s.mem.scrubPos.getD channel 0
    let block := scrubBlock channel pos
    let last := decide (s.channelBlocks ≤ pos + 1)
    let a : Access := { who := scrubAgent channel, slot := 0, block := block, part := none, write := false, scrub := true }
    let (ch, b) := s.accessBank a
    let s := if decide ((s.bank ch b).used false < queueSize false) then (s.upsetBursts block turn.errors).scrubEffect block else s.arrive a
    .next (s.modMem (fun m =>
      { m with scrubPos := m.scrubPos.set channel (if last then 0 else pos + 1),
               ceInPass := if last then m.ceInPass.filter (fun e => e.1 % 64 != channel.val) else m.ceInPass }))

/-- Marks of sector `x` of `l` are copied to sector `y` (R377). -/
def copyMark (l : List Nat) (x y : Nat) : List Nat := if l.contains x then insertSorted y l else l.filter (· != y)

/-- The bursts of a page are copied to a spare page unchanged: their errors go with them, and POISON stays with the address (R377). -/
def State.copyPage (s : State) (page k : Nat) : State :=
  let dst := (s.spareBase + 65536 * k) / 32
  s.modMem (fun m => (List.range 2048).foldl (fun m i =>
    { m with bad := copyMark m.bad (2048 * page + i) (dst + i), flip := copyMark m.flip (2048 * page + i) (dst + i) }) m)

/-- PAGE_RETIRE (R376 to R380): the page is copied to the next spare page, from then on accesses to it go there, and the list and
the event are written. -/
def execPageRetire (s : State) : Res :=
  match s.mem.retireReq with
  | [] => .next s
  | (page, reason, group) :: rest =>
    if !s.running then .next s
    else
      let s := s.modMem (fun m => { m with retireReq := rest })
      if 4096 ≤ s.flash.retired.length then
        if s.flash.retireFullSent then .next s
        else
          .next ((s.modFlash (fun f => { f with retireFullSent := true })).eventModule
            { code := 0x0B03, sev := 2, source := srcGroup group, payload := 0 })
      else
        let s := s.copyPage page s.flash.retired.length
        let s := (s.modFlash (fun f => { f with retired := f.retired ++ [{ page := page, reason := reason }] })).writeRetired
        .next (s.eventModule { code := 0x0B01, sev := 1, source := srcGroup group,
                               payload := page + reason * 2 ^ 24 + s.flash.retired.length * 2 ^ 28 })

/-- The words of row `r` of every half-bank (R309). -/
def rowWords (r : Nat) : List Nat := (List.range 6).flatMap (fun q => (List.range 16).map (· + (q * 2 ^ 20 + r * 256) / 16))

/-- End of the resident area of a core as it stands (R383). -/
def Core.resEnd (c : Core) : Nat := c.pillars.foldl (fun m p => max m (p.base + p.bytes)) 0

/-- RESIDENT_AREA_SCRUB: the command brings the errors that the core's arrays have taken, and an idle core scrubs a row of its
half-banks (R449 to R452; log 123). -/
def execResidentAreaScrub (turn : CoreScrub) (s : State) : Res :=
  let core := turn.core
  let s := if s.running && decide (core < 192) then s.modCore core (fun c => turn.upsets.foldl Core.takeUpset c) else s
  let c := s.core core
  if !s.running || decide (192 ≤ core) || c.phase != .idle then .next s
  else
    let ws := (rowWords c.scrubRow).filter (fun w => decide (16 * w < c.resEnd))
    let s := s.modCore core (fun c =>
      { c.countFlips ws with flipWords := c.flipWords.filter (fun w => !ws.contains w), scrubRow := (c.scrubRow + 1) % 4096 })
    .next ((ws.filter (fun w => c.badWords.contains w)).foldl (fun (s : State) w => s.poisonPillarWord core w) s)

/-- PER_BANK_REFRESH (R343, R360). -/
def execPerBankRefresh (channel : Fin 64) (bank : Fin 16) (rfm : Bool) (s : State) : Res :=
  if !s.running then .next s
  else
    .next (s.modBank channel bank (fun x =>
      { x with openRow := none, refreshes := x.refreshes + b2n (!rfm), rfms := x.rfms + b2n rfm }))

end Sys2Proof.Machine
end

