-- ==== Sys2Proof/Machine/Security.lean ====
section
/-! DEFINITION. The security mailbox and its messages (R479 to R504). -/

namespace Sys2Proof.Machine

/-- What a request comes to: the state, STATUS, DETAIL and the body of the response (R483, R485). -/
structure SecReply where
  s : State
  status : Nat
  detail : Nat := 0
  body : Bytes := []

/-- Write a request's response, its event, and clear BUSY (R482, R483, R566). A response longer than RESP_MAX gives way to
one of the header alone with STATUS MALFORMED, where that fits (log 59). -/
def State.respond (s : State) (m : Mbox) (status detail : Nat) (body : Bytes) : State :=
  let hdr (st n : Nat) : Bytes :=
    leBytes 1 (byteAt m.req 0 + 0x80) ++ leBytes 1 st ++ leBytes 1 (byteAt m.req 2) ++ leBytes 1 0 ++ leBytes 4 n
      ++ leBytes 4 detail ++ leBytes 4 (field m.req 20 4) ++ List.replicate 48 0
  let room := field m.req 16 4
  let whole := hdr status (64 + body.length) ++ body
  let out := if whole.length ≤ room then whole else if 64 ≤ room then hdr 1 64 else []
  let addr := field m.req 8 8
  match m.win with
  | .mgmt =>
    let s := if addr + out.length ≤ 16384 then s.modSec (fun x => { x with mgmtBuf := Mem1.write ramD x.mgmtBuf addr out }) else s
    s.modSec (fun x => { x with mgmtBusy := false })
  | .func k f | .bar2 k f | .config k f =>
    let s := if out.isEmpty then s else s.hostWrite k f addr out
    let s := s.eventFn k f { code := 0x0F01, sev := 0, source := srcSec, payload := field m.req 20 4 }
    s.modFn k f (fun x => { x with mboxBusy := false })

/-- The partition of the sending function (R484). -/
def State.senderPart (s : State) (m : Mbox) : Option Nat :=
  match m.win with
  | .mgmt => none
  | .func k f | .bar2 k f | .config k f => s.fnPart k f

/-- Mailboxes that may send a type: the management interface's, any physical function's, any function's of the named
partition (R484). -/
def typeRights (t : Nat) : Option (Bool × Bool × Bool) :=
  match t with
  | 0x01 | 0x02 => some (true, true, true)
  | 0x03 | 0x11 | 0x12 | 0x13 | 0x40 | 0x41 | 0x42 => some (true, true, false)
  | 0x10 => some (true, false, false)
  | 0x20 | 0x21 | 0x22 | 0x30 | 0x31 => some (false, false, true)
  | _ => none

/-- The mailbox may send this request: a type it may send, naming no partition but the sending function's, except in a physical
function's ATTEST (R484; log 124). -/
def State.mayAsk (s : State) (m : Mbox) : Bool :=
  match typeRights (byteAt m.req 0) with
  | none => false
  | some (a, b, c) =>
    let p := byteAt m.req 2
    let own := s.senderPart m == some p
    match m.win with
    | .mgmt => a
    | .func _ f | .bar2 _ f | .config _ f =>
      (b && f.val == 0 && (byteAt m.req 0 == 2 || p == 0xFF || own))
        || (c && (own || (byteAt m.req 0 == 1 && p == 0xFF && (s.senderPart m).isSome)))

/-- The request names a partition that is zeroing; OWNER_COMMAND names one in its body too (R492). -/
def State.asksZeroing (s : State) (m : Mbox) : Bool :=
  let z (p : Nat) : Bool := decide (p < 8) && (s.part p).zeroing
  z (byteAt m.req 2) || (byteAt m.req 0 == 0x13 && z (byteAt m.req 97))

/-- The header is well formed and LENGTH is as the message needs (R483). -/
def Mbox.formed (m : Mbox) (ok : Nat → Bool) : Bool :=
  byteAt m.req 1 == 1 && byteAt m.req 3 == 0 && zeroBytes m.req 24 63 && ok (field m.req 4 4) && m.req.length == field m.req 4 4

/-- The request has TYPE `t`. -/
def isType (t : Nat) (b : Bytes) : Bool := byteAt b 0 == t

/-- IMPORT and EXPORT are handed to the host bulk mover (R482). -/
def Mbox.moved (m : Mbox) : Bool := isType 0x30 m.req || isType 0x31 m.req

/-- The requests in handling: those with the host bulk mover, and the first behind them, which they do not hold up (R482). -/
def State.inHandling (s : State) : List Mbox :=
  s.sec.queue.takeWhile Mbox.moved ++ (s.sec.queue.dropWhile Mbox.moved).take 1

/-- The request in handling whose row is one of these types (R482). -/
def State.request (s : State) (ok : Bytes → Bool) : Option Mbox :=
  if s.running then s.inHandling.find? (fun m => ok m.req) else none

/-- A request leaves the queue. -/
def State.dequeue (s : State) (m : Mbox) : State := s.modSec (fun x => { x with queue := x.queue.erase m })

/-- Handle the request of these types: the checks of R484 and R492 come first. -/
def State.handle (s : State) (ok : Bytes → Bool) (h : State → Mbox → SecReply) : State :=
  match s.request ok with
  | none => s
  | some m =>
    let s := s.dequeue m
    let t := byteAt m.req 0
    if !s.mayAsk m then s.respond m 2 0 []
    else if s.asksZeroing m && t != 1 && t != 2 then s.respond m 2 1 []
    else let r := h s m; r.s.respond m r.status r.detail r.body

/-- A partition reset stops the imports and exports of the partition that the host bulk mover holds, with STATUS RESET (R485,
R501). -/
def State.stopMover (s : State) (p : Nat) : State :=
  ((s.sec.queue.takeWhile Mbox.moved).filter (fun m => s.mayAsk m && byteAt m.req 2 == p)).foldl (fun (s : State) m =>
    (s.dequeue m).respond m 0xA 0 (leBytes (if isType 0x30 m.req then 8 else 16) 0)) s

/-- A message resets a partition (R488, R491, R496). -/
def State.resetPartition (s : State) (p : Nat) (entry : Bytes) : State := (s.stopMover p).partitionReset p entry

/-- MAILBOX_GO: GO is set and the request has been read; a failed read ends the request without a response (R481, R482). -/
def execMailboxGo (link : Fin 4) (fn : Fin 8) (read : HostRead) (s : State) : Res :=
  if s.running && decide (link.val < s.linkCount) && !(s.fn link fn).mboxBusy then
    match read with
    | .ok b =>
      .next ((s.modFn link fn (fun x => { x with mboxBusy := true })).modSec (fun x =>
        { x with queue := x.queue ++ [{ win := .func link fn, req := b }] }))
    | _ => .next s
  else .next s

/-- GET_IDENTITY (R484). -/
def State.getIdentity (s : State) (m : Mbox) : SecReply :=
  if m.formed (· == 64) then { s := s, status := 0, body := s.flashRead 0x22000 9827 } else { s := s, status := 1 }

/-- GET_IDENTITY: the endorsement record (R477, R484). -/
def execGetIdentity (s : State) : Res := .next (s.handle (isType 1) State.getIdentity)

/-- An attestation report (R479). -/
def State.report (s : State) (part : Nat) (nonce transcript : Bytes) : Bytes :=
  let f := s.flash
  let seq := match s.sec.policyApplied with | some b => field b 16 8 | none => 0
  let pol := match s.sec.policyApplied with | some b => Config.sha3_512 (b.take 1344) | none => []
  let msg := leBytes 4 0x4C584154 ++ leBytes 4 1 ++ leBytes 8 f.dsn.toNat ++ leBytes 4 f.fwVersion.toNat ++ leBytes 4 f.romVersion.toNat
    ++ leBytes 4 f.powerCycles ++ leBytes 1 part ++ leBytes 1 (if part < 8 then (s.part part).stateCode else 0) ++ leBytes 2 0
    ++ leBytes 8 s.stamp.toNat ++ leBytes 8 seq ++ sliceBytes nonce 0 64 ++ sliceBytes f.measurement 0 64
    ++ sliceBytes f.configHash 0 64 ++ sliceBytes f.harvestHash 0 64 ++ sliceBytes f.fenceHash 0 64
    ++ s.ownerHash ++ sliceBytes pol 0 64 ++ sliceBytes transcript 0 64
  msg ++ sliceBytes (Config.identitySign msg (ascii "LX960-ATTEST")) 0 4627

/-- ATTEST (R479, R484). -/
def State.attest (s : State) (m : Mbox) : SecReply :=
  let p := byteAt m.req 2
  if m.formed (· == 128) && (decide (p < 8) || p == 0xFF) then
    { s := s, status := 0, body := s.report p ((m.req.drop 64).take 64) [] }
  else { s := s, status := 1 }

/-- ATTEST: a signed report (R479). -/
def execAttest (s : State) : Res := .next (s.handle (isType 2) State.attest)

/-- Random bytes from SEC (log 10). -/
def State.random (s : State) (n : Nat) : State × Bytes :=
  let (k, s) := s.draw
  (s, sliceBytes (Config.randomBytes k n) 0 n)

/-- GET_CHALLENGE (R484, R488). -/
def State.getChallenge (s : State) (m : Mbox) : SecReply :=
  if m.formed (· == 64) then
    let (s, c) := s.random 32
    { s := s.modSec (fun x => { x with challenge := some c }), status := 0, body := c }
  else { s := s, status := 1 }

/-- GET_CHALLENGE: 32 random bytes become the current challenge (R488). -/
def execGetChallenge (s : State) : Res := .next (s.handle (isType 3) State.getChallenge)

/-- The enrolled owner key (R486). -/
def State.ownerPk (s : State) : Bytes := s.flashRead 0x50010 2592

/-- OWNER_ENROL's checks and write (R486, R487). -/
def State.enrol (s : State) (m : Mbox) : SecReply :=
  let r := (m.req.drop 64).take 7235
  if !(s.flashRead 0x50000 7235).all (· == 0xFF#8) then { s := s, status := 6 }
  else if !(m.formed (· == 7299) && field r 0 4 == 0x4C584F57 && field r 4 4 == 1 && field r 8 8 == s.flash.dsn.toNat) then
    { s := s, status := 1 }
  else if !Config.mldsaVerify ((r.drop 16).take 2592) (r.take 2608) (ascii "LX960-OWNER-ENROL") (r.drop 2608) then
    { s := s, status := 3 }
  else { s := s.flashWrite 0x50000 r, status := 0 }

/-- OWNER_ENROL: the enrolment record is checked and written (R487). -/
def execOwnerEnrol (s : State) : Res := .next (s.handle (isType 0x10) State.enrol)

/-- The first four checks of an owner message, with the challenge used up whatever their outcome (R488). -/
def State.ownerChecks (s : State) (m : Mbox) : State × Nat :=
  let c := s.sec.challenge
  let s := s.modSec (fun x => { x with challenge := none })
  if !s.ownerEnrolled then (s, 6)
  else if !m.formed (· == 4731) then (s, 1)
  else if c != some ((m.req.drop 64).take 32) then (s, 4)
  else if !Config.mldsaVerify s.ownerPk ((m.req.drop 64).take 40) (ascii "LX960-OWNER-CMD") ((m.req.drop 104).take 4627) then (s, 3)
  else (s, 0)

/-- OWNER_RELEASE (R488). -/
def State.release (s : State) (m : Mbox) : SecReply :=
  match s.ownerChecks m with
  | (s, 0) =>
    if field m.req 96 8 != s.flash.dsn.toNat then { s := s, status := 1 }
    else
      let s := (List.range 8).foldl (fun (s : State) p => if (s.part p).valid then s.resetPartition p [] else s) s
      { s := (s.modSec (fun x => { x with policyApplied := none, lastSeq := none })).flashErase 0x50000, status := 0 }
  | (s, st) => { s := s, status := st }

/-- OWNER_RELEASE: every partition is reset, the policy is cleared and the owner area erased (R488). -/
def execOwnerRelease (s : State) : Res := .next (s.handle (isType 0x11) State.release)

/-- OWNER_COMMAND (R488). -/
def State.ownerCommand (s : State) (m : Mbox) : SecReply :=
  let p := byteAt m.req 97
  let code := byteAt m.req 96
  match s.ownerChecks m with
  | (s, 0) =>
    if !(inRange code 1 2 && decide (p < 8) && zeroBytes m.req 98 103) then { s := s, status := 1 }
    else if code = 2 then { s := s.endSession p, status := 0 }
    else { s := if (s.part p).valid then s.resetPartition p (s.part p).policy else s, status := 0 }
  | (s, st) => { s := s, status := st }

/-- PARTITION_RESET: an OWNER_COMMAND other than END_SESSION (R488, R492). -/
def execPartitionReset (s : State) : Res :=
  .next (s.handle (fun b => isType 0x13 b && byteAt b 96 != 2) State.ownerCommand)

/-- END_SESSION: the OWNER_COMMAND that ends a session (R488, R495). -/
def execEndSession (s : State) : Res :=
  .next (s.handle (fun b => isType 0x13 b && byteAt b 96 == 2) State.ownerCommand)

/-- Partition entry `p` of a policy (R489). -/
def policyEntry (b : Bytes) (p : Nat) : Bytes := sliceBytes b (64 + 160 * p) 160

/-- Used ranges of an entry in granules: first and count (R489). -/
def entryRanges (e : Bytes) : List (Nat × Nat) :=
  ((List.range 4).map (fun k => (field e (64 + 4 * k) 2, field e (66 + 4 * k) 2))).filter (fun r => r.2 != 0)

/-- Check 0x03 for one entry (R489, R490). -/
def entryFieldsOk (e : Bytes) : Bool :=
  if !bitOf (byteAt e 0) 0 then zeroBytes e 0 159
  else decide (byteAt e 0 < 16) && byteAt e 1 == 0 && decide (1 ≤ field e 2 2) && inRange (field e 10 2) 1 1024
    && inRange (field e 12 4) 1 262144 && inRange (field e 16 2) 256 2048 && multipleOf (field e 16 2) 64
    && zeroBytes e 18 23 && zeroBytes e 56 63 && zeroBytes e 144 159

/-- No two of some ranges overlap (R490). -/
def apart : List (Nat × Nat) → Bool
  | [] => true
  | r :: rs => rs.all (fun q => decide (r.1 + r.2 ≤ q.1) || decide (q.1 + q.2 ≤ r.1)) && apart rs

/-- The first check of R490 that a policy fails, as its DETAIL. -/
def State.policyFault (s : State) (b : Bytes) : Option Nat :=
  let es := ((List.range 8).map (policyEntry b)).filter (fun e => bitOf (byteAt e 0) 0)
  let fns := es.flatMap (fun e => (List.range 32).filter (fun i => bitOf (field e 4 4) i))
  let ranges := es.flatMap entryRanges
  if !(s.ownerEnrolled && field b 0 4 == 0x4C58504F && field b 4 4 == 1 && field b 8 8 == s.flash.dsn.toNat
      && Config.mldsaVerify s.ownerPk (b.take 1344) (ascii "LX960-POLICY") ((b.drop 1344).take 4627)) then some 1
  else if (match s.sec.lastSeq with | some n => decide (field b 16 8 ≤ n) | none => false) then some 2
  else if !(zeroBytes b 28 63 && (List.range 8).all (fun p => entryFieldsOk (policyEntry b p))) then some 3
  else if es.any (fun e => field e 32 24 == 0) || fns.any (fun i => decide (s.linkCount ≤ i / 8)) then some 4
  else if !decide fns.Nodup then some 5
  else if es.any (fun e => field e 66 2 == 0) || ranges.any (fun r => decide (s.spareBase / 2 ^ 28 < r.1 + r.2)) || !apart ranges then
    some 6
  else if es.any (fun e => bitOf (byteAt e 0) 3 && zeroBytes e 80 143) then some 7
  else none

/-- POLICY_SET (R490, R491). -/
def State.policySet (s : State) (m : Mbox) : SecReply :=
  if !m.formed (· == 6035) then { s := s, status := 1 }
  else
    let b := m.req.drop 64
    match s.policyFault b with
    | some d => { s := s, status := 5, detail := d }
    | none =>
      let changed := (List.range 8).filter (fun p =>
        let e := policyEntry b p
        if (s.part p).valid then (s.part p).policy != e else bitOf (byteAt e 0) 0)
      let s := changed.foldl (fun (s : State) p => if (s.part p).valid then s.resetPartition p [] else s) s
      let s := changed.foldl (fun (s : State) p =>
        if bitOf (byteAt (policyEntry b p) 0) 0 then s.resetPartition p (policyEntry b p) else s) s
      let s := s.modSec (fun x => { x with policyApplied := some b, lastSeq := some (field b 16 8) })
      { s := s.eventModule { code := 0x0F02, sev := 0, source := srcSec, payload := field b 16 8 }, status := 0 }

/-- POLICY_SET: a signed policy is checked and applied (R490, R491). -/
def execPolicySet (s : State) : Res := .next (s.handle (isType 0x12) State.policySet)

/-- SESSION_HELLO (R494, R495). -/
def State.hello (s : State) (m : Mbox) : SecReply :=
  let p := byteAt m.req 2
  if !m.formed (· == 1664) then { s := s, status := 1 }
  else
    let nonceT := (m.req.drop 64).take 32
    let ek := (m.req.drop 96).take 1568
    let id := (s.sec.sessionSerial + 1) % 2 ^ 32
    let s := s.modSec (fun x => { x with sessionSerial := x.sessionSerial + 1 })
    let (s, nonceD) := s.random 32
    let (k, s) := s.draw
    let c := sliceBytes (Config.kemEncaps ek k).1 0 1568
    let h := Config.sha3_512 (ascii "LX960-SESSION" ++ leBytes 1 p ++ nonceT ++ ek ++ leBytes 4 id ++ nonceD ++ c)
    let okm := Config.sha3_512 (ascii "LX960-SESSION-KEYS" ++ (Config.kemEncaps ek k).2 ++ h)
    let offer : Session := { id := BitVec.ofNat 32 id, kTd := sliceBytes okm 0 32, kDt := sliceBytes okm 32 32, hash := h }
    { s := s.modPart p (fun q => { q with offer := some offer }), status := 0,
      body := leBytes 4 id ++ List.replicate 28 0 ++ nonceD ++ c ++ s.report p nonceT h }

/-- SESSION_HELLO: a pending offer replaces any other (R494, R495). -/
def execSessionHello (s : State) : Res := .next (s.handle (isType 0x20) State.hello)

/-- A confirmation's plaintext matches h, with the tenant's key and signature where the policy asks for them (R494, R495). -/
def Part.confirms (P : Part) (h t : Bytes) : Bool :=
  let pk := (t.drop 64).take 2592
  t.take 64 == h && (!P.flag 3 || (Config.sha3_512 pk == sliceBytes P.policy 80 64
    && Config.mldsaVerify pk h (ascii "LX960-TENANT") ((t.drop 2656).take 4627)))

/-- SESSION_CONFIRM (R494, R495). -/
def State.confirm (s : State) (m : Mbox) : SecReply :=
  let p := byteAt m.req 2
  if !(m.formed (fun n => decide (192 ≤ n)) && zeroBytes m.req 68 127) then { s := s, status := 1 }
  else
    match (s.part p).offer with
    | none => { s := s, status := 8 }
    | some o =>
      match (if o.id.toNat = field m.req 64 4 then o.openWith p (m.req.drop 128) else none) with
      | some (0, t) =>
        if (s.part p).confirms o.hash t then
          { s := (s.endSession p).modPart p (fun q => { q with session := some (o.accept 0), offer := none }), status := 0 }
        else { s := s, status := 8 }
      | _ => { s := s, status := 8 }

/-- SESSION_CONFIRM: the pending session becomes the active one (R495). -/
def execSessionConfirm (s : State) : Res := .next (s.handle (isType 0x21) State.confirm)

/-- The code that a TENANT_COMMAND's plaintext names: 1 or 2, or 0 for any other plaintext (R496). -/
def tenantCode (t : Bytes) : Nat := if t.length == 64 && inRange (byteAt t 0) 1 2 && zeroBytes t 1 63 then byteAt t 0 else 0

/-- TENANT_COMMAND (R496). -/
def State.tenantCommand (s : State) (m : Mbox) : SecReply :=
  let p := byteAt m.req 2
  if !m.formed (fun n => decide (128 ≤ n)) then { s := s, status := 1 }
  else if (s.part p).session.isNone then { s := s, status := 7 }
  else
    match s.openEnvelope p (m.req.drop 64) with
    | none => { s := s, status := 8 }
    | some (s, t) =>
      match tenantCode t with
      | 1 => { s := s.resetPartition p (s.part p).policy, status := 0 }
      | 2 => { s := s.endSession p, status := 0 }
      | _ => { s := s, status := 1 }

/-- The request is the TENANT_COMMAND whose plaintext asks for END_SESSION (R496). -/
def State.asksEnd (s : State) (b : Bytes) : Bool :=
  isType 0x22 b && (match s.openEnvelope (byteAt b 2) (b.drop 64) with | some (_, t) => tenantCode t == 2 | none => false)

/-- TENANT_PARTITION_RESET: a TENANT_COMMAND other than END_SESSION (R492, R496). -/
def execTenantPartitionReset (s : State) : Res :=
  .next (s.handle (fun b => isType 0x22 b && !s.asksEnd b) State.tenantCommand)

/-- TENANT_END_SESSION: the TENANT_COMMAND that ends the session (R495, R496). -/
def execTenantEndSession (s : State) : Res := .next (s.handle s.asksEnd State.tenantCommand)

/-- STATUS of a host read that did not deliver its data (R485; log 60). -/
def readStatus : HostRead → Nat
  | .poisoned => 0xB
  | _ => 9

/-- A read of an IMPORT's entry delivers as many bytes as the entry names (R499). -/
def clipRead (n : Nat) : HostRead → HostRead
  | .ok b => .ok (sliceBytes b 0 n)
  | r => r

/-- One entry of an IMPORT: its plaintext, or the STATUS and DETAIL of its failure (R498, R499). -/
def State.importOne (s : State) (p : Nat) (plain : Bool) (i : Nat) (read : HostRead) : State × (Bytes ⊕ (Nat × Nat)) :=
  match read with
  | .ok b =>
    if plain then (s, .inl b)
    else if (s.part p).session.isNone then (s, .inr (7, 0))
    else
      match s.openEnvelope p b with
      | some (s, t) => (s, .inl t)
      | none => (s, .inr (8, 0))
  | r => (s, .inr (readStatus r, i))

/-- Write the entries of an IMPORT in order until one fails (R499, R501). -/
def State.importAll (s : State) (p : Nat) (plain : Bool) : Nat → Nat → List HostRead → State × Nat × Nat × Nat
  | i, _, [] => (s, i, 0, 0)
  | i, va, r :: rs =>
    match s.importOne p plain i r with
    | (s, .inr (st, d)) => (s, i, st, d)
    | (s, .inl t) =>
      match s.xlateRangeAgent p va t.length true with
      | .inl ps => State.importAll ((s.touchWalks p va t.length).writePieces ps t) p plain (i + 1) (va + t.length) rs
      | .inr _ => (s, i, 9, i)

/-- IMPORT (R499). -/
def State.importReq (s : State) (reads : List HostRead) (m : Mbox) : SecReply :=
  let p := byteAt m.req 2
  let n := field m.req 72 4
  let plain := bitOf (byteAt m.req 76) 0
  if !(m.formed (· == 80 + 16 * n) && field m.req 64 8 % 64 == 0 && inRange n 1 4096 && decide (byteAt m.req 76 < 2)
      && zeroBytes m.req 77 79) then { s := s, status := 1 }
  else if plain && !(s.part p).flag 2 then { s := s, status := 2 }
  else
    let got := (List.range n).map (fun i => clipRead (field m.req (88 + 16 * i) 4) (reads.getD i .timeout))
    let r := s.importAll p plain 0 (field m.req 64 8) got
    { s := r.1, status := r.2.2.1, detail := r.2.2.2, body := leBytes 8 r.2.1 }

/-- IMPORT: sealed host data is opened and written into the partition's memory (R499, R501). -/
def execImportData (reads : List HostRead) (s : State) : Res := .next (s.handle (isType 0x30) (fun s => s.importReq reads))

/-- Seal the chunks of an EXPORT in order until one fails (R500). -/
def State.exportAll (s : State) (p : Nat) (kf : Nat × Nat) (chunk : Nat) : Nat → Nat → Nat → Nat → Nat → State × Nat × Nat
  | 0, i, _, _, _ => (s, i, 0)
  | fuel + 1, i, va, left, host =>
    if left = 0 then (s, i, 0)
    else
      let n := min chunk left
      match s.xlateRangeAgent p va n false, (s.part p).session with
      | .inl ps, some x =>
        let s := (s.touchWalks p va n).touchPieces ps
        if s.poisonedPieces ps then (s, i, 0xB)
        else
          let (x, env) := x.seal p (s.readPieces ps)
          let s := (s.modPart p (fun q => { q with session := some x })).hostWrite kf.1 kf.2 host env
          State.exportAll s p kf chunk fuel (i + 1) (va + n) (left - n) (host + env.length)
      | _, _ => (s, i, 9)

/-- EXPORT (R500). -/
def State.exportReq (s : State) (m : Mbox) : SecReply :=
  let p := byteAt m.req 2
  let len := field m.req 72 4
  let chunk := field m.req 76 4
  let link : Nat × Nat := match m.win with | .func k f | .bar2 k f | .config k f => (k.val, f.val) | .mgmt => (0, 0)
  if !(m.formed (· == 88) && multipleOf len 64 && multipleOf chunk 64 && inRange chunk 64 (2 ^ 22)) then { s := s, status := 1 }
  else
    match (s.part p).session with
    | none => { s := s, status := 7 }
    | some x =>
      let r := s.exportAll p link chunk (ceilDiv len chunk) 0 (field m.req 64 8) len (field m.req 80 8)
      { s := r.1, status := r.2.2, detail := if r.2.2 = 0 then 0 else r.2.1, body := leBytes 8 r.2.1 ++ leBytes 8 x.outSeq }

/-- EXPORT: partition memory is sealed into envelopes in host memory (R500). -/
def execExportData (s : State) : Res := .next (s.handle (isType 0x31) State.exportReq)

/-- The first 168 bytes of a link offer or accept (R503). -/
def State.linkHead (s : State) (dst : Nat) (nonce : Bytes) : Bytes :=
  leBytes 2 s.nodeId ++ leBytes 2 dst ++ leBytes 4 s.flash.fwVersion.toNat ++ nonce ++ sliceBytes s.flash.measurement 0 64 ++ s.ownerHash

/-- The identity key, the endorsement signature and the module's own signature that end a link message (R503). -/
def State.linkTail (s : State) (head : Bytes) : Bytes :=
  let m := head ++ s.flash.identityPk ++ s.flashRead (0x22000 + 5200) 4627
  m ++ sliceBytes (Config.identitySign m (ascii "LX960-LINK")) 0 4627

/-- LINK_OFFER: bytes [65:64] of the request name the node (R503; log 61). -/
def State.linkOffer (s : State) (m : Mbox) : SecReply :=
  let dst := field m.req 64 2
  if !(m.formed (fun n => decide (66 ≤ n)) && decide (s.nodeId < dst) && decide (dst < 4096)) then { s := s, status := 1 }
  else
    let (s, nonce) := s.random 32
    let (k, s) := s.draw
    let kp := Config.kemKeygen k
    let offer := s.linkTail (s.linkHead dst nonce ++ sliceBytes kp.1 0 1568)
    { s := s.modLnk (fun l => { l with offers := l.offers.filter (fun o => o.1 != dst) ++ [(dst, offer, kp.2)] }), status := 0, body := offer }

/-- LINK_OFFER: a signed offer to a node (R503). -/
def execLinkOffer (s : State) : Res := .next (s.handle (isType 0x40) State.linkOffer)

/-- STATUS of a relayed link message that R504 refuses, or 0 (R504; log 61). -/
def State.linkStatus (s : State) (b : Bytes) (src : Nat) (offerHash : Option Bytes) : Nat :=
  if b.length != (if offerHash.isSome then acceptLength else offerLength) then 1
  else if !s.peerSigned b (if offerHash.isSome then 64 else 0) then 3
  else if !s.peerFields b src s.nodeId offerHash then 2
  else 0

/-- LINK_ACCEPT (R503, R504). -/
def State.linkAccept (s : State) (m : Mbox) : SecReply :=
  let offer := m.req.drop 64
  let src := field offer 0 2
  let st := if !m.formed (fun n => decide (66 ≤ n)) then 1 else if s.nodeId ≤ src then 2 else s.linkStatus offer src none
  if st != 0 then { s := s, status := st }
  else
    let (s, nonce) := s.random 32
    let (k, s) := s.draw
    let e := Config.kemEncaps ((offer.drop 168).take 1568) k
    let accept := s.linkTail (s.linkHead src nonce ++ sliceBytes (Config.sha3_512 offer) 0 64 ++ sliceBytes e.1 0 1568)
    { s := s.installKey src (linkOkm e.2 offer accept), status := 0, body := accept }

/-- LINK_ACCEPT: an offer is checked, keys are installed and a signed accept is returned (R503, R504). -/
def execLinkAccept (s : State) : Res := .next (s.handle (isType 0x41) State.linkAccept)

/-- LINK_FINISH (R503, R504). -/
def State.linkFinish (s : State) (m : Mbox) : SecReply :=
  let accept := m.req.drop 64
  let src := field accept 0 2
  match s.lnk.offers.find? (fun o => o.1 == src) with
  | none => { s := s, status := if m.formed (fun n => decide (66 ≤ n)) then 4 else 1 }
  | some (_, offer, secret) =>
    let st := if !m.formed (fun n => decide (66 ≤ n)) then 1 else s.linkStatus accept src (some (sliceBytes (Config.sha3_512 offer) 0 64))
    if st != 0 then { s := s, status := st }
    else
      let k := Config.kemDecaps secret ((accept.drop 232).take 1568)
      let s := s.modLnk (fun l => { l with offers := l.offers.filter (fun o => o.1 != src) })
      { s := s.installKey src (linkOkm k offer accept), status := 0 }

/-- LINK_FINISH: the peer's accept is checked and keys are installed (R503, R504). -/
def execLinkFinish (s : State) : Res := .next (s.handle (isType 0x42) State.linkFinish)

/-- MAILBOX_RESERVED_TYPE: a reserved TYPE ends with MALFORMED (R484). -/
def execMailboxReservedType (s : State) : Res :=
  match s.request (fun b => (typeRights (byteAt b 0)).isNone) with
  | none => .next s
  | some m => .next ((s.dequeue m).respond m 1 0 [])

end Sys2Proof.Machine
end

