-- ==== Sys2Proof/Machine/Mgmt.lean ====
section
/-! DEFINITION. The management transport (R60, R543, R566 to R569). -/

namespace Sys2Proof.Machine

/-- A Block Write: a bad PEC discards it with status 0x04; otherwise its status goes to MGT.CMD_STATUS (R60, R566, R567). -/
def State.blockWrite (s : State) (pec : Option Bool) (f : State → State × Nat) : State :=
  if !s.housekeeping then s
  else
    let r := if pec = some false then (s, 4) else f s
    r.1.modMgt (fun m => { m with cmdStatus := BitVec.ofNat 8 r.2, reply := [], replyPec := none })

/-- The PEC that ends a Process Call's answer: over the target address 0x5A for the write, the code, the bytes sent with their
count, the address for the read, and the answer with its count (R60, SMBus 3.1). -/
def callPec (code : Nat) (sent answer : Bytes) : Byte :=
  pec ([0xB4#8, BitVec.ofNat 8 code, BitVec.ofNat 8 sent.length] ++ sent ++ [0xB5#8, BitVec.ofNat 8 answer.length] ++ answer)

/-- A Process Call: the answer is a status byte, followed by its data and the PEC (R60, R566, R567). -/
def State.processCall (s : State) (code : Nat) (bytes : Bytes) (pec : Option Bool) (f : State → State × Nat × Bytes) : State :=
  if !s.housekeeping then s
  else
    let r := if pec = some false then (s, 4, []) else f s
    let answer := BitVec.ofNat 8 r.2.1 :: r.2.2
    r.1.modMgt (fun m => { m with reply := answer, replyPec := some (callPec code bytes answer) })

/-- An access of the management window whose bytes lie beyond it (R543). -/
def State.pointerOut (s : State) (n : Nat) : Bool := decide (0x100000 < s.mgt.pointer + n)

/-- The pointer moves on. -/
def State.advance (s : State) (n : Nat) : State := s.modMgt (fun m => { m with pointer := (m.pointer + n) % 2 ^ 24 })

/-- SET_POINTER (R566). -/
def execSetPointer (bytes : List (BitVec 8)) (pec : Option Bool) (s : State) : Res :=
  .next (s.blockWrite pec (fun s =>
    if bytes.length = 3 then (s.modMgt (fun m => { m with pointer := field bytes 0 3 }), 0) else (s, 1)))

/-- WRITE: 4 or 8 bytes at the pointer (R543, R566). -/
def execMgmtWrite (bytes : List (BitVec 8)) (pec : Option Bool) (s : State) : Res :=
  .next (s.blockWrite pec (fun s =>
    if bytes.length != 4 && bytes.length != 8 then (s, 1)
    else if s.pointerOut bytes.length then (s.refuseAccess .mgmt, 1)
    else ((s.writeCommand .mgmt s.mgt.pointer bytes.length (leNat bytes)).advance bytes.length, 0)))

/-- READ: 4 or 8 bytes at the pointer (R543, R566). -/
def execMgmtRead (bytes : List (BitVec 8)) (pec : Option Bool) (s : State) : Res :=
  .next (s.processCall 0x03 bytes pec (fun s =>
    let n := byteAt bytes 0
    if bytes.length != 1 || (n != 4 && n != 8) then (s, 1, [])
    else if s.pointerOut n then (s.refuseAccess .mgmt, 1, [])
    else (s.advance n, 0, leBytes n (s.regRead .mgmt s.mgt.pointer n))))

/-- The management mailbox buffer: its commands need the running state and no request in progress; the status that refuses
them otherwise (R566, R567; log 63). -/
def State.mboxRefuses (s : State) : Option Nat := if !s.running then some 2 else if s.sec.mgmtBusy then some 3 else none

/-- MBOX_PUT: up to 240 bytes into the mailbox buffer (R566). -/
def execMboxPut (bytes : List (BitVec 8)) (pec : Option Bool) (s : State) : Res :=
  .next (s.blockWrite pec (fun s =>
    let off := field bytes 0 2
    let data := bytes.drop 2
    if bytes.length < 2 ∨ 240 < data.length ∨ 16384 < off + data.length then (s, 1)
    else
      match s.mboxRefuses with
      | some st => (s, st)
      | none => (s.modSec (fun x => { x with mgmtBuf := Mem1.write ramD x.mgmtBuf off data }), 0)))

/-- MBOX_GO: the request at offset 0 of the buffer starts (R482, R566). -/
def execMboxGo (bytes : List (BitVec 8)) (pec : Option Bool) (s : State) : Res :=
  .next (s.blockWrite pec (fun s =>
    if bytes != [1#8] then (s, 1)
    else
      match s.mboxRefuses with
      | some st => (s, st)
      | none =>
        let n := field (Mem1.read ramD s.sec.mgmtBuf 0 8) 4 4
        (s.modSec (fun x =>
          { x with mgmtBusy := true, queue := x.queue ++ [{ win := .mgmt, req := Mem1.read ramD x.mgmtBuf 0 (min n 16384) }] }), 0)))

/-- MBOX_GET: bytes from the mailbox buffer (R566). -/
def execMboxGet (bytes : List (BitVec 8)) (pec : Option Bool) (s : State) : Res :=
  .next (s.processCall 0x12 bytes pec (fun s =>
    let off := field bytes 0 2
    let n := byteAt bytes 2
    if bytes.length != 3 || decide (240 < n) || decide (16384 < off + n) then (s, 1, [])
    else
      match s.mboxRefuses with
      | some st => (s, st, [])
      | none => (s, 0, Mem1.read ramD s.sec.mgmtBuf off n)))

/-- A flash commit or a sector erase is in progress (R567). -/
def State.flashBusy (s : State) : Bool := s.flash.commitBusy.isSome || s.plog.erasing.isSome

/-- FLASH_PUT: bytes into the 64 KiB sector buffer (R97, R566, R567). -/
def execFlashPut (bytes : List (BitVec 8)) (pec : Option Bool) (s : State) : Res :=
  .next (s.blockWrite pec (fun s =>
    let off := 16 * field bytes 0 2
    let data := bytes.drop 2
    if bytes.length < 2 ∨ !inRange data.length 16 240 ∨ !multipleOf data.length 16 ∨ 65536 < off + data.length then (s, 1)
    else if !(s.running || s.pwr.phase == .recovery) then (s, 2)
    else if s.flash.commitBusy.isSome then (s, 3)
    else (s.modFlash (fun f => { f with sectorBuf := Mem1.write flashD f.sectorBuf off data }), 0)))

/-- The sector at a flash offset may be committed in the module's state (R84, R568). -/
def State.mayCommit (s : State) (a : Nat) : Bool :=
  let directory := decide (a < 0x20000)
  let imageA := inRange a 0x400000 0x20FFFFF
  let imageB := inRange a 0x2100000 0x3DFFFFF
  match s.pwr.phase with
  | .recovery => directory || a == 0x40000 || a == 0x30000 || imageA || imageB
  | .running => directory || (imageA && s.flash.image == some true) || (imageB && s.flash.image == some false)
  | _ => false

/-- FLASH_COMMIT: the erase and program of a permitted sector start (R566 to R568). -/
def execFlashCommit (bytes : List (BitVec 8)) (pec : Option Bool) (s : State) : Res :=
  .next (s.blockWrite pec (fun s =>
    let a := field bytes 0 4
    if bytes.length != 4 || a % 65536 != 0 || decide (0x4000000 ≤ a) then (s, 1)
    else if s.flashBusy then (s, 3)
    else if !s.mayCommit a then (s, 2)
    else (s.modFlash (fun f => { f with commitBusy := some a, commitAbandoned := false }), 3)))

/-- FLASH_COMMIT_DONE: the commit ends, or a flush has abandoned it and the sector's bytes are free (R566 to R568). -/
def execFlashCommitDone (s : State) : Res :=
  match s.flash.commitBusy with
  | none => .next s
  | some a =>
    if !s.housekeeping then .next s
    else
      let lost := s.flash.commitAbandoned
      let (k, s) := s.draw
      let data := if lost then sliceBytes (Config.freeBytes k 65536) 0 65536 else Mem1.read flashD s.flash.sectorBuf 0 65536
      let s := (s.flashErase a).flashWrite a data
      let s := s.modFlash (fun f => { f with commitBusy := none, commitAbandoned := false, sectorBuf := [] })
      .next (s.modMgt (fun m => { m with cmdStatus := if lost then 6 else 0 }))

/-- FLASH_READ: 240 bytes of flash (R566). -/
def execFlashRead (bytes : List (BitVec 8)) (pec : Option Bool) (s : State) : Res :=
  .next (s.processCall 0x22 bytes pec (fun s =>
    let a := field bytes 0 4
    if bytes.length != 4 || decide (0x4000000 < a + 240) then (s, 1, [])
    else if s.flashBusy then (s, 3, [])
    else (s, 0, s.flashRead a 240)))

/-- FENCE_CLEAR: the router entry at ROW and COLUMN, or else the core entry there, leaves the fence record (R466, R569). -/
def execFenceClear (bytes : List (BitVec 8)) (pec : Option Bool) (s : State) : Res :=
  .next (s.blockWrite pec (fun s =>
    let here (router : Bool) (e : FenceEntry) : Bool := e.router == router && e.row == byteAt bytes 0 && e.column == byteAt bytes 1
    let es := s.flash.fenceEntries
    if bytes.length != 2 || !inRange (byteAt bytes 0) 1 14 || decide (16 ≤ byteAt bytes 1) then (s, 1)
    else if !s.running then (s, 2)
    else if s.flashBusy then (s, 3)
    else
      match (if es.any (here true) then es.findIdx? (here true) else es.findIdx? (here false)) with
      | none => (s, 5)
      | some i => ((s.modFlash (fun f => { f with fenceEntries := f.fenceEntries.eraseIdx i })).writeFence, 0)))

/-- A code that R566 gives no command. -/
def reservedCode (c : Nat) : Bool := !([0x01, 0x02, 0x03, 0x10, 0x11, 0x12, 0x20, 0x21, 0x22, 0x30].contains c)

/-- MGMT_RESERVED_COMMAND: a reserved code is discarded with status 0x01 (R566). -/
def execMgmtReservedCommand (code : BitVec 8) (isCall : Bool) (pec : Option Bool) (s : State) : Res :=
  if !reservedCode code.toNat then .next s
  else if isCall then .next (s.processCall code.toNat [] pec (fun s => (s, 1, [])))
  else .next (s.blockWrite pec (fun s => (s, 1)))

end Sys2Proof.Machine
end

