-- ==== Sys2Proof/Machine/Output.lean ====
section
/-! DEFINITION. The output engine: DRAM_WRITE, SEND, ARM and BARRIER_ARRIVE (R149, R151, R179, R180, R428, R430). -/

namespace Sys2Proof.Machine

/-- A KIND or SUBOP that the OUT queue does not have (R179, R428). -/
def outReserved (b : Bytes) : Bool :=
  !(byteAt b 0 == 1 || (byteAt b 0 == 2 && inRange (byteAt b 1) 1 3))

/-- The fields of DRAM_WRITE are in range (R179). -/
def dramWriteOk (b : Bytes) : Bool :=
  zeroBytes b 1 3 && inRange (field b 4 4) 1 16777216 && decide (field b 8 8 + field b 4 4 ≤ 2 ^ 48) && tallyByteOk (byteAt b 20)
    && zeroBytes b 21 63

/-- The fields that the link operations share are in range (R428). -/
def linkSendOk (b : Bytes) : Bool :=
  tallyByteOk (byteAt b 20) && decide (byteAt b 23 < 2) && decide (byteAt b 30 < 64)
    && (if byteAt b 23 = 1 then byteAt b 31 != 0 else byteAt b 31 == 0) && zeroBytes b 32 63

/-- The fields of SEND are in range (R428). -/
def sendOk (b : Bytes) : Bool := linkSendOk b && inRange (field b 4 4) 1 16777216
/-- The fields of ARM are in range (R428). -/
def armOk (b : Bytes) : Bool :=
  linkSendOk b && field b 4 4 == 0 && decide (field b 8 8 < 2 ^ 44) && field b 16 4 == 0 && field b 21 2 == 0
/-- The fields of BARRIER_ARRIVE are in range (R428). -/
def barrierOk (b : Bytes) : Bool := linkSendOk b && field b 4 4 == 0 && field b 8 8 == 0 && field b 16 4 == 0 && field b 21 2 == 0

/-- The signal of a link operation (R428). -/
def linkSignalOf (core : Nat) (b : Bytes) : Option LinkSignal :=
  if byteAt b 23 = 1 then
    some { job := BitVec.ofNat 32 (field b 24 4), task := field b 28 2, tally := byteAt b 30, count := byteAt b 31,
           source := coreSource core }
  else none

/-- The source of an OUT command that copies bytes: (SRC, LENGTH) (R179, R428). -/
def outSource (b : Bytes) : Nat × Nat := (field b 16 4, field b 4 4)

/-- Stage an effect of the output engine, pass its gate and finish the command (R149, R151, R179). -/
def State.outStage (s : State) (n : Nat) (x : QCmd) (e : Effect) (key : List Nat) (data : Bytes) : State :=
  match (s.core n).stage e key data with
  | none => s.endRun n .staging
  | some c =>
    match c.gatePass (byteAt x.bytes 20) 1 (engineActor 4) true with
    | .inr f => s.endRun n f
    | .inl c => (s.modCore n (fun _ => c)).finishCmd n 4

/-- There is room in staging for an effect of `n` data bytes (R151). -/
def Core.stageRoom (c : Core) (n : Nat) : Bool := decide (c.stageUsed + stageSize n ≤ 1024 * c.stagingKib)

/-- Copy the source of an OUT command into staging once its checks are done (R149, R180, R332). -/
def State.outCopy (s : State) (n : Nat) (x : QCmd) (e : Bytes → Effect) (key : List Nat) : State :=
  let (a, len) := outSource x.bytes
  if !(s.core n).stageRoom len then s.endRun n .staging
  else
    let put := (s.core n).stageBase + (s.core n).stageUsed + 64
    match (s.modCore n (fun c => c.countWide (wideOf a len + wideAccesses put put len))).engineReads n 4 [(a, len)] with
    | (s, false) => s
    | (s, true) =>
      let data := (s.core n).spRead a len
      s.outStage n x (e data) key data

/-- The frame of an OUT row: the fields, the source's range, and the gate (R179, R180, R207). -/
def State.out (s : State) (n : Nat) (mine : Bytes → Bool) (ok : Bytes → Bool) (copies : Bool) (body : State → QCmd → State) : State :=
  s.engine n 4 outReserved mine none (fun s x =>
    if !ok x.bytes then s.engineRaise n x 0x15
    else if copies && !(s.core n).mayRead (outSource x.bytes).1 (outSource x.bytes).2 then s.engineRaise n x 0x12
    else if !(s.core n).inputOpen (byteAt x.bytes 20) 1 then s
    else body s x)

/-- DRAM_WRITE (R179, R180): every page of DST is translated with write permission before the staging size is checked. -/
def execDramWrite (core : Nat) (s : State) : Res :=
  .next (s.out core (fun b => byteAt b 0 == 1) dramWriteOk true (fun s x =>
    let va := field x.bytes 8 8
    let len := field x.bytes 4 4
    match s.xlateRange core (s.core core).part va len true with
    | (s, .inr (sub, at_)) => s.endRun core (.xlat sub at_ 4)
    | (s, .inl pieces) => s.outCopy core x (.dramWrite va pieces) [1, va, len]))

/-- SEND (R428). -/
def execSend (core : Nat) (s : State) : Res :=
  .next (s.out core (fun b => byteAt b 0 == 2 && byteAt b 1 == 1) sendOk true (fun s x =>
    let b := x.bytes
    let coll := field b 2 2
    let rank := field b 21 2
    let arg := field b 8 8
    s.outCopy core x (fun d => .linkSend coll rank arg (linkSignalOf core b) d x.pc.toNat)
      [4, coll, rank, arg, field b 4 4, field b 23 1, field b 24 4, field b 28 2, byteAt b 30, byteAt b 31]))

/-- ARM (R428). -/
def execArm (core : Nat) (s : State) : Res :=
  .next (s.out core (fun b => byteAt b 0 == 2 && byteAt b 1 == 2) armOk false (fun s x =>
    let b := x.bytes
    s.outStage core x (.arm (field b 2 2) (field b 8 8) x.pc.toNat) [5, field b 2 2, field b 8 8] []))

/-- BARRIER_ARRIVE (R428, R430). -/
def execBarrierArrive (core : Nat) (s : State) : Res :=
  .next (s.out core (fun b => byteAt b 0 == 2 && byteAt b 1 == 3) barrierOk false (fun s x =>
    let b := x.bytes
    s.outStage core x (.barrierArrive (field b 2 2) (linkSignalOf core b) x.pc.toNat)
      [7, field b 2 2, field b 23 1, field b 24 4, field b 28 2, byteAt b 30, byteAt b 31] []))

end Sys2Proof.Machine
end

