-- ==== Sys2Proof/Machine/PitLog.lean ====
section
/-! DEFINITION. The writers of DBG: trace records into a partition's region, and pit log records into flash (R526, R528,
R535 to R538). -/

namespace Sys2Proof.Machine

/-- Bytes of a partition's trace region (R524, R556). -/
def Part.trcBytes (p : Part) : Nat := 4096 * p.trcActiveSize

/-- What DBG writes next: the padding at the region's end, when the record does not fit there, and the place of the record;
none when WRAP is 0 and it does not fit (R524, R526, R528). -/
def Part.trcPlace (p : Part) (n : Nat) : Option (Nat × Nat) :=
  if p.trcHead + n ≤ p.trcBytes then some (0, p.trcHead)
  else if bitOf p.trcCfg.toNat 17 ∧ n ≤ p.trcBytes then some (p.trcBytes - p.trcHead, 0)
  else none

/-- Physical pieces of a trace write, if it translates to pages with W = 1 (R528). -/
def State.tracePieces (s : State) (p off n : Nat) : Option (List (Nat × Nat)) :=
  if n = 0 then some []
  else
    match s.xlateRangeAgent p ((s.part p).trcActiveBase.toNat + off) n true with
    | .inl ps => some ps
    | .inr _ => none

/-- Write the oldest buffered record of a partition; `inr` when its translation fails (R526, R528). -/
def State.traceWriteOne (s : State) (p : Nat) : State ⊕ Unit :=
  let P := s.part p
  match P.trcBuf with
  | [] => .inl s
  | r :: rest =>
    match P.trcPlace r.length with
    | none => .inl (s.modPart p (fun q => { q with trcBuf := rest, trcDropped := q.trcDropped + 1 }))
    | some (pad, at0) =>
      match s.tracePieces p P.trcHead pad, s.tracePieces p at0 r.length with
      | some ps, some qs =>
        let base := P.trcActiveBase.toNat
        let s := (s.touchWalks p (base + P.trcHead) pad).touchWalks p (base + at0) r.length
        let s := (s.writePieces ps (List.replicate pad 0)).writePieces qs r
        let stop := at0 + r.length
        let full := stop == P.trcBytes && bitOf P.trcCfg.toNat 17
        .inl (s.modPart p (fun q => { q with trcBuf := rest, trcHead := if full then 0 else stop,
                                             trcWrapped := q.trcWrapped || pad != 0 || at0 != P.trcHead || full }))
      | _, _ => .inr ()

/-- Write buffered records until none is left or a translation fails. -/
def State.traceWrite (p : Nat) : Nat → State → State
  | 0, s => s
  | n + 1, s =>
    if (s.part p).trcBuf.isEmpty then s
    else match s.traceWriteOne p with | .inl s => State.traceWrite p n s | .inr _ => s

/-- TRACE_BUFFER_WRITE: buffered records are written to the region (R526, R528). -/
def execTraceBufferWrite (part : Fin 8) (s : State) : Res :=
  if s.running && (s.part part).traceOn then .next (State.traceWrite part (s.part part).trcBuf.length s) else .next s

/-- TRACE_STOPPED: the next trace write does not translate, so ENABLE is cleared and the event is written; the buffered
records are lost (R528, R541; log 62). -/
def execTraceStopped (part : Fin 8) (s : State) : Res :=
  let P := s.part part
  if s.running && P.traceOn && !P.trcBuf.isEmpty && (s.traceWriteOne part).isRight then
    let s := s.modPart part (fun q => { q with trcCfg := q.trcCfg &&& ~~~0x10000#64, trcBuf := [] })
    .next (s.eventPart part { code := 0x1004, sev := 1, source := srcDbg, payload := 1 })
  else .next s

/-- PLOG_FLASH_WRITE: the oldest buffered record finishes its write (R535 to R538). -/
def execPlogFlashWrite (s : State) : Res :=
  if s.pwr.phase != .noInput && !s.plog.frozen && s.plog.erasing.isNone then .next s.plogWriteOne else .next s

/-- PLOG_SECTOR_ERASE: the erase of the next circular sector completes (R536, R538). -/
def execPlogSectorErase (s : State) : Res :=
  match s.plog.erasing with
  | some k =>
    if s.pwr.phase != .noInput && !s.plog.frozen then
      .next ((s.flashErase (0x100000 + 65536 * k)).modPlog (fun p => { p with erasing := none }))
    else .next s
  | none => .next s

end Sys2Proof.Machine
end

