-- ==== Sys2Proof/Machine/Reliability.lean ====
section
/-! DEFINITION. Hardware errors, verdicts, shadowed pairs, and failed routers (R445 to R471, R474, R475). -/

namespace Sys2Proof.Machine

/-- HW_ERROR_REPLAY: a check of a core's run completes with a hardware error (R445 to R448, R450, R453, R455). -/
def execHwErrorReplay (core : Nat) (kind : HwKind) (position : Fin 9) (s : State) : Res :=
  if s.running && decide (core < 192) && checkFinds kind then .next (s.hardwareError core kind (if kind = .mesh then 0 else position.val)) else .next s

/-- The verdict of a repeat: 0 transient, 1 permanent, 2 unresolved (R456, R463, R474). -/
def RunEnd.verdict (e : RunEnd) (dissent : Option (BitVec 64)) : Nat :=
  match e, dissent with
  | .clean _, none => 0
  | .clean c, some a => if c = a then 0 else 1
  | .cause (.hardware ..), _ => 1
  | .cause _, _ => 2

/-- The run was lost with mesh traffic: no verdict is given (R468). -/
def RunEnd.lost : RunEnd → Bool
  | .cause (.hardware 4 _) => true
  | _ => false

/-- REPEAT_VERDICT is written and counted (R456, R474, R475). -/
def State.noteVerdict (s : State) (n v : Nat) : State :=
  let s := if v = 0 then s.modCore n (fun c => c.countRel 4) else if v = 2 then s.modCore n (fun c => c.countRel 5) else s
  s.eventModule { code := 0x0E02, sev := 1, source := coreSource n, payload := n + v * 2 ^ 8 }

/-- The judgement of a task's runs is over: its finished run counts as an ordinary one, so a RUNNING task becomes STAGED now
(R139, R456, R462, R463). -/
def State.stageTask (s : State) (ser t : Nat) : State :=
  let s := s.modTask ser t (fun x => { x with pair := none, heldGrant := false })
  (s.stageRunning ser t).settleJob ser

/-- The verdict on a free task's repeat, or on a dissenter's (R455, R456, R463, R464). -/
def State.judgeRepeat (s : State) (n : Nat) (e : RunEnd) : State :=
  let c := s.core n
  let s := s.closeRun n 2 0 false
  let v := e.verdict c.dissentCrc
  let s := if e.lost then s
    else
      let s := s.noteVerdict n v
      if v = 1 then s.fenceCore n (if c.dissentCrc.isSome then 3 else 2) else s
  if c.dissentCrc.isSome then
    match (s.task c.job c.task).bind (fun t => t.pair) with
    | some p => if p.dissenter = some n then s.stageTask c.job c.task else s
    | none => s
  else s.settleJob c.job

/-- The verdict on a bound task's replay, which is its own repeat (R457, R468). -/
def State.judgeBound (s : State) (n : Nat) (e : RunEnd) : State :=
  let c := s.core n
  let v := e.verdict none
  match e with
  | .clean _ =>
    ((s.noteVerdict n v).modCore n (fun c => { c with ended := none })).stageTask c.job c.task
  | .cause (.hardware k pos) =>
    if k = 4 then (s.closeRunKeep n 2 0x108 false |>.hwReplay n c.job c.task k pos false).clusterStop (clusterOf n)
    else
      let s := (s.closeRun n 2 0x108 false).noteVerdict n v
      (s.failTask c.job c.task 0x108 3 n).fenceCore n 2
  | .cause f =>
    let s := (s.noteVerdict n v).modTask c.job c.task (fun t => { t with heldGrant := false })
    (s.closeRun n 2 f.status true).applyCause c.job c.task n f

/-- REPEAT_VERDICT: a repeat has ended and its core is judged (R456, R457, R463). -/
def execRepeatVerdict (core : Nat) (s : State) : Res :=
  let c := s.core core
  if s.running && c.phase == .finished then
    match c.ended with
    | none => .next s
    | some e =>
      if c.kind = .repeatRun then .next (s.judgeRepeat core e)
      else
        match s.task c.job c.task with
        | some t => if t.heldGrant && t.pair.isNone then .next (s.judgeBound core e) else .next s
        | none => .next s
  else .next s

/-- The row of R158 that a cause belongs to, for R462. -/
def Cause.row : Cause → Nat
  | .xlat .. => 1 | .poison => 2 | .bankConflict .. => 3 | .sequence _ => 4 | .staging => 5 | .weightVersion _ => 6
  | .kvTable .. => 7 | .stash => 8 | .hardware .. => 9 | .link _ => 10 | .runLimit => 11 | .noCore => 12 | .noPillar => 13
  | .exception .. => 14 | .displaced => 15 | .predicate => 16 | .aborted => 17 | .reset => 18

/-- What the two ends of a pair come to (R462). -/
inductive PairEnd where
  | commit | hardware | same (c : Cause) | miscompare
  deriving DecidableEq, Repr

/-- Decide a pair (R462). -/
def pairEnd (p q : RunEnd) : PairEnd :=
  match p, q with
  | .cause (.hardware ..), _ => .hardware
  | _, .cause (.hardware ..) => .hardware
  | .clean a, .clean b => if a = b then .commit else .miscompare
  | .cause a, .cause b => if a.row = b.row then .same a else .miscompare
  | _, _ => .miscompare

/-- The CRC of a run that ended clean. -/
def RunEnd.crc : RunEnd → Option (BitVec 64)
  | .clean c => some c
  | .cause _ => none

/-- A run of a pair had a hardware error: its note, and its repeat unless mesh traffic was lost (R455, R462, R468). -/
def State.pairError (s : State) (ser t part n : Nat) (e : RunEnd) : State :=
  match e with
  | .cause (.hardware k pos) =>
    let s := s.hwNoted n ser t part k pos
    if k = 4 then s else s.startRun n ser t .repeatRun
  | _ => s

/-- A core whose run of a task has ended and waits to be judged. -/
def State.endedRun (s : State) (ser t n : Nat) : Option RunEnd :=
  let c := s.core n
  if c.phase == .finished && c.job == ser && c.task == t && c.kind != .repeatRun then c.ended else none

/-- SHADOW_PAIR_END: both runs of a shadowed pair have ended (R453, R462, R463). -/
def execShadowPairEnd (job task : Nat) (s : State) : Res :=
  match s.job job, s.task job task with
  | some j, some t =>
    match t.pair with
    | none => .next s
    | some p =>
      match s.running && !p.miscompared, s.endedRun job task p.primary, s.endedRun job task p.shadow with
      | true, some a, some b =>
        match pairEnd a b with
        | .commit => .next ((s.closeRun p.shadow 2 0 false).stageTask job task)
        | .hardware =>
          let bad := (if a.crc.isNone && pairEnd a (.clean 0) == .hardware then [p.primary] else [])
            ++ (if pairEnd b (.clean 0) == .hardware then [p.shadow] else [])
          let s := (s.closeRunKeep p.primary 2 0x108 false).closeRunKeep p.shadow 2 0x108 false
          let s := (s.pairError job task j.part p.primary a).pairError job task j.part p.shadow b
          let s := s.replayTask job task (bad.headD p.primary) 0x108 1 true (fun x => { x with excludeCores := bad })
          .next (((s.settleJob job).clusterStop (clusterOf p.primary)).clusterStop (clusterOf p.shadow))
        | .same f =>
          let s := (s.closeRun p.shadow 2 f.status false).closeRun p.primary 2 f.status true
          .next ((s.modTask job task (fun x => { x with pair := none })).applyCause job task p.primary f)
        | .miscompare =>
          let s := (s.closeRun p.primary 2 0x108 false).closeRun p.shadow 2 0x108 false
          let s := s.modPart j.part (fun q => { q with shadowMis := satAdd 48 q.shadowMis 1 })
          let last := decide (j.limit ≤ t.discards + 1)
          let s := if last then
              s.eventJob job { code := 0x0E04, sev := 1, source := coreSource p.primary,
                               payload := task % 65536 + p.primary * 2 ^ 16 + p.shadow * 2 ^ 24 + 0xFF * 2 ^ 32 + 2 * 2 ^ 40 }
            else s
          .next ((s.replayTask job task p.primary 0x108 2 true (fun x =>
            { x with excludeCores := [p.primary, p.shadow],
                     pair := some { p with miscompared := true, primaryCrc := a.crc, shadowCrc := b.crc } })).settleJob job)
      | _, _, _ => .next s
  | _, _ => .next s

/-- The arbiter ended clean: its CRC picks a dissenter, whose core must be free for its repeat, or the task is placed again
as a pair (R463). -/
def State.arbitrate (s : State) (job task n : Nat) (p : Pair) (crc : BitVec 64) : State :=
  let eqP := p.primaryCrc == some crc
  let eqS := p.shadowCrc == some crc
  let event (code : Nat) (s : State) : State :=
    s.eventJob job { code := 0x0E04, sev := 1, source := coreSource n,
                     payload := task % 65536 + p.primary * 2 ^ 16 + p.shadow * 2 ^ 24 + n * 2 ^ 32 + code * 2 ^ 40 }
  if eqP = eqS then
    let s := event 2 (s.closeRun n 2 0x108 false)
    (s.replayTask job task n 0x108 2 true id).settleJob job
  else
    let d := if eqP then p.shadow else p.primary
    if s.isFenced d then ((event (if eqP then 0 else 1) s).modCore d (fun c => c.countRel 6)).stageTask job task
    else if (s.core d).phase != .idle then s
    else
      let s := (event (if eqP then 0 else 1) s).modCore d (fun c => c.countRel 6)
      let s := s.modTask job task (fun x => { x with pair := some { p with dissenter := some d, arbiterCrc := some crc } })
      (s.modCore d (fun c => { c with dissentCrc := some crc })).startRun d job task .repeatRun

/-- SHADOW_MISCOMPARE: an arbiter's run has ended (R458, R463). -/
def execShadowMiscompare (job task : Nat) (s : State) : Res :=
  match s.job job, (s.task job task).bind (fun t => t.pair) with
  | some j, some p =>
    match s.running && p.dissenter.isNone, p.arbiter with
    | true, some n =>
      match s.endedRun job task n with
      | none => .next s
      | some (.clean crc) => .next (s.arbitrate job task n p crc)
      | some (.cause (.hardware k pos)) =>
        let s := s.closeRunKeep n 2 0x108 false
        let s := s.pairError job task j.part n (.cause (.hardware k pos))
        let s := s.replayTask job task n 0x108 1 true (fun x =>
          { x with excludeCores := [p.primary, p.shadow, n], pair := some { p with arbiter := none } })
        .next ((s.settleJob job).clusterStop (clusterOf n))
      | some (.cause f) =>
        let s := s.closeRun n 2 f.status true
        .next ((s.modTask job task (fun x => { x with pair := none })).applyCause job task n f)
    | _, _ => .next s
  | _, _ => .next s

/-- MESH_FLIT_RETRY: a flit is requested again from the sender's retry buffer (R467, R475). -/
def execMeshFlitRetry (row column : Fin 16) (s : State) : Res :=
  if s.running then .next (s.modMesh (fun m => { m with retries := m.retries.modify (16 * row.val + column.val) (fun n => satAdd 32 n 1) }))
  else .next s

/-- Two routers lie within two hops of each other (R469). -/
def hopsClose (a b : Nat × Nat) : Bool :=
  decide ((a.1 - b.1) + (b.1 - a.1) + (a.2 - b.2) + (b.2 - a.2) ≤ 2)

/-- A core's run is lost with mesh traffic: no repeat, no verdict (R468). -/
def State.loseRun (s : State) (n : Nat) : State :=
  let c := s.core n
  match c.phase with
  | .executing => s.hardwareError n .mesh 0
  | .waitClock | .clearing | .finished =>
    if s.judged n then s.modCore n (fun c => { c with phase := .finished, stall := none, ended := some (.cause (.hardware 4 0)) })
    else (s.closeRunKeep n 2 0x108 false |>.hwReplay n c.job c.task 4 0 false).clusterStop (clusterOf n)
  | _ => s

/-- The run of a core waits on an access, a WAKE or a tally signal whose route crosses a router; `inFlight` are the
accesses that no field holds (R468; log 122). -/
def State.waitsAcross (s : State) (inFlight : List (Nat × Nat)) (f : Nat × Nat) (n : Nat) : Bool :=
  let c := s.core n
  let via (dpa : Nat) : Bool := s.crosses (s.corePos n) (groupRouter dpa) f
  c.phase != .idle
    && (inFlight.any (fun x => x.1 == n && via x.2)
      || c.slots.any (fun x => !x.dropped && via (256 * x.block))
      || (match c.stall with | some (.cacheFill _ dpa) => via dpa | _ => false)
      || s.wnd.signals.any (fun g => g.job == c.job && g.task == c.task && s.crosses (s.sourceRouter g.source) (s.corePos n) f))

/-- ROUTER_FAILED: a router is found failed (R464, R467 to R469, R471). -/
def execRouterFailed (row column : Fin 16) (_cause : RouterCause) (inFlight : List (Nat × Nat)) (s : State) : Res :=
  let here := (row.val, column.val)
  if !s.running || s.mesh.failed.contains here then .next s
  else if row.val = 0 ∨ row.val = 15 then .next (s.moduleFatal 2 row column (agentSource row column))
  else if decide (8 ≤ s.mesh.failed.length) || s.mesh.failed.any (hopsClose here) then
    .next (s.moduleFatal 3 row column (agentSource row column))
  else
    let lost := (List.range 192).filter (s.waitsAcross inFlight here)
    let s := s.modMesh (fun m => { m with failed := m.failed ++ [here], injectStopped := true })
    let s := lost.foldl State.loseRun s
    match s.coreAt row column with
    | some n => .next ((s.loseRun n).fenceCore n 4)
    | none => .next s

/-- Code of a router's failure (R474). -/
def routerCode : RouterCause → Nat
  | .retries => 1 | .parity => 2 | .credit => 3

/-- ROUTE_AROUND_RESUME: the tables of R469 are in place, injection resumes, and the failure is recorded (R468, R473, R474). -/
def execRouteAroundResume (row column : Fin 16) (cause : RouterCause) (s : State) : Res :=
  let known (e : FenceEntry) : Bool := e.router && e.row == row.val && e.column == column.val
  if s.running && s.mesh.failed.contains (row.val, column.val) && !s.flash.fenceEntries.any known then
    let more := s.mesh.failed.any (fun r => r != (row.val, column.val) && !s.flash.fenceEntries.any (fun e => e.router && e.row == r.1 && e.column == r.2))
    let s := s.modMesh (fun m => { m with injectStopped := more })
    let s := s.eventModule { code := 0x0E06, sev := 2, source := srcWinder,
                             payload := column.val + row.val * 2 ^ 4 + routerCode cause * 2 ^ 8 }
    let e : FenceEntry := { router := true, reason := 4, row := row, column := column, core := 0xFFFF,
                            hours := s.flash.hours, cycles := s.flash.powerCycles }
    .next (s.modFlash (fun f => { f with fenceEntries := f.fenceEntries ++ [e] })).writeFence
  else .next s

end Sys2Proof.Machine
end

