-- ==== Sys2Proof/Machine/Resident.lean ====
section
/-! DEFINITION. The resident command OPT_STEP: pillars, weight versions, the stash and the optimizer step (R271, R382 to
R402). -/

namespace Sys2Proof.Machine

/-- Bytes [15:0] of OPT_STEP (R387). -/
def Core.residentCommon (c : Core) (b : Bytes) : Bool :=
  decide (byteAt b 2 < 16) && tallyByteOk (byteAt b 3) && tallyByteOk (byteAt b 4) && zeroBytes b 5 7 && c.statusOk (field b 8 4)
    && zeroBytes b 12 15

/-- Pillar INDEX as the run sees it (R388, R389). -/
def Core.viewPillar (c : Core) (index : Nat) : Option Pillar := c.view.find? (fun p => p.part == c.part && p.index == index)

/-- Hold a change until the grant (R388). -/
def Core.hold (c : Core) (h : Held) : Core := { c with held := c.held ++ [h] }

/-- The end of a resident operation (R387, R389). -/
def State.residentEnd (s : State) (n : Nat) (b : Bytes) (v : VAcc) : State :=
  s.vectorEnd n v (field b 8 4) (byteAt b 3) (byteAt b 4) 0

/-- A resident operation on a pillar: its checks, the cause it meets at the command, its gates, its reads and its effect
(R387 to R389, R392). -/
def State.resident (s : State) (n op : Nat) (clash : Option Clash) (ok : State → Core → Pillar → Bytes → Bool)
    (cause : Pillar → Bytes → Option Cause) (ranges : Bytes → List (Nat × Nat)) (body : State → Pillar → QCmd → State) : State :=
  s.engine n 2 vectorReserved (fun b => byteAt b 0 == 0x10 && byteAt b 1 == op) clash (fun s x =>
    let b := x.bytes
    let c := s.core n
    match c.viewPillar (byteAt b 2) with
    | none => s.engineRaise n x 0x15
    | some p =>
      if !(c.residentCommon b && ok s c p b) then s.engineRaise n x 0x15
      else
        match cause p b with
        | some f => s.endRun n f
        | none =>
          if !c.gatesOpen (byteAt b 3) (byteAt b 4) 4 then s
          else
            match s.engineReads n 2 (ranges b) with
            | (s, false) => s
            | (s, true) => body s p x)

/-- Allocations that a DEFINE must keep clear of, as (partition, index, base, bytes): those on the core and those defined
earlier in the run, released or not (R383, R390). -/
def Core.allocations (c : Core) : List (Nat × Nat × Nat × Nat) :=
  c.pillars.map (fun p => (p.part, p.index, p.base, p.bytes)) ++ c.held.filterMap (fun h =>
    match h with
    | .define part index base slotBytes slots _ spEntries entryBytes _ _ =>
      some (part, index, base, slots * slotBytes + spEntries * entryBytes)
    | _ => none)

/-- The checks of DEFINE (R383, R390). -/
def State.defineOk (s : State) (n : Nat) (b : Bytes) : Bool :=
  let c := s.core n
  let base := field b 16 4
  let slotBytes := field b 20 4
  let slots := byteAt b 24
  let sp := field b 26 2
  let eb := field b 28 4
  let ovf := field b 32 8
  let ovn := field b 40 2
  let size := slots * slotBytes + sp * eb
  let all := c.allocations
  (match s.task c.job c.task with | some t => t.flag 2 | none => false) && multipleOf base 256 && inRange slotBytes 256 4194304
    && multipleOf slotBytes 256 && inRange slots 1 3 && decide (byteAt b 25 < 3) && decide (sp + ovn ≤ 512) && multipleOf eb 256
    && (eb != 0 || (sp == 0 && ovn == 0)) && multipleOf ovf 256 && (ovn != 0 || ovf == 0) && decide (ovf < 2 ^ 48)
    && decide (ovf + ovn * eb ≤ 2 ^ 48) && zeroBytes b 42 127 && decide (base + size ≤ 0x400000)
    && !all.any (fun a => a.1 == c.part && a.2.1 == byteAt b 2)
    && !all.any (fun a => decide (a.2.2.1 < base + size) && decide (base < a.2.2.1 + a.2.2.2))
    && decide (all.length < 32) && decide ((all.filter (fun a => a.1 == c.part)).length < 16)

/-- DEFINE (R387, R388, R390). -/
def execDefine (core : Nat) (s : State) : Res :=
  .next (s.engine core 2 vectorReserved (fun b => byteAt b 0 == 0x10 && byteAt b 1 == 1) none (fun s x =>
    let b := x.bytes
    if !((s.core core).residentCommon b && s.defineOk core b) then s.engineRaise core x 0x15
    else if !(s.core core).gatesOpen (byteAt b 3) (byteAt b 4) 4 then s
    else
      (s.modCore core (fun c => c.hold (.define c.part (byteAt b 2) (field b 16 4) (field b 20 4) (byteAt b 24) (byteAt b 25)
        (field b 26 2) (field b 28 4) (field b 32 8) (field b 40 2)))).residentEnd core b {}))

/-- RELEASE (R385, R388). -/
def execRelease (core : Nat) (s : State) : Res :=
  .next (s.resident core 2 none (fun _ _ _ b => zeroBytes b 16 127) (fun _ _ => none) (fun _ => []) (fun s p x =>
    (s.modCore core (fun c => c.hold (.release p.index))).residentEnd core x.bytes {}))

/-- A version field names a version (R391). -/
def versionOk (v : Nat) : Bool := v != 0xFFFFFFFF

/-- SLOT_BUSY: the version's slot is LIVE (R391, R392). -/
def Pillar.busyCause (p : Pillar) (v : Nat) : Option Cause :=
  match p.slotState v with | .live _ => some (.weightVersion 3) | _ => none

/-- INSTALL or STEP writes a slot: a FREE slot is BUILDING from the first write, in the run (R391, R402). -/
def Core.markBuilding (c : Core) (p : Pillar) (v : Nat) : Core :=
  let k := p.slotOf v
  if (c.pillar c.part p.index).isSome && !(c.held.any (fun h => match h with | .define _ i _ _ _ _ _ _ _ _ => i == p.index | _ => false))
  then c.modPillar c.part p.index (fun q => if (q.slots.getD k {}).st = .free then q.setSlot k .building else q)
  else { c with building := c.building ++ [(p.index, k)] }

/-- INSTALL (R389, R391, R395). -/
def execInstall (core : Nat) (clash : Option Clash) (s : State) : Res :=
  .next (s.resident core 3 clash
    (fun _ c p b =>
      versionOk (field b 16 4) && multipleOf (field b 20 4) 32 && decide (1 ≤ field b 24 4) && multipleOf (field b 28 4) 32
        && decide (field b 28 4 + field b 24 4 ≤ p.slotBytes) && zeroBytes b 32 127 && c.inWork (field b 20 4) (field b 24 4))
    (fun p b => p.busyCause (field b 16 4))
    (fun b => [(field b 20 4, field b 24 4)])
    (fun s p x =>
      let b := x.bytes
      let v := field b 16 4
      let len := field b 24 4
      let dst := p.slotAt (p.slotOf v) + field b 28 4
      let data := (s.core core).spRead (field b 20 4) len
      (s.modCore core (fun c => c.markBuilding p v)).residentEnd core b
        { writes := [(dst, data)], wide := groupAccesses (field b 20 4) len 256 + groupAccesses dst len 256 }))

/-- PUBLISH (R391, R392). -/
def execPublish (core : Nat) (s : State) : Res :=
  .next (s.resident core 5 none (fun _ _ _ b => versionOk (field b 16 4) && zeroBytes b 20 127)
    (fun p b =>
      let v := field b 16 4
      if (match p.newest with | some w => decide (v ≤ w) | none => false) then some (.weightVersion 4) else p.busyCause v)
    (fun _ => [])
    (fun s p x => (s.modCore core (fun c => c.hold (.publish p.index (field x.bytes 16 4)))).residentEnd core x.bytes {}))

/-- RETIRE (R391, R392). -/
def execRetire (core : Nat) (s : State) : Res :=
  .next (s.resident core 6 none (fun _ _ _ b => versionOk (field b 16 4) && zeroBytes b 20 127)
    (fun p b =>
      match p.slotState (field b 16 4) with
      | .live w => if w = field b 16 4 then none else some (.weightVersion 5)
      | _ => none)
    (fun _ => [])
    (fun s p x => (s.modCore core (fun c => c.hold (.retire p.index (field x.bytes 16 4)))).residentEnd core x.bytes {}))

/-- The task may use a pillar's stash: a learning task whose AFFINITY names it (R395). -/
def State.stashAllowed (s : State) (n : Nat) (p : Pillar) : Bool :=
  let c := s.core n
  match s.task c.job c.task with
  | some t => t.cls == 1 && t.affinity == 16 * n + p.index
  | none => false

/-- The key of a stash entry (R395). -/
def Core.stashKey (c : Core) (b : Bytes) : Nat :=
  let tag := c.startTag.toNat
  bitsOf tag 37 32 + 64 * bitsOf tag 42 40 + 512 * byteAt b 16

/-- KEY_INDEX and the bytes after it are in range (R395). -/
def keyOk (b : Bytes) (last : Nat) : Bool := decide (byteAt b 16 < 128) && zeroBytes b 17 19 && zeroBytes b last 127

/-- The directory entry of a key. -/
def Pillar.entry (p : Pillar) (key : Nat) : Option StashEntry := p.stash.find? (fun e => e.key == key)

/-- The run's last change of a key is a put (R396). -/
def Core.putByRun (c : Core) (index key : Nat) : Bool :=
  (c.held.foldl (fun r h =>
    match h with
    | .put i k _ _ => if i = index ∧ k = key then true else r
    | .freeKey i k => if i = index ∧ k = key then false else r
    | _ => r) false)

/-- A put of the key is refused: it is VALID or already put by the run (R396). -/
def Core.keyTaken (c : Core) (p : Pillar) (key : Nat) : Bool :=
  c.putByRun p.index key || (match p.entry key with
    | some e => (match e.place with | .recompute => false | _ => true)
    | none => false)

/-- The lowest scratchpad entry that is free in the run's view (R396). -/
def Pillar.freeScratch (p : Pillar) : Option Nat :=
  (List.range p.spEntries).find? (fun k => !p.stash.any (fun e => e.place == .scratch k))
/-- The lowest overflow entry that is free in the run's view (R396). -/
def Pillar.freeOverflow (p : Pillar) : Option Nat :=
  (List.range p.ovfEntries).find? (fun k => !p.stash.any (fun e => e.place == .dram k))

/-- Count a put of the run (R399). -/
def Core.countPut (c : Core) (spills recomputes : Nat) : Core :=
  { c with runPuts := (c.runPuts.1 + 1, c.runPuts.2.1 + spills, c.runPuts.2.2 + recomputes) }

/-- STASH_PUT into the overflow region: translation, the read, staging (R151, R180, R396). -/
def State.stashSpill (s : State) (n : Nat) (p : Pillar) (b : Bytes) (j key src len : Nat) : State :=
  let va := p.ovfVa.toNat + j * p.entryBytes
  match s.xlateRange n (s.core n).part va len true with
  | (s, .inr (sub, at_)) => s.endRun n (.xlat sub at_ 6)
  | (s, .inl pieces) =>
    if decide (1024 * (s.core n).stagingKib < (s.core n).stageUsed + stageSize len) then s.endRun n .staging
    else
      match s.engineReads n 2 [(src, len)] with
      | (s, false) => s
      | (s, true) =>
        let data := (s.core n).spRead src len
        let put := (s.core n).stageBase + (s.core n).stageUsed + 64
        match (s.core n).stage (.dramWrite va pieces data) [1, va, len] data with
        | none => s.endRun n .staging
        | some c =>
          (s.modCore n (fun _ => (c.hold (.put p.index key (.dram j) len)).countPut 1 0)).residentEnd n b
            { wide := groupAccesses src len 256 + groupAccesses put len 256 }

/-- STASH_PUT (R395, R396). -/
def execStashPut (core : Nat) (clash : Option Clash) (s : State) : Res :=
  .next (s.resident core 7 clash
    (fun s c p b =>
      s.stashAllowed core p && keyOk b 28 && multipleOf (field b 20 4) 32 && inRange (field b 24 4) 1 p.entryBytes
        && c.inWork (field b 20 4) (field b 24 4) && !c.keyTaken p (c.stashKey b))
    (fun _ _ => none) (fun _ => [])
    (fun s p x =>
      let b := x.bytes
      let key := (s.core core).stashKey b
      let src := field b 20 4
      let len := field b 24 4
      match p.freeScratch with
      | some k =>
        (match s.engineReads core 2 [(src, len)] with
        | (s, false) => s
        | (s, true) =>
          let dst := p.entryAt k
          let data := (s.core core).spRead src len
          (s.modCore core (fun c => (c.hold (.put p.index key (.scratch k) len)).countPut 0 0)).residentEnd core b
            { writes := [(dst, data)], wide := groupAccesses src len 256 + groupAccesses dst len 256 })
      | none =>
        match p.policy, p.freeOverflow with
        | 0, some j => s.stashSpill core p b j key src len
        | 1, _ => (s.modCore core (fun c => (c.hold (.put p.index key .recompute 0)).countPut 0 1)).residentEnd core b {}
        | _, _ => s.endRun core .stash))

/-- The 16-byte result of STASH_LOOKUP (R397). -/
def Pillar.lookup (p : Pillar) (key : Nat) : Bytes :=
  match p.entry key with
  | none => leBytes 16 0
  | some e =>
    match e.place with
    | .scratch k => leBytes 4 1 ++ leBytes 4 e.length ++ leBytes 8 (p.entryAt k)
    | .dram j => leBytes 4 2 ++ leBytes 4 e.length ++ leBytes 8 (p.ovfVa.toNat + j * p.entryBytes)
    | .recompute => leBytes 4 3 ++ leBytes 12 0

/-- STASH_LOOKUP (R395, R397). -/
def execStashLookup (core : Nat) (clash : Option Clash) (s : State) : Res :=
  .next (s.resident core 8 clash
    (fun s c p b => s.stashAllowed core p && keyOk b 24 && multipleOf (field b 20 4) 16 && c.inWork (field b 20 4) 16)
    (fun _ _ => none) (fun _ => [])
    (fun s p x =>
      let dst := field x.bytes 20 4
      s.residentEnd core x.bytes { writes := [(dst, p.lookup ((s.core core).stashKey x.bytes))], wide := wideOf dst 16 }))

/-- STASH_FREE (R395, R398). -/
def execStashFree (core : Nat) (s : State) : Res :=
  .next (s.resident core 9 none (fun s _ p b => s.stashAllowed core p && keyOk b 20) (fun _ _ => none) (fun _ => [])
    (fun s p x =>
      (s.modCore core (fun c => c.hold (.freeKey p.index (c.stashKey x.bytes)))).residentEnd core x.bytes {}))

/-- The fields of STEP (R400). -/
structure StepCmd where
  n : Nat
  version : Nat
  slotOffset : Nat
  scaleOffset : Nat
  fmt : Nat
  scale : Nat
  layer : Nat
  grad : Nat
  master : Nat
  m : Nat
  mScale : Nat
  v : Nat
  vScale : Nat
  ratio : Nat
  amax : Nat
  lr : FV
  lrWd : FV
  beta1 : FV
  c1 : FV
  beta2 : FV
  c2 : FV
  bc1 : FV
  bc2 : FV
  eps : FV
  gScale : FV
  deriving DecidableEq, Repr

/-- Read STEP (R400). -/
def stepCmd (b : Bytes) : StepCmd :=
  let f (off : Nat) : FV := plain (BitVec.ofNat 32 (field b off 4))
  { n := field b 16 4, version := field b 20 4, slotOffset := field b 24 4, scaleOffset := field b 28 4, fmt := byteAt b 32,
    scale := byteAt b 33, layer := field b 34 2, grad := field b 36 4, master := field b 40 4, m := field b 44 4,
    mScale := field b 48 4, v := field b 52 4, vScale := field b 56 4, ratio := field b 60 4, amax := field b 64 4,
    lr := f 68, lrWd := f 72, beta1 := f 76, c1 := f 80, beta2 := f 84, c2 := f 88, bc1 := f 92, bc2 := f 96, eps := f 100,
    gScale := f 104 }

/-- The checks of STEP (R274, R400). -/
def Core.stepOk (c : Core) (p : Pillar) (b : Bytes) : Bool :=
  let x := stepCmd b
  let work (a al n : Nat) := multipleOf a al && c.inWork a n
  inRange x.n 32 16777216 && multipleOf x.n 32 && versionOk x.version && multipleOf x.slotOffset 32
    && (if x.fmt = 4 then multipleOf x.scaleOffset 32 && decide (x.scaleOffset + x.n / 32 ≤ p.slotBytes) else x.scaleOffset == 0)
    && inRange x.fmt 1 5 && (if x.fmt ≤ 3 then x.scale != 255 else x.scale == 0)
    && decide (x.slotOffset + elemBytes x.fmt x.n ≤ p.slotBytes) && zeroBytes b 108 127
    && work x.grad 32 (4 * x.n) && work x.master 32 (4 * x.n) && work x.m 32 x.n && work x.mScale 4 (x.n / 32) && work x.v 32 x.n
    && work x.vScale 4 (x.n / 32) && work x.ratio 16 16 && work x.amax 4 4

/-- Scratchpad ranges that STEP reads (R400). -/
def stepRanges (b : Bytes) : List (Nat × Nat) :=
  let x := stepCmd b
  [(x.grad, 4 * x.n), (x.master, 4 * x.n), (x.m, x.n), (x.mScale, x.n / 32), (x.v, x.n), (x.vScale, x.n / 32)]

/-- Square root, one rounding. -/
def fsqrt (x : F32) : FV := round32 (fval x).sqrt

/-- One element of R401: the new moments, the update and the new master weight. -/
structure StepOut where
  m1 : FV
  v1 : FV
  u : FV
  w1 : FV
  deriving DecidableEq, Repr

/-- R401 for one element. -/
def StepCmd.element (x : StepCmd) (grad master m v : F32) : StepOut :=
  let g := FV.mul (plain grad) x.gScale
  let m1 := FV.add (FV.mul x.beta1 (plain m)) (FV.mul x.c1 g)
  let v1 := FV.add (FV.mul x.beta2 (plain v)) (FV.mul x.c2 (FV.mul g g))
  let d := FV.add (FV.map fsqrt (FV.mul v1 x.bc2)) x.eps
  let u := FV.mul x.lr (FV.div (FV.mul m1 x.bc1) d)
  let u := FV.add u (FV.mul x.lrWd (plain master))
  { m1 := m1, v1 := v1, u := u, w1 := FV.sub (plain master) u }

/-- RATIO of R271, with one rounding; the numerator is widened so that the quotient's sticky bit decides the root. -/
def ratioOf (u w : F32) : FV :=
  let a := fval u
  let b := fval w
  if a.isZero && b.isZero then plain 0
  else if b.isZero && !a.isNan then plain 0x7F800000#32
  else round32 ((match a with | .fin n m e => Val.fin n (m <<< 64) (e - 64) | y => y).div b).sqrt

/-- Moments as widened values (R276, R401). -/
def Core.moments (c : Core) (a sa n : Nat) : List FV := widenRow 7 127 n (c.spRead a n) (c.spRead sa (n / 32))

/-- A moment's blocks are converted, counted under MOMENT and written (R255, R401). -/
def VAcc.moment (v : VAcc) (a sa : Nat) (xs : List F32) : VAcc :=
  let r := convertRow 7 127 xs
  { v with writes := v.writes ++ [(a, packCodes 7 r.2.1), (sa, r.1.map (BitVec.ofNat 8))], num := numCount v.num 5 6 r.2.2,
           wide := v.wide + groupAccesses a xs.length 256 + groupAccesses sa (xs.length / 32) 8 }

/-- The effects of STEP (R271, R400, R401; log 55). -/
def Core.stepEffects (c : Core) (x : StepCmd) (slot : Nat) : VAcc :=
  let grad := f32Words (c.spRead x.grad (4 * x.n))
  let master := f32Words (c.spRead x.master (4 * x.n))
  let ms := c.moments x.m x.mScale x.n
  let vs := c.moments x.v x.vScale x.n
  let os : List StepOut := (List.zip (List.zip grad master) (List.zip ms vs)).map (fun p => x.element p.1.1 p.1.2 p.2.1.1 p.2.2.1)
  let w1 : List FV := os.map (fun (o : StepOut) => o.w1)
  let v : VAcc := ((({} : VAcc).widened 6 ms).widened 6 vs).rounded 6 (w1 ++ os.map (fun (o : StepOut) => o.m1) ++ os.map (fun (o : StepOut) => o.v1))
  let v := { v with bits := 0, writes := [(x.master, w1.flatMap (fun (y : FV) => leBytes 4 y.1.toNat))],
                    wide := 2 * groupAccesses x.master (4 * x.n) 1024 + groupAccesses x.grad (4 * x.n) 1024
                      + groupAccesses x.m x.n 256 + groupAccesses x.v x.n 256 + groupAccesses x.mScale (x.n / 32) 8
                      + groupAccesses x.vScale (x.n / 32) 8 }
  let v := (v.moment x.m x.mScale (os.map (fun (o : StepOut) => o.m1.1))).moment x.v x.vScale (os.map (fun (o : StepOut) => o.v1.1))
  let r := convertRow x.fmt x.scale (w1.map (fun (y : FV) => y.1))
  let a := slot + x.slotOffset
  let bs := packCodes x.fmt r.2.1
  let sc := r.1.map (BitVec.ofNat 8)
  let v := v.see (w1.map (fun (y : FV) => y.1))
  let v := { v with writes := v.writes ++ [(a, bs)] ++ (if sc.isEmpty then [] else [(slot + x.scaleOffset, sc)]),
                    num := numCount v.num 2 ((EFmt.ofCode x.fmt).getD .e4m3).slot r.2.2,
                    satn := (r.2.2.filter (fun (f : RFlags) => f.sat)).length,
                    wide := v.wide + groupAccesses a bs.length (elemBytes x.fmt 256)
                      + groupAccesses (slot + x.scaleOffset) sc.length 8 }
  let us := reduceFV .sumsq (os.map (fun (o : StepOut) => o.u))
  let ws := laneReduce .sumsq master
  let ra := ratioOf us.1 ws.1
  let am := plain (laneReduce .amax (w1.map (fun (y : FV) => y.1))).1
  let v := v.rounded 6 [us, ws, ra, am]
  { v with writes := v.writes ++ [(x.ratio, leBytes 4 x.layer ++ [us, ws, ra].flatMap (fun (y : FV) => leBytes 4 y.1.toNat)),
                                  (x.amax, leBytes 4 am.1.toNat)],
           wide := v.wide + wideOf x.ratio 16 + wideOf x.amax 4 }

/-- STEP (R271, R391, R400, R401). -/
def execOptStep (core : Nat) (clash : Option Clash) (s : State) : Res :=
  .next (s.resident core 4 clash (fun _ c p b => c.stepOk p b) (fun p b => p.busyCause (field b 20 4)) stepRanges (fun s p x =>
    let y := stepCmd x.bytes
    let v := (s.core core).stepEffects y (p.slotAt (p.slotOf y.version))
    (s.modCore core (fun c => c.markBuilding p y.version)).residentEnd core x.bytes v))

end Sys2Proof.Machine
end

