-- ==== Sys2Proof/Machine/Dispatch.lean ====
section
/-! DEFINITION. The meaning of each command: one arm per constructor of Instr. -/

namespace Sys2Proof.Machine

def exec (i : Instr) (s : State) : Host.Outcome State Fault Refusal :=
  match i with
  | .inputLoss millivolts => Sys2Proof.Machine.execInputLoss millivolts s
  | .housekeepingStop millivolts => Sys2Proof.Machine.execHousekeepingStop millivolts s
  | .standbyReturn millivolts => Sys2Proof.Machine.execStandbyReturn millivolts s
  | .powerUp strap => Sys2Proof.Machine.execPowerUp strap s
  | .railsInRegulation => Sys2Proof.Machine.execRailsInRegulation s
  | .powerUpFailure rail statusWord => Sys2Proof.Machine.execPowerUpFailure rail statusWord s
  | .powerDown => Sys2Proof.Machine.execPowerDown s
  | .moduleReset => Sys2Proof.Machine.execModuleReset s
  | .moduleResetRelease => Sys2Proof.Machine.execModuleResetRelease s
  | .thermalWarning reading => Sys2Proof.Machine.execThermalWarning reading s
  | .thermalTrip reading => Sys2Proof.Machine.execThermalTrip reading s
  | .thermtripRelease reading => Sys2Proof.Machine.execThermtripRelease reading s
  | .railFault rail statusWord => Sys2Proof.Machine.execRailFault rail statusWord s
  | .surroundingsViolation kind reading => Sys2Proof.Machine.execSurroundingsViolation kind reading s
  | .hoursStep => Sys2Proof.Machine.execHoursStep s
  | .pmbusRead rail cmd => Sys2Proof.Machine.execPmbusRead rail cmd s
  | .clearFaults rail => Sys2Proof.Machine.execClearFaults rail s
  | .pmbusWriteIgnored rail code => Sys2Proof.Machine.execPmbusWriteIgnored rail code s
  | .alertResponse => Sys2Proof.Machine.execAlertResponse s
  | .pllLock => Sys2Proof.Machine.execPllLock s
  | .refclkTimeout => Sys2Proof.Machine.execRefclkTimeout s
  | .romIdentity puf => Sys2Proof.Machine.execRomIdentity puf s
  | .imageVerify => Sys2Proof.Machine.execImageVerify s
  | .recordVerify => Sys2Proof.Machine.execRecordVerify s
  | .coreSelfTest failed => Sys2Proof.Machine.execCoreSelfTest failed s
  | .dramTraining failedChannel => Sys2Proof.Machine.execDramTraining failedChannel s
  | .dramZeroing ok => Sys2Proof.Machine.execDramZeroing ok s
  | .bootOpen => Sys2Proof.Machine.execBootOpen s
  | .hostLinkReset link => Sys2Proof.Machine.execHostLinkReset link s
  | .hostLinkRelease link => Sys2Proof.Machine.execHostLinkRelease link s
  | .configRequestRetry link isConfig => Sys2Proof.Machine.execConfigRequestRetry link isConfig s
  | .functionLevelReset link fn => Sys2Proof.Machine.execFunctionLevelReset link fn s
  | .d3hotEntry link fn => Sys2Proof.Machine.execD3hotEntry link fn s
  | .dataLinkDown link => Sys2Proof.Machine.execDataLinkDown link s
  | .barReadInvalid link fn offset size => Sys2Proof.Machine.execBarReadInvalid link fn offset size s
  | .registerWrite win offset size value => Sys2Proof.Machine.execRegisterWrite win offset size value s
  | .beatCount => Sys2Proof.Machine.execBeatCount s
  | .glitchReject => Sys2Proof.Machine.execGlitchReject s
  | .cadenceLost => Sys2Proof.Machine.execCadenceLost s
  | .synthesisedBeat => Sys2Proof.Machine.execSynthesisedBeat s
  | .doorbellReadComplete link read => Sys2Proof.Machine.execDoorbellReadComplete link read s
  | .doorbellFallbackPoll link => Sys2Proof.Machine.execDoorbellFallbackPoll link s
  | .submissionFetchComplete link fn read => Sys2Proof.Machine.execSubmissionFetchComplete link fn read s
  | .nop link fn => Sys2Proof.Machine.execNop link fn s
  | .submitJob link fn => Sys2Proof.Machine.execSubmitJob link fn s
  | .abortJob link fn => Sys2Proof.Machine.execAbortJob link fn s
  | .entryInvalid link fn => Sys2Proof.Machine.execEntryInvalid link fn s
  | .descriptorReadComplete job read => Sys2Proof.Machine.execDescriptorReadComplete job read s
  | .jobEnterScoreboard job => Sys2Proof.Machine.execJobEnterScoreboard job s
  | .taskPlace core => Sys2Proof.Machine.execTaskPlace core s
  | .clusterRestart cluster => Sys2Proof.Machine.execClusterRestart cluster s
  | .coreClearComplete core => Sys2Proof.Machine.execCoreClearComplete core s
  | .commitRequest core => Sys2Proof.Machine.execCommitRequest core s
  | .deliveryWritesAcked core => Sys2Proof.Machine.execDeliveryWritesAcked core s
  | .deliveryComplete core => Sys2Proof.Machine.execDeliveryComplete core s
  | .tallySignalDelivery index => Sys2Proof.Machine.execTallySignalDelivery index s
  | .runLimitExpiry core => Sys2Proof.Machine.execRunLimitExpiry core s
  | .shareCharge core => Sys2Proof.Machine.execShareCharge core s
  | .xlatRetryExpiry job task => Sys2Proof.Machine.execXlatRetryExpiry job task s
  | .msixHoldoffEnd link fn vector => Sys2Proof.Machine.execMsixHoldoffEnd link fn vector s
  | .alu core f => Sys2Proof.Machine.execAlu core f s
  | .addi core f => Sys2Proof.Machine.execAddi core f s
  | .andi core f => Sys2Proof.Machine.execAndi core f s
  | .ori core f => Sys2Proof.Machine.execOri core f s
  | .xori core f => Sys2Proof.Machine.execXori core f s
  | .shi core f => Sys2Proof.Machine.execShi core f s
  | .movz core f => Sys2Proof.Machine.execMovz core f s
  | .movn core f => Sys2Proof.Machine.execMovn core f s
  | .movk core k f => Sys2Proof.Machine.execMovk core k f s
  | .cmp core f => Sys2Proof.Machine.execCmp core f s
  | .cmpi core f => Sys2Proof.Machine.execCmpi core f s
  | .plog core f => Sys2Proof.Machine.execPlog core f s
  | .pmov core f => Sys2Proof.Machine.execPmov core f s
  | .ldn core f => Sys2Proof.Machine.execLdn core f s
  | .stn core f => Sys2Proof.Machine.execStn core f s
  | .ldv core f => Sys2Proof.Machine.execLdv core f s
  | .br core f => Sys2Proof.Machine.execBr core f s
  | .bl core f => Sys2Proof.Machine.execBl core f s
  | .jr core f => Sys2Proof.Machine.execJr core f s
  | .jlr core f => Sys2Proof.Machine.execJlr core f s
  | .issue core f => Sys2Proof.Machine.execIssue core f s
  | .qwait core f => Sys2Proof.Machine.execQwait core f s
  | .fence core f => Sys2Proof.Machine.execFence core f s
  | .crr core f => Sys2Proof.Machine.execCrr core f s
  | .wbeat core f => Sys2Proof.Machine.execWbeat core f s
  | .waitFilled core f => Sys2Proof.Machine.execWaitFilled core f s
  | .waitFree core f => Sys2Proof.Machine.execWaitFree core f s
  | .fill core f => Sys2Proof.Machine.execFill core f s
  | .drain core f => Sys2Proof.Machine.execDrain core f s
  | .tallyRead core f => Sys2Proof.Machine.execTallyRead core f s
  | .signalRemote core f => Sys2Proof.Machine.execSignalRemote core f s
  | .tend core f => Sys2Proof.Machine.execTend core f s
  | .pval core f => Sys2Proof.Machine.execPval core f s
  | .trap core f => Sys2Proof.Machine.execTrap core f s
  | .dramWrite core => Sys2Proof.Machine.execDramWrite core s
  | .send core => Sys2Proof.Machine.execSend core s
  | .arm core => Sys2Proof.Machine.execArm core s
  | .barrierArrive core => Sys2Proof.Machine.execBarrierArrive core s
  | .mxLoad core clash => Sys2Proof.Machine.execMxLoad core clash s
  | .mxStream core clash => Sys2Proof.Machine.execMxStream core clash s
  | .mxDrain core clash => Sys2Proof.Machine.execMxDrain core clash s
  | .vxMap core clash => Sys2Proof.Machine.execVxMap core clash s
  | .vxReduce core clash => Sys2Proof.Machine.execVxReduce core clash s
  | .vxNorm core clash => Sys2Proof.Machine.execVxNorm core clash s
  | .vxSoftmax core clash => Sys2Proof.Machine.execVxSoftmax core clash s
  | .vxConvert core clash => Sys2Proof.Machine.execVxConvert core clash s
  | .vxTrack core clash => Sys2Proof.Machine.execVxTrack core clash s
  | .vxAttnFwd core clash => Sys2Proof.Machine.execVxAttnFwd core clash s
  | .vxAttnBwd core clash => Sys2Proof.Machine.execVxAttnBwd core clash s
  | .vxKvPack core clash => Sys2Proof.Machine.execVxKvPack core clash s
  | .define core => Sys2Proof.Machine.execDefine core s
  | .release core => Sys2Proof.Machine.execRelease core s
  | .install core clash => Sys2Proof.Machine.execInstall core clash s
  | .optStep core clash => Sys2Proof.Machine.execOptStep core clash s
  | .publish core => Sys2Proof.Machine.execPublish core s
  | .retire core => Sys2Proof.Machine.execRetire core s
  | .stashPut core clash => Sys2Proof.Machine.execStashPut core clash s
  | .stashLookup core clash => Sys2Proof.Machine.execStashLookup core clash s
  | .stashFree core => Sys2Proof.Machine.execStashFree core s
  | .atAttend core clash => Sys2Proof.Machine.execAtAttend core clash s
  | .drStream core => Sys2Proof.Machine.execDrStream core s
  | .drTally core => Sys2Proof.Machine.execDrTally core s
  | .drMode core => Sys2Proof.Machine.execDrMode core s
  | .driftReadComplete core stream clash => Sys2Proof.Machine.execDriftReadComplete core stream clash s
  | .fetchCredit core => Sys2Proof.Machine.execFetchCredit core s
  | .cacheFillComplete core va => Sys2Proof.Machine.execCacheFillComplete core va s
  | .narrowSteal core quad => Sys2Proof.Machine.execNarrowSteal core quad s
  | .memoryAccess who slot part dpa op => Sys2Proof.Machine.execMemoryAccess who slot part dpa op s
  | .dramBankServe channel turn => Sys2Proof.Machine.execDramBankServe channel turn s
  | .meshWake who channel bank => Sys2Proof.Machine.execMeshWake who channel bank s
  | .wakeReservationLapse channel bank => Sys2Proof.Machine.execWakeReservationLapse channel bank s
  | .accessResponse core slot => Sys2Proof.Machine.execAccessResponse core slot s
  | .translationWalk core kind va => Sys2Proof.Machine.execTranslationWalk core kind va s
  | .scrubRead turn => Sys2Proof.Machine.execScrubRead turn s
  | .pageRetire => Sys2Proof.Machine.execPageRetire s
  | .linkLocalTest port pass => Sys2Proof.Machine.execLinkLocalTest port pass s
  | .bypassOpened port => Sys2Proof.Machine.execBypassOpened port s
  | .linkTrain port ok => Sys2Proof.Machine.execLinkTrain port ok s
  | .handshake port node peerPort hash => Sys2Proof.Machine.execHandshake port node peerPort hash s
  | .linkSecureDone port offer accept secret => Sys2Proof.Machine.execLinkSecureDone port offer accept secret s
  | .linkLoss port => Sys2Proof.Machine.execLinkLoss port s
  | .linkRetry port => Sys2Proof.Machine.execLinkRetry port s
  | .flitReceive port flit => Sys2Proof.Machine.execFlitReceive port flit s
  | .contrib pkt upset => Sys2Proof.Machine.execContrib pkt upset s
  | .partialSum pkt upset => Sys2Proof.Machine.execPartialSum pkt upset s
  | .result pkt => Sys2Proof.Machine.execResult pkt s
  | .sendReceive pkt => Sys2Proof.Machine.execSendReceive pkt s
  | .barrierArriveReceive pkt => Sys2Proof.Machine.execBarrierArriveReceive pkt s
  | .barrierRelease pkt => Sys2Proof.Machine.execBarrierRelease pkt s
  | .ack pkt => Sys2Proof.Machine.execAck pkt s
  | .busy pkt => Sys2Proof.Machine.execBusy pkt s
  | .wake pkt => Sys2Proof.Machine.execWake pkt s
  | .armDelivery => Sys2Proof.Machine.execArmDelivery s
  | .bucketOpen key bucket => Sys2Proof.Machine.execBucketOpen key bucket s
  | .lateRank key bucket tile => Sys2Proof.Machine.execLateRank key bucket tile s
  | .bucketGiveUp key bucket => Sys2Proof.Machine.execBucketGiveUp key bucket s
  | .bucketComplete key bucket => Sys2Proof.Machine.execBucketComplete key bucket s
  | .permuteSignalRelease key => Sys2Proof.Machine.execPermuteSignalRelease key s
  | .linkEffectDropped core => Sys2Proof.Machine.execLinkEffectDropped core s
  | .hwErrorReplay core kind position => Sys2Proof.Machine.execHwErrorReplay core kind position s
  | .repeatVerdict core => Sys2Proof.Machine.execRepeatVerdict core s
  | .shadowPairEnd job task => Sys2Proof.Machine.execShadowPairEnd job task s
  | .shadowMiscompare job task => Sys2Proof.Machine.execShadowMiscompare job task s
  | .meshFlitRetry row column => Sys2Proof.Machine.execMeshFlitRetry row column s
  | .routerFailed row column cause inFlight => Sys2Proof.Machine.execRouterFailed row column cause inFlight s
  | .routeAroundResume row column cause => Sys2Proof.Machine.execRouteAroundResume row column cause s
  | .mailboxGo link fn read => Sys2Proof.Machine.execMailboxGo link fn read s
  | .getIdentity => Sys2Proof.Machine.execGetIdentity s
  | .attest => Sys2Proof.Machine.execAttest s
  | .getChallenge => Sys2Proof.Machine.execGetChallenge s
  | .ownerEnrol => Sys2Proof.Machine.execOwnerEnrol s
  | .ownerRelease => Sys2Proof.Machine.execOwnerRelease s
  | .policySet => Sys2Proof.Machine.execPolicySet s
  | .partitionReset => Sys2Proof.Machine.execPartitionReset s
  | .endSession => Sys2Proof.Machine.execEndSession s
  | .partitionZeroingDone part => Sys2Proof.Machine.execPartitionZeroingDone part s
  | .sessionHello => Sys2Proof.Machine.execSessionHello s
  | .sessionConfirm => Sys2Proof.Machine.execSessionConfirm s
  | .tenantPartitionReset => Sys2Proof.Machine.execTenantPartitionReset s
  | .tenantEndSession => Sys2Proof.Machine.execTenantEndSession s
  | .importData reads => Sys2Proof.Machine.execImportData reads s
  | .exportData => Sys2Proof.Machine.execExportData s
  | .linkOffer => Sys2Proof.Machine.execLinkOffer s
  | .linkAccept => Sys2Proof.Machine.execLinkAccept s
  | .linkFinish => Sys2Proof.Machine.execLinkFinish s
  | .mailboxReservedType => Sys2Proof.Machine.execMailboxReservedType s
  | .ringEnable link fn value => Sys2Proof.Machine.execRingEnable link fn value s
  | .doorbellEnable link fn value => Sys2Proof.Machine.execDoorbellEnable link fn value s
  | .functionLock link fn value => Sys2Proof.Machine.execFunctionLock link fn value s
  | .partitionLock link fn value => Sys2Proof.Machine.execPartitionLock link fn value s
  | .moduleLock win value => Sys2Proof.Machine.execModuleLock win value s
  | .counterSample link fn value => Sys2Proof.Machine.execCounterSample link fn value s
  | .adoptEnable win value => Sys2Proof.Machine.execAdoptEnable win value s
  | .traceEnable link fn value => Sys2Proof.Machine.execTraceEnable link fn value s
  | .traceStopped part => Sys2Proof.Machine.execTraceStopped part s
  | .traceBufferWrite part => Sys2Proof.Machine.execTraceBufferWrite part s
  | .freeze win => Sys2Proof.Machine.execFreeze win s
  | .unfreeze win => Sys2Proof.Machine.execUnfreeze win s
  | .plogFlashWrite => Sys2Proof.Machine.execPlogFlashWrite s
  | .plogSectorErase => Sys2Proof.Machine.execPlogSectorErase s
  | .setPointer bytes pec => Sys2Proof.Machine.execSetPointer bytes pec s
  | .mgmtWrite bytes pec => Sys2Proof.Machine.execMgmtWrite bytes pec s
  | .mgmtRead bytes pec => Sys2Proof.Machine.execMgmtRead bytes pec s
  | .mboxPut bytes pec => Sys2Proof.Machine.execMboxPut bytes pec s
  | .mboxGo bytes pec => Sys2Proof.Machine.execMboxGo bytes pec s
  | .mboxGet bytes pec => Sys2Proof.Machine.execMboxGet bytes pec s
  | .flashPut bytes pec => Sys2Proof.Machine.execFlashPut bytes pec s
  | .flashCommit bytes pec => Sys2Proof.Machine.execFlashCommit bytes pec s
  | .flashCommitDone => Sys2Proof.Machine.execFlashCommitDone s
  | .flashRead bytes pec => Sys2Proof.Machine.execFlashRead bytes pec s
  | .fenceClear bytes pec => Sys2Proof.Machine.execFenceClear bytes pec s
  | .mgmtReservedCommand code isCall pec => Sys2Proof.Machine.execMgmtReservedCommand code isCall pec s
  | .turnOnThresholdRising millivolts => Sys2Proof.Machine.execTurnOnThresholdRising millivolts s
  | .pcieLinkTraining link partnerFlitMode rate width => Sys2Proof.Machine.execPcieLinkTraining link partnerFlitMode rate width s
  | .residentAreaScrub turn => Sys2Proof.Machine.execResidentAreaScrub turn s
  | .perBankRefresh channel bank rfm => Sys2Proof.Machine.execPerBankRefresh channel bank rfm s
  | .sourceCadenceEdge => Sys2Proof.Machine.execSourceCadenceEdge s

end Sys2Proof.Machine
end

