-- ==== Sys2Proof/Safety.lean ====
section
/-! DEFINITION. The terms that statements about the LX-960 are made in: what a command answers, which state is sound, and
the readings that a claim compares. -/

namespace Sys2Proof.Machine

/-- The command answers a next state, and that state satisfies `P`. -/
def Completes (c : Instr) (s : State) (P : State → Prop) : Prop := ∃ t, exec c s = .next t ∧ P t

/-- The counts that the LX-960 is built with: 192 cores (R20), 16 clusters (R20), 8 partitions (R104), 4 host links of 8
functions (R38, R104), 6 ports (R407) and 8 rails (R53). -/
def State.Shape (s : State) : Prop :=
  s.cores.length = 192 ∧ s.wnd.clusters.length = 16 ∧ s.parts.length = 8 ∧ s.links.length = 4
    ∧ (∀ l ∈ s.links, l.fns.length = 8) ∧ s.lnk.ports.length = 6 ∧ s.pwr.rails.length = 8

/-- Every memory that the state holds is in canonical form. -/
def State.Canonical (s : State) : Prop :=
  Mem1.wf flashD s.flash.bytes = true ∧ Mem1.wf ramD s.mem.dram = true
    ∧ (∀ l ∈ s.links, Mem1.wf ramD l.hostMem = true) ∧ (∀ c ∈ s.cores, Mem1.wf ramD c.sp = true)
    ∧ Mem1.wf flashD s.flash.sectorBuf = true ∧ Mem1.wf ramD s.sec.mgmtBuf = true ∧ Mem1.wf flashD s.flash.harvestArea = true

/-- A core runs instructions of its program (R184): clock running, executing, not stalled, fetch on. -/
def Core.ready (c : Core) : Prop := c.phase = .executing ∧ c.stall = none ∧ c.fetchStopped = false

/-- Core `n` takes an instruction with guard `g` now: the module runs, the core is ready, its line is held by the instruction
cache without an error, the guard is legal and true (R184 to R187, R206, R449). -/
def FetchesAt (s : State) (n : Nat) (g : BitVec 4) : Prop :=
  s.running = true ∧ n < 192 ∧ n < s.cores.length ∧ (s.core n).ready ∧ (s.core n).pc.toNat % 4 = 0
    ∧ (s.core n).icache.contains ((s.core n).pc.toNat % 2 ^ 48 / 256) = true
    ∧ (∀ x ∈ (s.core n).icacheUpsets, x.1 ≠ (s.core n).pc.toNat % 2 ^ 48 / 256)
    ∧ g ≠ 0b1000#4 ∧ (s.core n).guardTrue g = true

/-- A core after a fetch that its instruction cache serves: the line used last comes first (log 47). -/
def Core.fetched (c : Core) : Core := { c with icache := icacheUse c.icache (c.pc.toNat % 2 ^ 48 / 256) }

/-- A core after an instruction completes: the next program counter, and one more instruction counted (R184, R211). -/
def Core.retired (c : Core) : Core := { c.count 3 1 with pc := c.pc + 4, stall := none }

/-- The command changed core `n` into `c`, and nothing else. -/
def OnCore (s : State) (n : Nat) (c : Core) (t : State) : Prop :=
  t.core n = c ∧ (∀ m, m ≠ n → t.core m = s.core m) ∧ t = { s with cores := t.cores }

/-- Engine queue `q` of a core that runs has command `x` at its head and `rest` behind it; fetch is on, and no word of the
scratchpad is marked or in error, nor an accumulator line or the command (R175, R310, R449). -/
def HeadsQueue (s : State) (n q : Nat) (x : QCmd) (rest : List QCmd) : Prop :=
  s.running = true ∧ n < 192 ∧ n < s.cores.length ∧ (s.core n).phase = .executing ∧ (s.core n).fetchStopped = false
    ∧ (s.core n).queues.length = 5 ∧ ((s.core n).queue q).cmds = x :: rest ∧ (s.core n).badWords = []
    ∧ (s.core n).flipWords = [] ∧ (s.core n).missing = [] ∧ (s.core n).poison = [] ∧ (s.core n).accUpsets = []
    ∧ x.upset = none

/-- The head of queue `q` has finished: it is gone and counted, and no other queue changed (R177). -/
def HeadFinished (c d : Core) (q : Nat) (rest : List QCmd) : Prop :=
  d.queue q = { c.queue q with cmds := rest, done := (c.queue q).done + 1 } ∧ ∀ k, k ≠ q → d.queue k = c.queue k

/-- Only core `n` changed. -/
def OnlyCore (s : State) (n : Nat) (t : State) : Prop := (∀ m, m ≠ n → t.core m = s.core m) ∧ t = { s with cores := t.cores }

/-- A vector command has finished: on its core only the scratchpad, tallies, queues, performance counts and numeric counts
changed, and nothing changed outside the core (R177, R270, R274). -/
def VectorDone (s : State) (n q : Nat) (rest : List QCmd) (t : State) : Prop :=
  HeadFinished (s.core n) (t.core n) q rest ∧ OnlyCore s n t
    ∧ t.core n = { s.core n with sp := (t.core n).sp, tallies := (t.core n).tallies, queues := (t.core n).queues,
                                 epoch := (t.core n).epoch, numStore := (t.core n).numStore }

/-- A row of binary32 values in the scratchpad, as a vector command widens it (R241, R276). -/
def Core.binaryRow (c : Core) (a cols : Nat) : List F32 :=
  (List.range cols).map (fun i => (round32 (Fmt.f32.val (field (c.spRead (a + 4 * i) 4) 0 4))).1)

/-- Port `p` went DOWN with its retry time set, and the bypass is closed once both ring ports are DOWN (R411, R412). -/
def WentDown (s t : State) (p : Nat) : Prop :=
  t.port p = { s.port p with st := .down, retryAt := some (s.time.ticks + s.retryTicks),
                             downSince := some ((s.port p).downSince.getD s.time.counted), sent := (t.port p).sent }
    ∧ (∀ q, q ≠ p → t.port q = s.port q)
    ∧ t.pwr.bypassOpen = (s.pwr.bypassOpen && !((t.port 0).st == .down && (t.port 1).st == .down))
    ∧ t.mem = s.mem ∧ t.cores = s.cores

/-- Only port states changed. -/
def OnPorts (s t : State) : Prop := t = { s with lnk := { s.lnk with ports := t.lnk.ports } }

/-- A port that takes flits: UP, the bypass not closed over it, with nothing waiting to leave by it (R46, R411, R418). -/
def Listens (s : State) (p : Fin 6) : Prop :=
  s.running = true ∧ (s.port p).st = .up ∧ (p.val < 2 → s.pwr.bypassOpen = true) ∧ p.val < s.lnk.ports.length
    ∧ (s.port p).txq = [] ∧ (s.port p).fwd = []

/-- A resident command has finished: as `VectorDone`, but the run also holds changes, marks slots and counts puts (R388). -/
def ResidentDone (s : State) (n : Nat) (rest : List QCmd) (t : State) : Prop :=
  HeadFinished (s.core n) (t.core n) 2 rest ∧ OnlyCore s n t
    ∧ t.core n = { s.core n with sp := (t.core n).sp, tallies := (t.core n).tallies, queues := (t.core n).queues,
                                 epoch := (t.core n).epoch, numStore := (t.core n).numStore, held := (t.core n).held,
                                 building := (t.core n).building, pillars := (t.core n).pillars,
                                 runPuts := (t.core n).runPuts }

/-- Every byte of flash outside [a, a + n) reads as before. -/
def FlashOutside (s t : State) (a n : Nat) : Prop :=
  ∀ k, k < a ∨ a + n ≤ k → Mem1.get flashD t.flash.bytes k = Mem1.get flashD s.flash.bytes k

/-- Every byte of DRAM outside [a, a + n) reads as before. -/
def DramOutside (s t : State) (a n : Nat) : Prop :=
  ∀ k, k < a ∨ a + n ≤ k → Mem1.get ramD t.mem.dram k = Mem1.get ramD s.mem.dram k

/-- Every byte of a host's memory outside [a, a + n) reads as before; `a` is a key of requester ID and address (R105). -/
def HostOutside (s t : State) (k a n : Nat) : Prop :=
  ∀ x, x < a ∨ a + n ≤ x → Mem1.get ramD (t.link k).hostMem x = Mem1.get ramD (s.link k).hostMem x

/-- Every byte of a core's scratchpad outside [a, a + n) reads as before. -/
def ScratchOutside (c d : Core) (a n : Nat) : Prop :=
  ∀ k, k < a ∨ a + n ≤ k → Mem1.get ramD d.sp k = Mem1.get ramD c.sp k

/-- The packet `p` of kind `m` is the only one that has arrived, came by a port, and its TAG is new (R416, R420, R424). -/
def Arrived (s : State) (p : Packet) (m : BitVec 8) : Prop :=
  s.running = true ∧ s.lnk.recvPend = [p] ∧ p.msg = m ∧ p.port < 6 ∧ s.doneBefore p = false

/-- The packet was answered once, with kind `m`, and left the queue of arrived packets (R416, R417, R424, R433). -/
def Answered (s t : State) (p : Packet) (m : BitVec 8) : Prop :=
  t.lnk.recvPend = [] ∧ ∃ a, t.lnk.ctl = s.lnk.ctl ++ [a] ∧ a.msg = m ∧ a.dst = p.src ∧ a.key = p.key ∧ a.tag = p.tag
    ∧ a.bucket = p.bucket ∧ a.port = p.port

/-- Line `o` of tile `t` of bucket `b` of collective `i` (R432). -/
def State.lineOf (s : State) (i b t o : Nat) : LineSt := ((s.bucket i b).tiles.getD t {}).lines.getD o {}

/-- The packet carries one clean line for line `pkt.offset` of its tile, which collective `i` holds, in an open bucket without
zero-and-continue, with nobody waiting for the tile (R426, R431 to R433). -/
def CarriesLine (s : State) (i : Nat) (pkt : Packet) (l : Line) : Prop :=
  s.findColl pkt.key pkt.src.toNat [1] = some i ∧ s.linesFit i pkt = true ∧ pkt.lines = [l] ∧ pkt.poison = []
    ∧ (s.bucket i pkt.bucket.toNat).st = .opened ∧ (s.bucket i pkt.bucket.toNat).zac = false
    ∧ pkt.tile.toNat < (s.bucket i pkt.bucket.toNat).tiles.length
    ∧ pkt.offset.toNat < ((s.bucket i pkt.bucket.toNat).tiles.getD pkt.tile.toNat {}).lines.length
    ∧ ((s.bucket i pkt.bucket.toNat).tiles.getD pkt.tile.toNat {}).waiters = []

/-- The packet is a contribution that this module adds: a HOME collective, and a rank and part that the descriptor has, from
that rank's node (R431). -/
def Contributes (s : State) (i : Nat) (pkt : Packet) : Prop :=
  (s.coll i).desc.topology = 3 ∧ (s.coll i).adder pkt.tile.toNat = (s.coll i).desc.myRank
    ∧ pkt.rank.toNat < (s.coll i).desc.ranks ∧ pkt.part.toNat < (s.coll i).desc.parts
    ∧ ((s.coll i).rankNode pkt.rank.toNat).1 = pkt.src.toNat

/-- No contribution of this module itself waits at its Tipples, and no sender waits for a wake (R433). -/
def NobodyWaits (s : State) : Prop :=
  (∀ x ∈ s.lnk.tx, x.port ≠ 6) ∧ ∀ c ∈ s.lnk.colls, ∀ b ∈ c.buckets, ∀ y ∈ b.tiles, y.waiters = []

/-- No function has its event ring enabled: events are then written nowhere (log 16). -/
def NoEventRings (s : State) : Prop := ∀ k f, (s.fn k f).eq.en = false

/-- The 64-byte header of a response (R483). -/
def responseHead (m : Mbox) (status detail bodyLength : Nat) : Bytes :=
  leBytes 1 (byteAt m.req 0 + 0x80) ++ leBytes 1 status ++ leBytes 1 (byteAt m.req 2) ++ [0] ++ leBytes 4 (64 + bodyLength)
    ++ leBytes 4 detail ++ leBytes 4 (field m.req 20 4) ++ List.replicate 48 0

/-- Request `m` of type `t` from the management interface is at the front, and `n` bytes of response fit where it asks for
them (R482 to R484, R566). -/
def AsksMgmt (s : State) (m : Mbox) (rest : List Mbox) (t n : Nat) : Prop :=
  s.running = true ∧ s.sec.queue = m :: rest ∧ m.win = .mgmt ∧ byteAt m.req 0 = t ∧ n ≤ field m.req 16 4
    ∧ field m.req 8 8 + n ≤ 16384 ∧ Mem1.wf ramD s.sec.mgmtBuf = true ∧ s.asksZeroing m = false

/-- The management interface's request was answered: it is gone, its buffer holds the response, and BUSY is clear (R482, R483). -/
def AnsweredMgmt (t : State) (m : Mbox) (rest : List Mbox) (status detail : Nat) (body : Bytes) : Prop :=
  t.sec.queue = rest ∧ t.sec.mgmtBusy = false
    ∧ Mem1.read ramD t.sec.mgmtBuf (field m.req 8 8) (64 + body.length) = responseHead m status detail body.length ++ body

/-- Request `m` of type `t` from function `f` of link `k`, which serves the partition that the request names, is at the front,
and `n` bytes of response fit (R482 to R484). -/
def AsksTenant (s : State) (m : Mbox) (rest : List Mbox) (k : Fin 4) (f : Fin 8) (t n : Nat) : Prop :=
  s.running = true ∧ s.sec.queue = m :: rest ∧ m.win = .func k f ∧ byteAt m.req 0 = t ∧ n ≤ field m.req 16 4
    ∧ s.fnPart k f = some (byteAt m.req 2) ∧ k.val < s.links.length ∧ f.val < (s.link k).fns.length
    ∧ Mem1.wf ramD (s.link k).hostMem = true ∧ NoEventRings s ∧ (s.part (byteAt m.req 2)).zeroing = false
    ∧ byteAt m.req 2 < s.parts.length

/-- The function's request was answered: it is gone, host memory holds the response, and BUSY is clear (R482, R483). -/
def AnsweredTenant (t : State) (m : Mbox) (rest : List Mbox) (k : Fin 4) (f : Fin 8) (status detail : Nat) (body : Bytes) : Prop :=
  t.sec.queue = rest ∧ (t.fn k f).mboxBusy = false
    ∧ Mem1.read ramD (t.link k).hostMem (hostKey f (field m.req 8 8)) (64 + body.length)
        = responseHead m status detail body.length ++ body

/-- BAR0 of function `f` of host link `k` can be reached: the module runs, the straps select the link, it is out of reset and in L0,
and the function is in D0 (R40, R82, R103, R106). -/
def Reaches (s : State) (k : Fin 4) (f : Fin 8) : Prop :=
  s.linkUp k = true ∧ (s.fn k f).d3hot = false ∧ k.val < s.links.length ∧ f.val < (s.link k).fns.length

/-- Only function `f` of host link `k` changed, into `g`. -/
def OnFn (s : State) (k : Fin 4) (f : Fin 8) (g : Fn) (t : State) : Prop :=
  t.fn k f = g ∧ (∀ i j, ¬(i = k.val ∧ j = f.val) → t.fn i j = s.fn i j) ∧ (∀ i, { t.link i with fns := [] } = { s.link i with fns := [] })
    ∧ t = { s with links := t.links }

/-- Only partition `p` changed, into `q`. -/
def OnPart (s : State) (p : Nat) (q : Part) (t : State) : Prop :=
  t.part p = q ∧ (∀ i, i ≠ p → t.part i = s.part i) ∧ t = { s with parts := t.parts }

/-- A management command ended with `status`, and nothing else changed in the management block (R566, R567). -/
def MgmtStatus (s t : State) (status : BitVec 8) : Prop := t.mgt = { s.mgt with cmdStatus := status, reply := [], replyPec := none }

end Sys2Proof.Machine
end

