-- ==== Sys2Proof/Certificates/Slice0/Obligations.lean ====
section
/-! DEFINITION. The statements for the provers. Each says in its docstring which rules of spec/ it formalises. -/

open Sys2Proof Sys2Proof.Machine


/-- R40, R41, R51, R56, R63, R78, R92, R98: (1) POWER_UP from standby flushes the pit log, holds the straps, turns every rail on,
counts and writes the power cycle at the next hours slot of flash (and nothing else after that flush), and starts with every
volatile unit clear; the reserved strap 0 sets event 0. (2) In the off state only the pin is noted. (3) RAILS_IN_REGULATION
during power-up releases PGOOD and starts boot, or holds it in module reset; (4) later it returns PGOOD. (5), (6) The turn-on
threshold leads to standby from no input, with the counts in flash, and from the end of an input loss. (7) The end of an input
loss with PWR_EN low leads to standby. -/
def Obligations.PowerUpSequence : Prop :=
  (∀ (s : State) (strap : BitVec 2), s.pwr.phase = .standby → s.pwr.thermtrip = false → s.pwr.deferred = [] →
    let u := (s.plogFlush false).loadHours
    u.flash.hoursSlot < 4096 → Mem1.wf flashD (s.plogFlush false).flash.bytes = true →
    Completes (.powerUp strap) s fun t =>
      t.pwr.phase = .powerUp ∧ t.pwr.strap = strap ∧ t.pwr.pwrEn = true ∧ (∀ r ∈ t.pwr.rails, r.on = true) ∧ t.pwr.seq = none
        ∧ t.flash.powerCycles = (u.flash.powerCycles + 1) % 2 ^ 32 ∧ t.flash.hours = u.flash.hours
        ∧ t.flashRead (0xA0000 + 0x10000 * u.flash.hoursSector + 16 * u.flash.hoursSlot) 16
            = hoursEntry u.flash.hours t.flash.powerCycles
        ∧ FlashOutside (s.plogFlush false) t (0xA0000 + 0x10000 * u.flash.hoursSector + 16 * u.flash.hoursSlot) 16
        ∧ t.wnd = {} ∧ t.cores = List.replicate 192 {} ∧ t.mem = { moduleKeyEpoch := s.mem.moduleKeyEpoch }
        ∧ t.parts = List.replicate 8 {} ∧ t.lnk = {} ∧ t.mesh = {} ∧ t.sec = { keySerial := s.sec.keySerial }
        ∧ t.time = { mgmtTicks := s.time.mgmtTicks } ∧ t.pending = s.pending
        ∧ (strap = 0 → t.mgt.events.getLsbD 0 = true) ∧ (strap ≠ 0 → t.mgt = {}))
  ∧ (∀ (s : State) (strap : BitVec 2), s.pwr.phase = .off →
      exec (.powerUp strap) s = .next { s with pwr := { s.pwr with
        pwrEn := true, pwrEnLowTicks := false, deferred := s.pwr.deferred.filter (· != 2) } })
  ∧ (∀ s : State, s.pwr.phase = .powerUp →
      exec .railsInRegulation s = .next { s with pwr := { s.pwr with
        phase := if s.pwr.modReset then .inReset else .boot, pgood := true, dbgOnMgmtOsc := false, stage := 0,
        rails := s.pwr.rails.map (fun r => { r with on := true, inRegulation := true }) } })
  ∧ (∀ s : State, s.powered = true →
      exec .railsInRegulation s = .next { s with pwr := { s.pwr with
        pgood := true, rails := s.pwr.rails.map (fun r => { r with inRegulation := r.on }) } })
  ∧ (∀ (s : State) (mv : Nat), s.pwr.phase = .noInput → 39000 < mv → s.pwr.rails.length = 8 →
      Completes (.turnOnThresholdRising mv) s fun t =>
        t.pwr.phase = .standby ∧ t.pwr.millivolts = mv ∧ (t.rail 7).on = true ∧ (t.rail 7).inRegulation = true
          ∧ t = { s.loadHours with pwr := t.pwr, time := { s.time with mgmtTicks := 0 } })
  ∧ (∀ (s : State) (mv : Nat), s.pwr.phase = .off → s.pwr.seq = none → s.pwr.afterInputLoss = true →
      s.pwr.pwrEnLowTicks = true → s.pwr.thermtrip = false → 39000 < mv →
      Completes (.turnOnThresholdRising mv) s fun t =>
        t.pwr.phase = .standby ∧ t.pwr.afterInputLoss = false ∧ t.pwr.millivolts = mv ∧ t = { s with pwr := t.pwr })
  ∧ (∀ (s : State) (mv : Nat), s.pwr.phase = .off → s.pwr.afterInputLoss = true → s.pwr.thermtrip = false →
      s.pwr.deferred = [] → 39000 < mv →
      Completes (.standbyReturn mv) s fun t =>
        t.pwr.phase = .standby ∧ t.pwr.pwrEn = false ∧ t.pwr.faultN = false ∧ t.pwr.millivolts = mv ∧ t.pwr.seq = none
          ∧ t = { s with pwr := t.pwr })

/-- R55, R56, R67, R68, R79, R80: PWR_EN's deassertion, the loss of the input and a failed power-up switch every rail but VDD_HK
off, close the bypass, drop every job, leave the management block and every byte of flash below the hours sectors as they
were, and end in the power state that the rule names; the first two leave their sequence in progress with its rank. During a
higher-ranked sequence PWR_EN's deassertion only waits. HOUSEKEEPING_STOP below 24 V leaves nothing powered, no buffered
pit log record and no flash erase or commit in progress, and changes no byte of flash but in the sector of either. -/
def Obligations.PowerRemoval : Prop :=
  (∀ s : State, s.powerPresent = true → s.outranked 2 = false → Mem1.wf flashD s.flash.bytes = true →
    Completes .powerDown s fun t =>
      t.pwr.phase = .standby ∧ t.pwr.pwrEn = false ∧ t.pwr.faultN = false ∧ t.pwr.pgood = false
        ∧ (∀ i, i < 7 → (t.rail i).on = false) ∧ t.pwr.bypassOpen = false ∧ t.pwr.clocksRunning = false
        ∧ t.pwr.seq = some { rank := 2, start := s.time.mgmtTicks, hours := true }
        ∧ t.wnd.jobs = [] ∧ t.cores = List.replicate 192 {} ∧ t.mgt = s.mgt ∧ t.flash.hours = s.flash.hours
        ∧ t.pending = s.pending
        ∧ ∀ k, k < 0xA0000 → Mem1.get flashD t.flash.bytes k = Mem1.get flashD s.flash.bytes k)
  ∧ (∀ s : State, s.outranked 2 = true → s.pwr.pwrEn = true → s.pwr.deferred.contains 2 = false →
    Completes .powerDown s fun t =>
      t.pwr = { s.pwr with deferred := s.pwr.deferred ++ [2] } ∧ t.cores = s.cores ∧ t.wnd = s.wnd ∧ t.mem = s.mem
        ∧ t.flash = s.flash)
  ∧ (∀ (s : State) (mv : Nat), s.housekeeping = true → mv ≤ 38000 → 38000 < s.pwr.millivolts →
    (∀ q ∈ s.pwr.seq, q.rank ≠ 0) → Mem1.wf flashD s.flash.bytes = true →
    Completes (.inputLoss mv) s fun t =>
      t.pwr.phase = .off ∧ t.pwr.afterInputLoss = true ∧ t.pwr.faultN = true ∧ t.pwr.pgood = false
        ∧ t.pwr.millivolts = mv ∧ (∀ i, i < 7 → (t.rail i).on = false) ∧ t.pwr.bypassOpen = false
        ∧ t.pwr.seq = some { rank := 0, start := s.time.mgmtTicks, hours := true }
        ∧ t.wnd.jobs = [] ∧ t.cores = List.replicate 192 {} ∧ t.mgt = s.mgt ∧ t.pending = s.pending
        ∧ ∀ k, k < 0xA0000 → Mem1.get flashD t.flash.bytes k = Mem1.get flashD s.flash.bytes k)
  ∧ (∀ (s : State) (mv : Nat), s.pwr.phase = .off → s.pwr.afterInputLoss = true → mv < 24000 →
    Mem1.wf flashD s.flash.bytes = true →
    Completes (.housekeepingStop mv) s fun t =>
      t.pwr.phase = .noInput ∧ t.pwr.afterInputLoss = false ∧ t.pwr.thermtrip = false ∧ (∀ r ∈ t.pwr.rails, r = {})
        ∧ t.pwr.seq = none ∧ t.plog.buffer = [] ∧ t.plog.newest = s.plog.flashed ∧ t.plog.erasing = none
        ∧ t.plog.halfErased = (match s.plog.erasing with | some j => some j | none => s.plog.halfErased)
        ∧ t.flash.commitBusy = none ∧ t.flash.sectorBuf = []
        ∧ (∀ k, (∀ j, s.plog.erasing = some j → k < 0x100000 + 65536 * j ∨ 0x100000 + 65536 * j + 65536 ≤ k) →
            (∀ a, s.flash.commitBusy = some a → k < a ∨ a + 65536 ≤ k) →
          Mem1.get flashD t.flash.bytes k = Mem1.get flashD s.flash.bytes k)
        ∧ t.pending = s.pending)
  ∧ (∀ (s : State) (rail : Fin 8) (w : BitVec 16), s.pwr.phase = .powerUp → s.pwr.rails.length = 8 →
    Mem1.wf flashD s.flash.bytes = true →
    Completes (.powerUpFailure rail w) s fun t =>
      t.pwr.phase = .off ∧ t.pwr.faultN = true ∧ (t.rail rail).statusWord = w
        ∧ (∀ i, i < 7 → (t.rail i).on = false) ∧ t.pwr.pgood = false ∧ t.pwr.bypassOpen = false ∧ t.mgt = s.mgt
        ∧ t.wnd.jobs = [] ∧ t.pending = s.pending
        ∧ ∀ k, k < 0xA0000 → Mem1.get flashD t.flash.bytes k = Mem1.get flashD s.flash.bytes k)

/-- R47, R64, R66 to R68, R98, R99: a module reset holds the module with its CL clocks stopped and everything volatile clear,
and releases FAULT_N where R64 lets it; within power-up it is only held; its release starts boot. A reading of 105 °C or above
sets event 1 and a lower one is only reported; 115 °C latches THERMTRIP_N and FAULT_N, removes power and leaves a sequence of
rank 1 in progress; below 100 °C the latch goes. -/
def Obligations.ResetAndThermal : Prop :=
  (∀ s : State, s.powered = true → s.pwr.modReset = false → s.outranked 3 = false →
    Completes .moduleReset s fun t =>
      t.pwr.phase = .inReset ∧ t.pwr.modReset = true ∧ t.pwr.bypassOpen = false ∧ t.pwr.clocksRunning = false
        ∧ t.pwr.faultN = (s.pwr.faultN && !(decide (39000 ≤ s.pwr.millivolts) && !s.pwr.thermtrip))
        ∧ t.wnd = {} ∧ t.cores = List.replicate 192 {} ∧ t.parts = List.replicate 8 {} ∧ t.lnk = {}
        ∧ t.sec = { keySerial := s.sec.keySerial } ∧ t.mem = { moduleKeyEpoch := s.mem.moduleKeyEpoch } ∧ t.mesh = {}
        ∧ t.mgt = {} ∧ t.flash.hours = s.flash.hours ∧ t.pending = s.pending)
  ∧ (∀ s : State, s.pwr.phase = .powerUp → s.pwr.modReset = false → s.outranked 3 = false →
    Completes .moduleReset s fun t =>
      t.pwr.modReset = true ∧ t.pwr.phase = .powerUp ∧ t.cores = s.cores ∧ t.mem = s.mem ∧ t.flash = s.flash)
  ∧ (∀ s : State, exec .moduleResetRelease s = .next { s with pwr := { s.pwr with
      modReset := false, deferred := s.pwr.deferred.filter (· != 3),
      phase := if s.pwr.phase = .inReset then .boot else s.pwr.phase } })
  ∧ (∀ (s : State) (r : Int), s.powered = true → 420 ≤ r →
    Completes (.thermalWarning r) s fun t =>
      t.pwr = { s.pwr with temperature := r } ∧ t.mgt.events.getLsbD 1 = true ∧ t.cores = s.cores ∧ t.wnd = s.wnd
        ∧ t.mem = s.mem ∧ t.flash = s.flash)
  ∧ (∀ (s : State) (r : Int), s.powered = true → r < 420 →
    exec (.thermalWarning r) s = .next { s with pwr := { s.pwr with temperature := r } })
  ∧ (∀ (s : State) (r : Int), s.housekeeping = true → 460 ≤ r → s.pwr.thermtrip = false → s.pwr.deferred.contains 1 = false →
      s.outranked 1 = false →
    Completes (.thermalTrip r) s fun t =>
      t.pwr.phase = .off ∧ t.pwr.thermtrip = true ∧ t.pwr.faultN = true ∧ t.pwr.pgood = false ∧ t.pwr.temperature = r
        ∧ (∀ i, i < 7 → (t.rail i).on = false) ∧ t.pwr.bypassOpen = false ∧ t.pwr.seq.map (·.rank) = some 1
        ∧ t.wnd.jobs = [] ∧ t.cores = List.replicate 192 {} ∧ t.mgt = s.mgt)
  ∧ (∀ (s : State) (r : Int), s.pwr.thermtrip = true → s.housekeeping = true → s.pwr.deferred = [] → r < 400 →
    Completes (.thermtripRelease r) s fun t =>
      t.pwr.thermtrip = false ∧ t.pwr.faultN = false ∧ t.pwr.temperature = r ∧ t.pwr.seq = none
        ∧ t.pwr.phase = (if s.pwr.phase = .off ∧ 39000 < s.pwr.millivolts then .standby else s.pwr.phase)
        ∧ t = { s with pwr := t.pwr })

/-- R47, R53, R54, R60, R63 to R66, R76, R92: a regulator's output fault is reported, takes FAULT_N, and takes PGOOD and the bypass
where its status says that the rail is out of regulation; a reading of the surroundings out of range sets its event; a tenth of
an hour is counted and written, at the next hours slot or at the start of the other sector, whose predecessor is erased; PMBus
reads answer what the regulator has or a free reading; CLEAR_FAULTS clears, and any other write is ignored and sets the CML bit
(that it alerts is the model's choice, log 36); the lowest alerting address answers an alert. -/
def Obligations.RailsAndPmbus : Prop :=
  (∀ (s : State) (rail : Fin 8) (w : BitVec 16), s.housekeeping = true → (s.rail rail).on = true → s.pwr.rails.length = 8 →
    Completes (.railFault rail w) s fun t =>
      t.pwr.faultN = true ∧ (t.rail rail).statusWord = w ∧ (t.rail rail).alert = true ∧ t.pwr.phase = s.pwr.phase
        ∧ (t.rail rail).inRegulation = ((s.rail rail).inRegulation && !offRegulation w)
        ∧ t.pwr.pgood = (s.pwr.pgood && !offRegulation w) ∧ t.pwr.bypassOpen = (s.pwr.bypassOpen && !offRegulation w)
        ∧ (∀ i : Fin 8, i ≠ rail → t.rail i = s.rail i) ∧ t.cores = s.cores ∧ t.wnd = s.wnd ∧ t.mem = s.mem)
  ∧ (∀ (s : State) (r : BitVec 32), s.housekeeping = true → (r.toNat < 40000 ∨ 60000 < r.toNat) →
    Completes (.surroundingsViolation .input r) s fun t =>
      t.mgt.events.getLsbD 2 = true
        ∧ t.pwr = { s.pwr with millivolts := if 38000 < r.toNat then r.toNat else s.pwr.millivolts }
        ∧ t.cores = s.cores ∧ t.wnd = s.wnd ∧ t.flash = s.flash)
  ∧ (∀ (s : State) (r : BitVec 32), s.housekeeping = true → 200 < (signedOf 32 r.toNat).natAbs →
    Completes (.surroundingsViolation .refclk r) s fun t =>
      t.mgt.events.getLsbD 3 = true ∧ t.pwr = s.pwr ∧ t.cores = s.cores ∧ t.wnd = s.wnd ∧ t.flash = s.flash)
  ∧ (∀ (s : State) (r : BitVec 32), s.housekeeping = true → 420 ≤ signedOf 32 r.toNat →
    Completes (.surroundingsViolation .junction r) s fun t =>
      t.mgt.events.getLsbD 1 = true ∧ t.pwr = { s.pwr with temperature := signedOf 32 r.toNat } ∧ t.cores = s.cores
        ∧ t.wnd = s.wnd ∧ t.flash = s.flash)
  ∧ (∀ s : State, s.pwr.pgood = true → s.flash.hoursSlot < 4096 → Mem1.wf flashD s.flash.bytes = true →
    Completes .hoursStep s fun t =>
      t.flash.hours = (s.flash.hours + 1) % 2 ^ 32
        ∧ t.flashRead (0xA0000 + 0x10000 * s.flash.hoursSector + 16 * s.flash.hoursSlot) 16
            = hoursEntry t.flash.hours s.flash.powerCycles
        ∧ FlashOutside s t (0xA0000 + 0x10000 * s.flash.hoursSector + 16 * s.flash.hoursSlot) 16
        ∧ t.flash.hoursSlot = s.flash.hoursSlot + 1 ∧ t.flash.hoursSector = s.flash.hoursSector
        ∧ t = { s with flash := t.flash })
  ∧ (∀ s : State, s.pwr.pgood = true → 4096 ≤ s.flash.hoursSlot → s.flash.hoursSector < 2 →
      Mem1.wf flashD s.flash.bytes = true →
    Completes .hoursStep s fun t =>
      t.flash.hours = (s.flash.hours + 1) % 2 ^ 32
        ∧ t.flash.hoursSector = 1 - s.flash.hoursSector ∧ t.flash.hoursSlot = 1
        ∧ t.flashRead (0xA0000 + 0x10000 * t.flash.hoursSector) 16 = hoursEntry t.flash.hours s.flash.powerCycles
        ∧ (∀ k, k < 0x10000 → Mem1.get flashD t.flash.bytes (0xA0000 + 0x10000 * s.flash.hoursSector + k) = 0xFF#8)
        ∧ (∀ k, k < 0xA0000 ∨ 0xC0000 ≤ k → Mem1.get flashD t.flash.bytes k = Mem1.get flashD s.flash.bytes k)
        ∧ t = { s with flash := t.flash })
  ∧ (∀ (s : State) (rail : Fin 8), s.housekeeping = true →
    exec (.pmbusRead rail .statusWord) s
      = .next { s with mgt := { s.mgt with reply := leBytes 2 (s.rail rail).statusWord.toNat } })
  ∧ (∀ (s : State) (rail : Fin 8), s.housekeeping = true →
    exec (.pmbusRead rail .statusCml) s
      = .next { s with mgt := { s.mgt with reply := [if (s.rail rail).cml then 0x80#8 else 0] } })
  ∧ (∀ (s : State) (rail : Fin 8), s.housekeeping = true →
    exec (.pmbusRead rail .vin) s = .next { s with
      mgt := { s.mgt with reply := leBytes 2 (Config.telemetry rail s.fresh).toNat }, fresh := s.fresh + 1 })
  ∧ (∀ (s : State) (rail : Fin 8) (code : BitVec 8), s.housekeeping = true →
    exec (.pmbusRead rail (.other code)) s = .next { s with
      mgt := { s.mgt with reply := Config.freeBytes s.fresh code.toNat }, fresh := s.fresh + 1 })
  ∧ (∀ (s : State) (rail : Fin 8), s.housekeeping = true →
    exec (.clearFaults rail) s = .next { s with pwr := { s.pwr with
      rails := s.pwr.rails.modify rail (fun r => { r with statusWord := 0, cml := false, alert := false }) } })
  ∧ (∀ (s : State) (rail : Fin 8) (code : BitVec 8), s.housekeeping = true → code ≠ 3 →
    exec (.pmbusWriteIgnored rail code) s = .next { s with pwr := { s.pwr with
      rails := s.pwr.rails.modify rail (fun r => { r with cml := true, alert := true }) } })
  ∧ (∀ (s : State) (n : Fin 8), s.housekeeping = true → (s.rail n).alert = true →
      (∀ i : Fin 8, i < n → (s.rail i).alert = false) →
    exec .alertResponse s = .next { s with mgt := { s.mgt with reply := [BitVec.ofNat 8 (0x40 + n)] } })
  ∧ (∀ s : State, s.housekeeping = true → (∀ i : Fin 8, (s.rail i).alert = false) →
    exec .alertResponse s = .next { s with mgt := { s.mgt with reply := if s.mgmtAlert then [0x5A#8] else [] } })

/-- R82, R95, R97, R469, R476 to R478, R506, R536: (1) PLL_LOCK at stage B0 starts the timebase at beat 0 and lets released host links
detect; (2) it also erases a pit log sector that an input loss left half erased. (3) REFCLK_TIMEOUT enters recovery, with PCIe
idle and bypasses closed. (4) ROM_IDENTITY at stage B1, where the ROM's check passes and the endorsement verifies for the key
that the PUF gives, takes that identity, clears SEC SRAM, loads the fence record and routes round its routers; (5), (6), (7) a
failed ROM check, PUF or endorsement enters recovery. -/
def Obligations.BootClockAndIdentity : Prop :=
  (∀ s : State, s.atStage 0 = true → s.plog.halfErased = none →
    Completes .pllLock s fun t =>
      t.pwr = { s.pwr with stage := s.pwr.stage + 1 } ∧ t.time = { on := true, mgmtTicks := s.time.mgmtTicks }
        ∧ (∀ k, k < 4 → (t.link k).ltssm
            = if k < s.linkCount ∧ (s.link k).perst = false then .detect else (s.link k).ltssm)
        ∧ t.plog.newest = (if s.plog.buffer = [] then s.plog.flashed else s.plog.newest)
        ∧ t = { s with pwr := t.pwr, time := t.time, links := t.links, plog := { s.plog with newest := t.plog.newest } })
  ∧ (∀ (s : State) (j : Nat), s.atStage 0 = true → s.plog.halfErased = some j → Mem1.wf flashD s.flash.bytes = true →
    Completes .pllLock s fun t =>
      t.pwr = { s.pwr with stage := s.pwr.stage + 1 } ∧ t.time = { on := true, mgmtTicks := s.time.mgmtTicks }
        ∧ t.plog.halfErased = none
        ∧ (∀ k, k < 65536 → Mem1.get flashD t.flash.bytes (0x100000 + 65536 * j + k) = 0xFF#8)
        ∧ FlashOutside s t (0x100000 + 65536 * j) 65536 ∧ t.cores = s.cores ∧ t.wnd = s.wnd ∧ t.mem = s.mem)
  ∧ (∀ s : State, s.atStage 0 = true →
    Completes .refclkTimeout s fun t =>
      t.pwr = { s.pwr with phase := .recovery, bypassOpen := false, bypassDrive := false, clocksRunning := false }
        ∧ (∀ l ∈ t.links, l.ltssm = .idle) ∧ t = { s with pwr := t.pwr, links := t.links })
  ∧ (∀ (s : State) (puf : List (BitVec 8)) (seed : Bytes), s.atStage 1 = true → Config.romIntegrity [] = true →
      Config.pufSeed puf (s.flashRead 0x20000 8192) = some seed → s.endorsed (Config.mldsaPublic seed) = true →
    Completes (.romIdentity puf) s fun t =>
      t.pwr = { s.pwr with stage := s.pwr.stage + 1 } ∧ t.flash.secSramCleared = true
        ∧ t.flash.romVersion = Config.romVersion ∧ t.flash.identityPk = Config.mldsaPublic seed
        ∧ t.flash.dsn = BitVec.ofNat 64 (leNat ((Config.sha3_512 (Config.mldsaPublic seed)).take 8))
        ∧ t.flash.tried = [] ∧ t.flash.image = none ∧ t.flash.bytes = s.flash.bytes
        ∧ t.mesh.failed = (t.flash.fenceEntries.filter (·.router)).map (fun e => (e.row, e.column))
        ∧ t = { s with pwr := t.pwr, flash := t.flash, mesh := { s.mesh with failed := t.mesh.failed } })
  ∧ (∀ (s : State) (puf : List (BitVec 8)), s.atStage 1 = true → Config.romIntegrity [] = false →
    Completes (.romIdentity puf) s fun t =>
      t.pwr.phase = .recovery ∧ (∀ l ∈ t.links, l.ltssm = .idle) ∧ t = { s with pwr := t.pwr, links := t.links })
  ∧ (∀ (s : State) (puf : List (BitVec 8)), s.atStage 1 = true →
      Config.pufSeed puf (s.flashRead 0x20000 8192) = none →
    Completes (.romIdentity puf) s fun t => t.pwr.phase = .recovery ∧ t.flash.identityPk = s.flash.identityPk)
  ∧ (∀ (s : State) (puf : List (BitVec 8)) (seed : Bytes), s.atStage 1 = true →
      Config.pufSeed puf (s.flashRead 0x20000 8192) = some seed → s.endorsed (Config.mldsaPublic seed) = false →
    Completes (.romIdentity puf) s fun t => t.pwr.phase = .recovery ∧ t.flash.identityPk = s.flash.identityPk)

/-- R82, R85, R87 to R90, R93, R94, R377, R411, R464, R472: (1) IMAGE_VERIFY runs the image that the directory prefers, or after
a rejection the other one, when it passes every check, with the version of its header and the measurement of its signed
bytes; (2) the first rejected image sets event 6 and leaves the other to try; (3) the second enters recovery. (4) RECORD_VERIFY
with a valid configuration record and, at a cold boot, a valid harvest map takes that map and both hashes, loads the fence
record and the retirement list, and fences the cores that the fence record lists; (5) after a module reset it keeps the map;
(6) without a valid configuration record or map it enters recovery with event 4. (7) CORE_SELF_TEST clears every core, starts
the CL clocks and fences exactly the failing cores besides those fenced. (8) DRAM_TRAINING trains all 64 channels, (9) or
recovers with event 5. (10) DRAM_ZEROING clears DRAM under a new module key, (11) or recovers. (12) BOOT_OPEN enters the
running state and starts the test of every enabled port. -/
def Obligations.BootRecordsAndMemory : Prop :=
  (∀ s : State, s.atStage 2 = true →
    let b := if s.flash.tried = [] then s.preferredImage else !s.preferredImage
    let h := s.flashRead (imageBase b) 2608
    s.imageCheck b = none →
    exec .imageVerify s = .next { s with
      flash := { s.flash with image := some b, fwVersion := BitVec.ofNat 32 (field h 8 4),
                              measurement := Config.sha3_512 (h ++ s.flashRead (imageBase b + 8192) (field h 12 4)) },
      pwr := { s.pwr with stage := s.pwr.stage + 1 } })
  ∧ (∀ s : State, s.atStage 2 = true → s.flash.tried = [] → s.imageCheck s.preferredImage ≠ none →
    Completes .imageVerify s fun t =>
      t.mgt.events.getLsbD 6 = true ∧ t.flash = { s.flash with tried := [s.preferredImage] } ∧ t.pwr = s.pwr
        ∧ t.cores = s.cores ∧ t.mem = s.mem ∧ t.wnd = s.wnd)
  ∧ (∀ s : State, s.atStage 2 = true → s.flash.tried ≠ [] → s.imageCheck (!s.preferredImage) ≠ none →
    Completes .imageVerify s fun t =>
      t.mgt.events.getLsbD 6 = true ∧ t.pwr.phase = .recovery ∧ t.pwr.faultN = true ∧ t.flash.image = s.flash.image
        ∧ (∀ l ∈ t.links, l.ltssm = .idle) ∧ t.cores = s.cores ∧ t.mem = s.mem ∧ t.wnd = s.wnd)
  ∧ (∀ (s : State) (en : List (BitVec 16)) (attn : List Bool) (msg : Bytes), s.atStage 3 = true →
      s.flash.harvestPending = true → s.harvestMap = some (en, attn, msg) →
      (Config.configRecord (s.flashRead 0x40000 65536)).1 = true →
    Completes .recordVerify s fun t =>
      t.pwr = { s.pwr with stage := s.pwr.stage + 1 } ∧ t.flash.enable = en ∧ t.flash.attn = attn
        ∧ t.flash.harvestPending = false ∧ t.flash.harvestHash = Config.sha3_512 msg
        ∧ t.flash.configHash = Config.sha3_512 (Config.configRecord (s.flashRead 0x40000 65536)).2.2
        ∧ t.flash.fenceEntries = s.loadFence.1.flash.fenceEntries ∧ t.flash.fenceGen = s.loadFence.1.flash.fenceGen
        ∧ t.flash.retired = s.loadRetired.1.flash.retired ∧ t.flash.retireGen = s.loadRetired.1.flash.retireGen
        ∧ (∀ n, n ∈ t.wnd.fenced ↔ ∃ e ∈ t.flash.fenceEntries, e.router = false ∧ t.coreAt e.row e.column = some n)
        ∧ t.flash.bytes = s.flash.bytes ∧ t.cores = s.cores ∧ t.mem = s.mem)
  ∧ (∀ s : State, s.atStage 3 = true → s.flash.harvestPending = false → s.flash.harvestOk = true →
      (Config.configRecord (s.flashRead 0x40000 65536)).1 = true →
    Completes .recordVerify s fun t =>
      t.pwr = { s.pwr with stage := s.pwr.stage + 1 } ∧ t.flash.enable = s.flash.enable ∧ t.flash.attn = s.flash.attn
        ∧ t.flash.harvestHash = s.flash.harvestHash
        ∧ t.flash.configHash = Config.sha3_512 (Config.configRecord (s.flashRead 0x40000 65536)).2.2
        ∧ t.flash.fenceEntries = s.loadFence.1.flash.fenceEntries ∧ t.flash.retired = s.loadRetired.1.flash.retired
        ∧ t.flash.bytes = s.flash.bytes ∧ t.cores = s.cores ∧ t.mem = s.mem)
  ∧ (∀ s : State, s.atStage 3 = true →
      ((Config.configRecord (s.flashRead 0x40000 65536)).1 = false
        ∨ (if s.flash.harvestPending then s.harvestMap.isSome else s.flash.harvestOk) = false) →
    Completes .recordVerify s fun t =>
      t.pwr.phase = .recovery ∧ t.mgt.events.getLsbD 4 = true ∧ t.flash.bytes = s.flash.bytes
        ∧ (∀ l ∈ t.links, l.ltssm = .idle) ∧ t.wnd = s.wnd ∧ t.cores = s.cores ∧ t.mem = s.mem)
  ∧ (∀ (s : State) (failed : List Nat), s.atStage 4 = true → (∀ n ∈ failed, n < 192) → s.wnd.serials = [] →
    Completes (.coreSelfTest failed) s fun t =>
      t.pwr = { s.pwr with stage := s.pwr.stage + 1, clocksRunning := true }
        ∧ t.wnd.clusters = List.replicate 16 .stopped ∧ t.wnd.gapStamp = List.replicate 16 s.stamp
        ∧ (∀ n, n < 192 → t.core n = {}) ∧ (∀ n ∈ failed, t.isFenced n = true)
        ∧ (∀ n, n ∉ failed → t.isFenced n = s.isFenced n) ∧ t.mem = s.mem)
  ∧ (∀ s : State, s.atStage 5 = true →
    exec (.dramTraining none) s = .next { s with
      flash := { s.flash with trained := List.replicate 64 true }, pwr := { s.pwr with stage := s.pwr.stage + 1 } })
  ∧ (∀ (s : State) (c : Fin 64), s.atStage 5 = true →
    Completes (.dramTraining (some c)) s fun t =>
      t.pwr.phase = .recovery ∧ t.mgt.events.getLsbD 5 = true ∧ t.flash.trained = s.flash.trained
        ∧ (∀ l ∈ t.links, l.ltssm = .idle) ∧ t.cores = s.cores ∧ t.mem = s.mem)
  ∧ (∀ s : State, s.atStage 6 = true →
    exec (.dramZeroing true) s = .next { s with
      flash := { s.flash with dramZeroed := true }, pwr := { s.pwr with stage := s.pwr.stage + 1 },
      mem := { s.mem with dram := [], poison := [], bad := [], flip := [], msc := [],
                          moduleKeyEpoch := s.mem.moduleKeyEpoch + 1 } })
  ∧ (∀ s : State, s.atStage 6 = true →
    Completes (.dramZeroing false) s fun t =>
      t.pwr.phase = .recovery ∧ (∀ l ∈ t.links, l.ltssm = .idle) ∧ t = { s with pwr := t.pwr, links := t.links })
  ∧ (∀ s : State, s.atStage 7 = true →
    Completes .bootOpen s fun t =>
      t.pwr = { s.pwr with phase := .running, stage := s.pwr.stage + 1 } ∧ t.lnk.ports.length = 6
        ∧ (∀ p, p < 6 → (t.port p) = if bitOf s.lnk.cfg.toNat p then { s.port p with st := .localTest } else s.port p)
        ∧ t = { s with pwr := t.pwr, lnk := { s.lnk with ports := t.lnk.ports } })

/-- R69, R70, R507 to R510, R512, R513: (1) an edge at least 200 ticks after the last counted beat, outside holdover and loss,
counts one beat, the next number, and restarts ET; (2) in holdover an edge less than half a period after the last synthesised
beat ends holdover, restarts ET and counts none; (3) a later one counts the next beat and ends it; (4) after a loss it counts the
next beat and ends the loss. (5) At the limit no beat is counted. (6) A closer edge outside holdover only counts a glitch. (7) In
holdover, P ticks count a synthesised beat. Forward mode repeats an edge of CADENCE_IN on CADENCE_OUT. -/
def Obligations.BeatsCounted : Prop :=
  (∀ s : State, s.time.on = true → s.time.beat.toNat < 2 ^ 44 - 1 → s.time.holdoverActive = false →
      s.time.stopped = false → s.time.adoptK = none → 200 ≤ s.time.et →
    Completes .beatCount s fun t =>
      t.time.beat = s.time.beat + 1 ∧ t.time.et = 0 ∧ t.time.counted = s.time.counted + 1 ∧ t.time.lastReal = true
        ∧ t.time.glitches = s.time.glitches ∧ t.time.cadenceIn = true
        ∧ t.time.cadenceOut = (s.time.cadenceOut || s.time.outMode == 1) ∧ t.mem.dram = s.mem.dram ∧ t.pwr = s.pwr)
  ∧ (∀ s : State, s.time.on = true → s.time.beat.toNat < 2 ^ 44 - 1 → s.time.holdoverActive = true →
      s.time.et < s.time.period / 2 →
    Completes .beatCount s fun t =>
      t.time.holdoverActive = false ∧ t.time.et = 0 ∧ t.time.lastReal = true ∧ t.time.beat = s.time.beat
        ∧ t.time.counted = s.time.counted ∧ t.mem = s.mem ∧ t.flash = s.flash ∧ t.pwr = s.pwr)
  ∧ (∀ s : State, s.time.on = true → s.time.beat.toNat < 2 ^ 44 - 1 → s.time.holdoverActive = true → s.time.adoptK = none →
      s.time.period / 2 ≤ s.time.et →
    Completes .beatCount s fun t =>
      t.time.holdoverActive = false ∧ t.time.et = 0 ∧ t.time.lastReal = true ∧ t.time.beat = s.time.beat + 1
        ∧ t.time.counted = s.time.counted + 1 ∧ t.mem.dram = s.mem.dram ∧ t.pwr = s.pwr)
  ∧ (∀ s : State, s.time.on = true → s.time.beat.toNat + 1 < 2 ^ 44 - 1 → s.time.holdoverActive = false → s.time.adoptK = none →
      s.time.stopped = true → 200 ≤ s.time.et →
    Completes .beatCount s fun t =>
      t.time.stopped = false ∧ t.time.et = 0 ∧ t.time.lastReal = true ∧ t.time.beat = s.time.beat + 1
        ∧ t.time.counted = s.time.counted + 1 ∧ t.mem.dram = s.mem.dram ∧ t.pwr = s.pwr)
  ∧ (∀ s : State, s.time.on = true → s.time.beat.toNat = 2 ^ 44 - 1 →
    exec .beatCount s = .next { s with time := s.time.forward })
  ∧ (∀ s : State, s.time.on = true → s.time.holdoverActive = false → s.time.et < 200 →
    exec .glitchReject s = .next { s with time := { s.time.forward with glitches := min (s.time.glitches + 1) (2 ^ 32 - 1) } })
  ∧ (∀ s : State, s.time.on = true → s.time.holdoverActive = true → s.time.beat.toNat < 2 ^ 44 - 1 →
      s.time.adoptK = none → s.time.period ≤ s.time.et →
    Completes .synthesisedBeat s fun t =>
      t.time.beat = s.time.beat + 1 ∧ t.time.et = 0 ∧ t.time.synthesised = s.time.synthesised + 1
        ∧ t.time.counted = s.time.counted + 1 ∧ t.time.lastReal = false ∧ t.mem.dram = s.mem.dram ∧ t.pwr = s.pwr)

/-- R70, R511, R512, R514, R515: (1) at the loss threshold a locked timebase with HOLDOVER set starts holdover with one synthesised
beat; (2) any other one stops its beats, with the beat number as it was. (3), (4) In source mode CADENCE_OUT rises when the period
has passed and falls when half of it has. -/
def Obligations.CadenceLoss : Prop :=
  (∀ s : State, s.time.on = true → s.time.holdoverActive = false → s.time.stopped = false → s.time.locked = true →
      s.time.cadCfg.getLsbD 2 = true → s.time.period + s.time.period / 4 ≤ s.time.et → s.time.adoptK = none →
      s.time.beat.toNat + 1 < 2 ^ 44 - 1 →
    Completes .cadenceLost s fun t =>
      t.time.holdoverActive = true ∧ t.time.beat = s.time.beat + 1 ∧ t.time.synthesised = 1
        ∧ t.time.et = s.time.period / 4 ∧ t.time.stopped = false ∧ t.mem.dram = s.mem.dram ∧ t.pwr = s.pwr)
  ∧ (∀ s : State, s.time.on = true → s.time.holdoverActive = false → s.time.stopped = false →
      (s.time.locked = true → s.time.cadCfg.getLsbD 2 = false) →
      (if s.time.locked then s.time.period + s.time.period / 4 else 1250000) ≤ s.time.et →
    Completes .cadenceLost s fun t =>
      t.time = { s.time with stopped := true, lastReal := false } ∧ t.mem = s.mem ∧ t.cores = s.cores ∧ t.pwr = s.pwr)
  ∧ (∀ s : State, s.time.on = true → s.time.cadCfg.toNat % 4 = 2 → s.time.cadenceOut = false →
      s.time.srcPeriod ≤ s.time.srcTimer →
    exec .sourceCadenceEdge s = .next { s with time := { s.time with
      cadenceOut := true, srcTimer := 0, cadenceEdges := s.time.cadenceEdges + 1 } })
  ∧ (∀ s : State, s.time.on = true → s.time.cadCfg.toNat % 4 = 2 → s.time.cadenceOut = true →
      s.time.srcPeriod / 2 ≤ s.time.srcTimer →
    exec .sourceCadenceEdge s = .next { s with time := { s.time with cadenceOut := false } })
/-- R34, R35, R138, R165, R167, R184, R212, R320: (1) TASK_PLACE gives the winner of a free core to the lowest core that is eligible
for it, whose cluster then restarts. (2) CLUSTER_RESTART opens the epochs of the runs that wait for the cluster, which are then
cleared; (3) a cluster that holds no task stops again. (4) After core clearing everything above the resident area reads zero and
the run stands at PROGRAM with the registers that R184 gives. -/
def Obligations.PlacementAndStart : Prop :=
  (∀ (s : State) (core n ser i : Nat) (j : Job) (t : TaskSt), s.active = true → core < 192 → n < s.cores.length →
      s.isFenced core = false → (s.core core).phase = .idle → s.endPillarless = s → s.winner core = some (ser, i) →
      s.job ser = some j → s.task ser i = some t → t.pair = none → j.shadowed i t = false → j.invalidated = true →
      j.predState t = some true → s.lacksPillar j t = false → (s.eligible j t []).head? = some n →
      s.wnd.clusters.getD (clusterOf n) .stopped = .stopped →
    Completes (.taskPlace core) s fun u =>
      u.core n = { s.core n with
                     phase := .waitClock, job := ser, task := i, part := j.part,
                     kind := if t.runs = 0 then .run else .replay, taskCount := j.tasks.length, cls := t.cls,
                     startTag := t.tag, heldTicks := 0, runTicks := 0, charged := 0, jobId := j.id,
                     stagingKib := j.stagingKib, start := { t with st := .running } }
        ∧ u.task ser i = some { t with st := .running, runs := t.runs + 1, lastCore := n }
        ∧ u.wnd.clusters = s.wnd.clusters.set (clusterOf n) .restarting
        ∧ (∀ m, m ≠ n → u.core m = s.core m) ∧ u = { s with wnd := u.wnd, cores := u.cores })
  ∧ (∀ (s : State) (c : Fin 16), s.running = true → s.wnd.clusters.getD c .stopped = .restarting → s.cores.length = 192 →
      (∀ w ∈ s.wnd.heldWakes, clusterOf w.1 ≠ c) → (∃ i, i < 12 ∧ (s.core (12 * c + i)).phase = .waitClock) →
      (∀ i, i < 12 → (s.core (12 * c + i)).phase = .waitClock →
        (s.core (12 * c + i)).needsClear (s.core (12 * c + i)).part = true) →
    Completes (.clusterRestart c) s fun u =>
      u.wnd = { s.wnd with clusters := s.wnd.clusters.set c .running }
        ∧ (∀ i, i < 12 → (s.core (12 * c + i)).phase = .waitClock →
            (u.core (12 * c + i)).phase = .clearing ∧ (u.core (12 * c + i)).epoch.state = 0
              ∧ (u.core (12 * c + i)).epoch.number = (s.core (12 * c + i)).epoch.number + 1)
        ∧ (∀ m, (s.core m).phase ≠ .waitClock ∨ m / 12 ≠ c → u.core m = s.core m)
        ∧ u = { s with wnd := u.wnd, cores := u.cores, parts := u.parts })
  ∧ (∀ (s : State) (c : Fin 16), s.running = true → s.wnd.clusters.getD c .stopped = .restarting →
      (∀ w ∈ s.wnd.heldWakes, clusterOf w.1 ≠ c) → (∀ i, i < 12 → (s.core (12 * c + i)).phase = .idle) →
    Completes (.clusterRestart c) s fun u =>
      u.wnd = { s.wnd with clusters := s.wnd.clusters.set c .stopped, gapStamp := s.wnd.gapStamp.set c s.stamp }
        ∧ u = { s with wnd := u.wnd, parts := u.parts })
  ∧ (∀ (s : State) (n : Nat) (t : TaskSt), s.running = true → (s.core n).phase = .clearing →
      (s.core n).kind ≠ .repeatRun → s.task (s.core n).job (s.core n).task = some t → t.signals = [] →
      (t.cls ≠ 1 ∨ t.affinity = 0xFFFF) → Mem1.wf ramD (s.core n).sp = true →
    Completes (.coreClearComplete n) s fun u =>
      (u.core n).phase = .executing ∧ (u.core n).pc = t.program ∧ (u.core n).reg 1 = t.argAddr
        ∧ (u.core n).reg 2 = BitVec.ofNat 64 (s.core n).task ∧ (u.core n).reg 3 = t.tag
        ∧ (∀ r, r = 0 ∨ 4 ≤ r → (u.core n).reg r = 0) ∧ (∀ r, (u.core n).pred r = (r == 0)) ∧ (u.core n).acc = [] ∧ (u.core n).effects = []
        ∧ (∀ a, Mem1.get ramD (u.core n).sp a = if a < (s.core n).resTop then Mem1.get ramD (s.core n).sp a else 0)
        ∧ (∀ m, m ≠ n → u.core m = s.core m) ∧ u = { s with cores := u.cores })

/-- R149, R154, R157, R159, R161: (1) COMMIT_REQUEST of a STAGED task with one staged DRAM write makes it COMMITTED and writes
those bytes, and no other byte of DRAM. (2) DELIVERY_WRITES_ACKED sends its tally signal. (3) DELIVERY_COMPLETE of a job's only
task frees its core, writes the completion entry with status SUCCESS, and removes the job. -/
def Obligations.CommitAndDelivery : Prop :=
  (∀ (s : State) (n : Nat) (j : Job) (t : TaskSt) (va dpa : Nat) (data : Bytes), s.active = true →
      (s.core n).phase = .finished → (s.core n).kind = .run → s.job (s.core n).job = some j →
      s.task (s.core n).job (s.core n).task = some t → t.st = .staged → t.pair = none → t.heldGrant = false →
      s.repeating (s.core n).job (s.core n).task = false → (s.core n).effects = [.dramWrite va [(dpa, data.length)] data] →
      (s.core n).runPuts = (0, 0, 0) → (s.core n).held = [] → (s.core n).badWords = [] → j.watch = [] →
      Mem1.wf ramD s.mem.dram = true →
    Completes (.commitRequest n) s fun u =>
      u.task (s.core n).job (s.core n).task = some { t with st := .committed, lastCore := n }
        ∧ (u.core n).phase = .delivering ∧ (u.core n).awaitAck = true ∧ u.dramRead dpa data.length = data
        ∧ DramOutside s u dpa data.length ∧ (∀ m, m ≠ n → u.core m = s.core m) ∧ u.lnk = s.lnk)
  ∧ (∀ (s : State) (n : Nat) (j : Job) (tk dr : Nat) (d : Bool) (c : Nat), s.running = true →
      (s.core n).phase = .delivering → (s.core n).awaitAck = true → s.lnk.tx = [] → s.mesh.injectStopped = false →
      (s.core n).slots.length < 48 → s.job (s.core n).job = some j → (s.core n).effects = [.tallySignal tk dr d c] →
    Completes (.deliveryWritesAcked n) s fun u =>
      u.wnd.signals = s.wnd.signals ++ [{ job := (s.core n).job, task := tk, tally := dr, drain := d, count := c,
                                          source := BitVec.ofNat 16 n, id := j.id, link := j.link, fn := j.fn }]
        ∧ (u.core n).awaitAck = false ∧ (u.core n).signalsSent = true ∧ u.mem.dram = s.mem.dram ∧ u.lnk = s.lnk)
  ∧ (∀ (s : State) (n ser : Nat) (j : Job) (t : TaskSt), s.running = true → (s.core n).phase = .delivering →
      (s.core n).signalsSent = true → s.lnk.tx = [] → s.wnd.signals = [] → s.wnd.jobs = [j] → s.wnd.serials = [ser] → (s.core n).job = ser →
      (s.core n).task = 0 → j.tasks = [t] → t.st = .committed → j.phase = .live → j.ending = none → j.specDiscard = false →
      t.linkFail = false → j.acks = [] → j.irq = false → j.link < s.links.length → j.fn < (s.link j.link).fns.length →
      (s.fn j.link j.fn).cq.en = true → Mem1.wf ramD (s.link j.link).hostMem = true →
    Completes (.deliveryComplete n) s fun u =>
      (u.core n).phase = .idle ∧ (u.core n).epoch.state = 1 ∧ u.wnd.jobs = [] ∧ u.wnd.serials = []
        ∧ Mem1.read ramD (u.link j.link).hostMem
              (hostKey j.fn ((s.fn j.link j.fn).cq.base.toNat + 32 * (s.fn j.link j.fn).cq.tail)) 32
            = completionBytes j.id 0 0 (s.fn j.link j.fn).sq.head (s.fn j.link j.fn).cq.phase 0 j.userTag s.stamp
        ∧ HostOutside s u j.link (hostKey j.fn ((s.fn j.link j.fn).cq.base.toNat + 32 * (s.fn j.link j.fn).cq.tail)) 32
        ∧ (u.fn j.link j.fn).cq = (s.fn j.link j.fn).cq.push ∧ u.mem = s.mem ∧ u.flash = s.flash)

/-- R153, R159, R169, R173, R341, R370: (1) TALLY_SIGNAL_DELIVERY records a committed signal with its task, (2) unless an earlier one
from the same source to the same destination is still in flight. (3) SHARE_CHARGE charges 1,024 held ticks at 65536 divided by
the share weight each, the remainder carried. (4) XLAT_RETRY_EXPIRY lets the task be placed again once the beat is counted.
(5) RUN_LIMIT_EXPIRY ends a run past its partition's limit and its job with FAULT_POLICY. -/
def Obligations.WinderTimers : Prop :=
  (∀ (s : State) (k : Nat) (g : Signal) (t : TaskSt), s.wnd.signals[k]? = some g → s.task g.job g.task = some t →
      t.st.final = false → s.runsOf g.job g.task = [] →
      (s.wnd.signals.take k).any (fun h => h.source == g.source && s.sameDest g h) = false →
    exec (.tallySignalDelivery k) s
      = .next (({ s with wnd := { s.wnd with signals := s.wnd.signals.eraseIdx k } } : State).modTask g.job g.task
          (fun x => { x with signals := x.signals ++ [g] })))
  ∧ (∀ (s : State) (k : Nat) (g : Signal), s.wnd.signals[k]? = some g →
      (s.wnd.signals.take k).any (fun h => h.source == g.source && s.sameDest g h) = true →
    exec (.tallySignalDelivery k) s = .next s)
  ∧ (∀ (s : State) (n : Nat), s.running = true → 1024 ≤ (s.core n).heldTicks → (s.core n).kind.chargeable = true →
      (s.part (s.core n).part).share ≠ 0 → (s.core n).part < s.parts.length →
    Completes (.shareCharge n) s fun u =>
      let p := s.part (s.core n).part
      let due := 65536 * (s.core n).heldTicks + p.carry
      u.part (s.core n).part = { p with service := (p.service + due / p.share) % 2 ^ 64, carry := due % p.share }
        ∧ u.core n = { s.core n with heldTicks := 0, charged := (s.core n).charged + (s.core n).heldTicks }
        ∧ u = { s with parts := u.parts, cores := u.cores })
  ∧ (∀ (s : State) (ser i b : Nat) (t : TaskSt), s.task ser i = some t → t.retryBeat = some b → b ≤ s.time.counted →
    exec (.xlatRetryExpiry ser i) s = .next (s.modTask ser i (fun x => { x with retryBeat := none })))
  ∧ (∀ (s : State) (n ser : Nat) (j : Job) (t : TaskSt), s.running = true → (s.core n).phase = .executing →
      (s.core n).kind = .run → (s.part (s.core n).part).runLimit ≠ 0 →
      (s.part (s.core n).part).runLimit < (s.core n).runTicks → s.wnd.jobs = [j] → s.wnd.serials = [ser] →
      (s.core n).job = ser → (s.core n).task = 0 → j.tasks = [t] → t.pair = none → t.heldGrant = false → j.phase = .live →
      j.ending = none → j.acks = [] → j.irq = false → s.runsOf ser 0 = [n] → (s.fn j.link j.fn).cq.en = true → j.link < s.links.length →
      j.fn < (s.link j.link).fns.length → Mem1.wf ramD (s.link j.link).hostMem = true →
    Completes (.runLimitExpiry n) s fun u =>
      (u.core n).phase = .idle ∧ (u.core n).epoch.state = 2 ∧ u.wnd.jobs = []
        ∧ field (Mem1.read ramD (u.link j.link).hostMem
            (hostKey j.fn ((s.fn j.link j.fn).cq.base.toNat + 32 * (s.fn j.link j.fn).cq.tail)) 32) 6 2 = 0x10A
        ∧ u.mem = s.mem)

/-- R95, R98, R100, R101, R110, R137: (1) HOST_LINK_RESET clears every function of its link, whose hosts get no completion entry;
(2) within a cold or module reset it only holds the link and is logged. (3) HOST_LINK_RELEASE lets a live link detect. (4)
FUNCTION_LEVEL_RESET clears one function, its mailbox request and nothing of its siblings. (5) D3HOT_ENTRY without a live job
only enters D3hot; (6) with one it also resets the function. (7) DATA_LINK_DOWN clears as a link reset does, and the link detects
again. None of them writes host memory. -/
def Obligations.HostResets : Prop :=
  (∀ (s : State) (k : Fin 4), s.powered = true → s.pwr.phase ≠ .inReset → k.val < s.linkCount → s.links.length = 4 →
    Completes (.hostLinkReset k) s fun u =>
      (u.link k).perst = true ∧ (u.link k).ltssm = .idle ∧ (u.link k).dbEn = false
        ∧ (u.link k).fns = (s.link k).fns.map Fn.hifReset ∧ (u.link k).hostMem = (s.link k).hostMem
        ∧ (∀ m : Fin 4, m ≠ k → u.link m = s.link m) ∧ u.flash = s.flash ∧ u.time = s.time)
  ∧ (∀ (s : State) (k : Fin 4), (s.pwr.phase = .powerUp ∨ s.pwr.phase = .inReset) → s.links.length = 4 →
      s.plog.buffer.length < 64 →
    Completes (.hostLinkReset k) s fun u =>
      (u.link k).perst = true ∧ (u.link k).hostMem = (s.link k).hostMem ∧ u.plog.buffer.length = s.plog.buffer.length + 1
        ∧ u = { s with links := u.links, plog := u.plog, fresh := s.fresh + 1 })
  ∧ (∀ (s : State) (k : Fin 4), s.linksLive = true → k.val < s.linkCount → (s.link k).ltssm = .idle →
    exec (.hostLinkRelease k) s = .next { s with
      links := s.links.modify k (fun l => { l with perst := false, ltssm := if l.ltssm == .idle then .detect else l.ltssm }) })
  ∧ (∀ (s : State) (k : Fin 4) (f : Fin 8), s.running = true → k.val < s.linkCount → s.links.length = 4 →
      (s.link k).fns.length = 8 → (s.link k).perst = false →
    Completes (.functionLevelReset k f) s fun u =>
      u.fn k f = { msixSent := (s.fn k f).msixSent } ∧ (u.link k).hostMem = (s.link k).hostMem
        ∧ (∀ g : Fin 8, g ≠ f → u.fn k g = s.fn k g) ∧ (∀ m : Fin 4, m ≠ k → u.link m = s.link m)
        ∧ (∀ r ∈ u.sec.queue, r.win ≠ .func k f) ∧ (f = 0 → (u.link k).dbEn = false) ∧ u.flash = s.flash)
  ∧ (∀ (s : State) (k : Fin 4) (f : Fin 8), s.running = true → k.val < s.linkCount → (s.link k).perst = false →
      (∀ j ∈ s.wnd.jobs, ¬ (j.link = k ∧ j.fn = f)) →
    exec (.d3hotEntry k f) s = .next (s.modFn k f (fun x => { x with d3hot := true })))
  ∧ (∀ (s : State) (k : Fin 4) (f : Fin 8) (j : Job), s.running = true → k.val < s.linkCount → s.links.length = 4 →
      (s.link k).fns.length = 8 → (s.link k).perst = false → j ∈ s.wnd.jobs → j.link = k → j.fn = f →
    Completes (.d3hotEntry k f) s fun u =>
      u.fn k f = { msixSent := (s.fn k f).msixSent, d3hot := true } ∧ (u.link k).hostMem = (s.link k).hostMem
        ∧ (∀ g : Fin 8, g ≠ f → u.fn k g = s.fn k g) ∧ (∀ m : Fin 4, m ≠ k → u.link m = s.link m))
  ∧ (∀ (s : State) (k : Fin 4), s.powered = true → k.val < s.linkCount → s.links.length = 4 → (s.link k).perst = false →
    Completes (.dataLinkDown k) s fun u =>
      (u.link k).perst = false ∧ (u.link k).ltssm = (if (s.link k).ltssm = .idle then .idle else .detect)
        ∧ (u.link k).fns = (s.link k).fns.map Fn.hifReset ∧ (u.link k).hostMem = (s.link k).hostMem
        ∧ (∀ m : Fin 4, m ≠ k → u.link m = s.link m) ∧ u.flash = s.flash)

/-- R42, R95, R103, R107, R116, R134, R135, R514: (1), (2) PCIE_LINK_TRAINING with a partner in Flit Mode enters L0 at the rate and
width agreed, and signals vector 2 while the module runs; (3) without Flit Mode the link stays out of L0 and event 7 is set.
(4) CONFIG_REQUEST_RETRY before boot ends completes a configuration request with Request Retry Status and (5) any other with
Unsupported Request. (6) A BAR read of another size or alignment completes as Unsupported Request, which vector 2 reports; (7) a
valid one returns the register. (8) DOORBELL_FALLBACK_POLL reads the page, (9) unless a read is outstanding. (10)
MSIX_HOLDOFF_END sends the pending message. -/
def Obligations.HostLinkTraffic : Prop :=
  (∀ (s : State) (k : Fin 4) (rate width : Nat), s.linksLive = true → s.running = false → k.val < s.linkCount →
      (s.link k).perst = false → ((s.link k).ltssm = .detect ∨ (s.link k).ltssm = .noFlit) →
      rate ∈ [25, 50, 80, 160, 320, 640, 1280] → width ∈ [1, 2, 4, 8, 16] → width ≤ 16 / s.linkCount →
    exec (.pcieLinkTraining k true rate width) s = .next { s with
        links := s.links.modify k (fun l => { l with ltssm := .l0, rate := rate, width := width }) })
  ∧ (∀ (s : State) (k : Fin 4) (rate width : Nat), s.running = true → k.val < s.linkCount → s.links.length = 4 →
      (s.link k).fns.length = 8 → (s.link k).perst = false → ((s.link k).ltssm = .detect ∨ (s.link k).ltssm = .noFlit) →
      rate ∈ [25, 50, 80, 160, 320, 640, 1280] → width ∈ [1, 2, 4, 8, 16] → width ≤ 16 / s.linkCount →
      (s.fn k 0).holdEnd.length = 2 → (s.fn k 0).msixSent.length = 4 →
    Completes (.pcieLinkTraining k true rate width) s fun u =>
      (u.link k).ltssm = .l0 ∧ (u.link k).rate = rate ∧ (u.link k).width = width
        ∧ (u.fn k 0).msixSent.getD 2 0 = (s.fn k 0).msixSent.getD 2 0 + 1 ∧ (∀ g : Fin 8, g ≠ 0 → u.fn k g = s.fn k g)
        ∧ (∀ m : Fin 4, m ≠ k → u.link m = s.link m) ∧ u = { s with links := u.links })
  ∧ (∀ (s : State) (k : Fin 4) (rate width : Nat), s.linksLive = true → k.val < s.linkCount → (s.link k).perst = false →
      ((s.link k).ltssm = .detect ∨ (s.link k).ltssm = .noFlit) → rate ∈ [25, 50, 80, 160, 320, 640, 1280] →
      width ∈ [1, 2, 4, 8, 16] → width ≤ 16 / s.linkCount →
    exec (.pcieLinkTraining k false rate width) s = .next { s with
        links := s.links.modify k (fun l => { l with ltssm := .noFlit }),
        mgt := { s.mgt with events := s.mgt.events ||| 0x80#64 } })
  ∧ (∀ (s : State) (k : Fin 4), s.pwr.phase = .boot → k.val < s.linkCount → (s.link k).ltssm ≠ .idle →
    exec (.configRequestRetry k true) s = .next { s with
        links := s.links.modify k (fun l => { l with cfgRetries := l.cfgRetries + 1 }) })
  ∧ (∀ (s : State) (k : Fin 4), s.pwr.phase = .boot → k.val < s.linkCount → (s.link k).ltssm ≠ .idle →
    exec (.configRequestRetry k false) s = .next { s with
        links := s.links.modify k (fun l => { l with urSent := l.urSent + 1 }) })
  ∧ (∀ (s : State) (k : Fin 4) (f : Fin 8) (x : FnOffset) (size : Nat), s.linkUp k = true → s.links.length = 4 →
      (s.link k).fns.length = 8 → x.space ≠ .config → ¬ ((size = 4 ∨ size = 8) ∧ size ∣ x.offset) →
      (s.fn k 0).holdEnd.length = 2 → (s.fn k 0).msixSent.length = 4 →
    Completes (.barReadInvalid k f x size) s fun u =>
      (u.link k).urSent = (s.link k).urSent + 1 ∧ (u.link k).barData = (s.link k).barData
        ∧ (u.fn k 0).msixSent.getD 2 0 = (s.fn k 0).msixSent.getD 2 0 + 1 ∧ (∀ g : Fin 8, g ≠ 0 → u.fn k g = s.fn k g)
        ∧ (∀ m : Fin 4, m ≠ k → u.link m = s.link m) ∧ u = { s with links := u.links })
  ∧ (∀ (s : State) (k : Fin 4) (f : Fin 8) (x : FnOffset) (size : Nat), s.linkUp k = true →
      s.windowCovers (fnWindow x.space k f) x.offset size = true → (size = 4 ∨ size = 8) → size ∣ x.offset →
    exec (.barReadInvalid k f x size) s = .next { s with
      links := s.links.modify k (fun l => { l with barData := some (BitVec.ofNat 64 (s.regRead (fnWindow x.space k f) x.offset size)) }) })
  ∧ (∀ (s : State) (k : Fin 4), s.running = true → s.time.stopped = true → (s.link k).dbEn = true →
      (s.link k).outstanding = false → (s.fn k 0).d3hot = false →
    exec (.doorbellFallbackPoll k) s = .next { s with
      links := s.links.modify k (fun l => { l with outstanding := true, readReq := some (0, l.dbAddr.toNat, 64) }) })
  ∧ (∀ (s : State) (k : Fin 4), s.running = true → s.time.stopped = true → (s.link k).outstanding = true →
    exec (.doorbellFallbackPoll k) s = .next s)
  ∧ (∀ (s : State) (k : Fin 4) (f : Fin 8) (v : Fin 2) (b : Nat), s.running = true → s.links.length = 4 →
      (s.link k).fns.length = 8 → (s.fn k f).holdEnd.length = 2 → (s.fn k f).msixSent.length = 4 →
      (s.fn k f).holdEnd.getD v none = some b → b ≤ s.time.counted → (s.fn k f).holdPending.getD v false = true →
    Completes (.msixHoldoffEnd k f v) s fun u =>
      (u.fn k f).msixSent.getD v 0 = (s.fn k f).msixSent.getD v 0 + 1 ∧ (u.fn k f).holdPending.getD v false = false
        ∧ (∀ g : Fin 8, g ≠ f → u.fn k g = s.fn k g) ∧ u = { s with links := u.links })

/-- R113, R116, R117, R120 to R125, R127 to R129, R163: (1) a good doorbell page moves every enabled submission ring's tail as it
says; (2) a failed read is counted, (3) and the sixteenth in a row stops active polling and sets event 8. (4) Fetched entries
join their ring's in order. (5) NOP is consumed with nothing else. (6) A reserved OPCODE is consumed with an ENTRY_INVALID
event. (7) SUBMIT_JOB makes a job whose descriptor is fetched, (8) or, for a faulty entry, ends at once with FAULT_POLICY.
(9) ABORT_JOB of an unknown job is acknowledged as late; (10) of a job that is fetching its descriptor, it ends the job with
status ABORTED. -/
def Obligations.DoorbellsAndSubmission : Prop :=
  (∀ (s : State) (k : Fin 4) (page : Bytes), s.running = true → s.links.length = 4 → (s.link k).fns.length = 8 →
      (s.link k).dbEn = true → (s.link k).outstanding = true →
      (∀ f, f < 8 → (s.fn k f).dropped = 0
        ∧ ((s.fn k f).sq.en = true → field page (8 * f) 2 < (s.fn k f).sq.entries)
        ∧ (s.fn k f).cq.en = false ∧ (s.fn k f).eq.en = false) → page.length = 64 →
    Completes (.doorbellReadComplete k (.ok page)) s fun u =>
      (∀ f, f < 8 → u.fn k f = { s.fn k f with sq :=
          if (s.fn k f).sq.en then { (s.fn k f).sq with tail := field page (8 * f) 2 } else (s.fn k f).sq })
        ∧ (u.link k).outstanding = false ∧ (u.link k).dbErr = (s.link k).dbErr ∧ (u.link k).dbErrRun = 0
        ∧ u = { s with links := u.links })
  ∧ (∀ (s : State) (k : Fin 4) (r : HostRead), s.running = true → (s.link k).dbEn = true → (s.link k).outstanding = true →
      (s.link k).dbErrRun ≠ 15 → s.links.length = 4 → r ∈ [.unsupported, .aborted, .poisoned, .timeout] →
    exec (.doorbellReadComplete k r) s = .next { s with links := s.links.modify k (fun l =>
      { l with outstanding := false, readReq := none, dbErr := min (l.dbErr + 1) (2 ^ 32 - 1), dbErrRun := l.dbErrRun + 1 }) })
  ∧ (∀ (s : State) (k : Fin 4), s.running = true → (s.link k).dbEn = true → (s.link k).outstanding = true →
      (s.link k).dbErrRun = 15 → s.links.length = 4 →
    Completes (.doorbellReadComplete k .timeout) s fun u =>
      (u.link k).outstanding = false ∧ (u.link k).dbErrRun = 16 ∧ (u.link k).active = false
        ∧ u.mgt.events.getLsbD 8 = true ∧ (∀ m : Fin 4, m ≠ k → u.link m = s.link m) ∧ u.wnd = s.wnd ∧ u.mem = s.mem)
  ∧ (∀ (s : State) (k : Fin 4) (f : Fin 8) (e : Bytes), s.running = true → (s.fn k f).sq.en = true → e.length = 64 →
      (s.fn k f).fetched = [] → (s.fn k f).sq.head ≠ (s.fn k f).sq.tail → (s.fn k f).sq.tail < (s.fn k f).sq.entries →
      (s.fn k f).sq.head < (s.fn k f).sq.entries →
    exec (.submissionFetchComplete k f (.ok e)) s = .next (s.modFn k f (fun x => { x with fetched := x.fetched ++ [{ bytes := e }] })))
  ∧ (∀ (s : State) (k : Fin 4) (f : Fin 8) (b : Bytes), s.frontEntry k f = some b → byteAt b 0 = 0 →
    exec (.nop k f) s = .next (s.modFn k f (fun x =>
      { x with fetched := x.fetched.drop 1, sq := { x.sq with head := if x.sq.head + 1 = x.sq.entries then 0 else x.sq.head + 1 } })))
  ∧ (∀ (s : State) (k : Fin 4) (f : Fin 8) (b : Bytes), s.frontEntry k f = some b → 3 ≤ byteAt b 0 →
    exec (.entryInvalid k f) s = .next ((s.consumeEntry k f).eventFn k f
      { code := 1, sev := 1, source := 0x8007, payload := (s.fn k f).sq.head + byteAt b 0 * 65536 }))
  ∧ (∀ (s : State) (k : Fin 4) (f : Fin 8) (b : Bytes) (p : Nat), s.frontEntry k f = some b → s.fnPart k f = some p →
      byteAt b 0 = 1 → s.wnd.jobs.length < 1024 → s.liveJobsOf p < (s.part p).liveJobs → (s.fn k f).canReserve = true →
      s.entryFault p b = none →
    Completes (.submitJob k f) s fun u =>
      u.wnd = { s.wnd with serial := s.wnd.serial + 1, serials := s.wnd.serials ++ [s.wnd.serial], jobs := s.wnd.jobs ++ [{
          id := BitVec.ofNat 32 (field b 4 4), link := k, fn := f, part := p, irq := bitOf (byteAt b 1) 0,
          sealed := bitOf (byteAt b 1) 1, userTag := BitVec.ofNat 64 (field b 24 8),
          descAddr := BitVec.ofNat 64 (field b 8 8), descLen := field b 16 4, ringPos := s.wnd.serial, phase := .fetching }] }
        ∧ u = { s with wnd := u.wnd, links := u.links } ∧ u.links = (s.consumeReserved k f).links)
  ∧ (∀ (s : State) (k : Fin 4) (f : Fin 8) (b : Bytes) (p d : Nat), s.frontEntry k f = some b → s.fnPart k f = some p →
      byteAt b 0 = 1 → s.wnd.jobs.length < 1024 → s.liveJobsOf p < (s.part p).liveJobs → (s.fn k f).canReserve = true →
      s.entryFault p b = some d →
    exec (.submitJob k f) s = .next ((s.consumeReserved k f).complete k f (BitVec.ofNat 32 (field b 4 4)) 0 0x10A
      (BitVec.ofNat 32 d) (BitVec.ofNat 64 (field b 24 8)) (bitOf (byteAt b 1) 0)))
  ∧ (∀ (s : State) (k : Fin 4) (f : Fin 8) (b : Bytes), s.frontEntry k f = some b → byteAt b 0 = 2 →
      (s.fn k f).canReserve = true → s.wnd.jobs = [] →
    exec (.abortJob k f) s = .next ((s.consumeReserved k f).complete k f (BitVec.ofNat 32 (field b 4 4)) 1 2 0 0
      (bitOf (byteAt b 1) 0)))
  ∧ (∀ (s : State) (k : Fin 4) (f : Fin 8) (b : Bytes) (j : Job) (ser : Nat), s.frontEntry k f = some b → byteAt b 0 = 2 →
      bitOf (byteAt b 1) 0 = false → (s.fn k f).canReserve = true → s.wnd.jobs = [j] → s.wnd.serials = [ser] → j.link = k →
      j.fn = f → j.id = BitVec.ofNat 32 (field b 4 4) → j.ending = none → j.phase = .fetching → j.acks = [] → j.irq = false →
      s.links.length = 4 → f.val < (s.link k).fns.length → Mem1.wf ramD (s.link k).hostMem = true →
    Completes (.abortJob k f) s fun u =>
      u.wnd.jobs = [] ∧ u.wnd.serials = [] ∧ (u.fn k f).fetched = (s.fn k f).fetched.drop 1
        ∧ field (Mem1.read ramD (u.link k).hostMem (hostKey f ((s.fn k f).cq.base.toNat + 32 * (s.fn k f).cq.tail)) 32) 4 1 = 0
        ∧ field (Mem1.read ramD (u.link k).hostMem (hostKey f ((s.fn k f).cq.base.toNat + 32 * (s.fn k f).cq.tail)) 32) 6 2 = 1
        ∧ u.mem = s.mem ∧ u.flash = s.flash)

/-- R124, R139, R146, R162, R163: (1), (2) DESCRIPTOR_READ_COMPLETE of a descriptor that cannot be read, or is poisoned, ends its
job with FAULT_TRANSLATION or FAULT_POISON and DETAIL 1; (3) one that fails a check of R146, with FAULT_POLICY and the check's
number; (4) a good one fills the job's tables, and the job waits while its partition's task limit is exceeded. (5)
JOB_ENTER_SCOREBOARD makes a job that fits live, and a task that waits for nothing READY. -/
def Obligations.DescriptorsAndScoreboard : Prop :=
  (∀ (s : State) (ser : Nat) (j : Job), s.wnd.jobs = [j] → s.wnd.serials = [ser] → s.running = true → j.phase = .fetching →
      j.ending = none → j.acks = [] → j.irq = false → (s.fn j.link j.fn).cq.en = true → j.link < s.links.length →
      j.fn < (s.link j.link).fns.length → Mem1.wf ramD (s.link j.link).hostMem = true →
    Completes (.descriptorReadComplete ser .timeout) s fun u =>
      u.wnd.jobs = [] ∧ u.wnd.serials = []
        ∧ Mem1.read ramD (u.link j.link).hostMem
              (hostKey j.fn ((s.fn j.link j.fn).cq.base.toNat + 32 * (s.fn j.link j.fn).cq.tail)) 32
            = completionBytes j.id 0 0x100 (s.fn j.link j.fn).sq.head (s.fn j.link j.fn).cq.phase 1 j.userTag s.stamp
        ∧ HostOutside s u j.link (hostKey j.fn ((s.fn j.link j.fn).cq.base.toNat + 32 * (s.fn j.link j.fn).cq.tail)) 32
        ∧ u.mem = s.mem ∧ u.flash = s.flash)
  ∧ (∀ (s : State) (ser : Nat) (j : Job), s.wnd.jobs = [j] → s.wnd.serials = [ser] → s.running = true → j.phase = .fetching →
      j.ending = none → j.acks = [] → j.irq = false → (s.fn j.link j.fn).cq.en = true → j.link < s.links.length →
      j.fn < (s.link j.link).fns.length → Mem1.wf ramD (s.link j.link).hostMem = true →
    Completes (.descriptorReadComplete ser .poisoned) s fun u =>
      u.wnd.jobs = [] ∧ u.wnd.serials = []
        ∧ Mem1.read ramD (u.link j.link).hostMem
              (hostKey j.fn ((s.fn j.link j.fn).cq.base.toNat + 32 * (s.fn j.link j.fn).cq.tail)) 32
            = completionBytes j.id 0 0x101 (s.fn j.link j.fn).sq.head (s.fn j.link j.fn).cq.phase 1 j.userTag s.stamp
        ∧ HostOutside s u j.link (hostKey j.fn ((s.fn j.link j.fn).cq.base.toNat + 32 * (s.fn j.link j.fn).cq.tail)) 32
        ∧ u.mem = s.mem ∧ u.flash = s.flash)
  ∧ (∀ (s : State) (ser : Nat) (j : Job) (d : Nat) (b : Bytes), s.wnd.jobs = [j] → s.wnd.serials = [ser] → s.running = true → j.phase = .fetching →
      j.ending = none → j.acks = [] → j.irq = false → j.sealed = false → b.length = j.descLen →
      s.graphFault j.part b = some d → (s.fn j.link j.fn).cq.en = true → j.link < s.links.length →
      j.fn < (s.link j.link).fns.length → Mem1.wf ramD (s.link j.link).hostMem = true →
    Completes (.descriptorReadComplete ser (.ok b)) s fun u =>
      u.wnd.jobs = [] ∧ u.wnd.serials = []
        ∧ Mem1.read ramD (u.link j.link).hostMem
              (hostKey j.fn ((s.fn j.link j.fn).cq.base.toNat + 32 * (s.fn j.link j.fn).cq.tail)) 32
            = completionBytes j.id 0 0x10A (s.fn j.link j.fn).sq.head (s.fn j.link j.fn).cq.phase (BitVec.ofNat 32 d) j.userTag s.stamp
        ∧ HostOutside s u j.link (hostKey j.fn ((s.fn j.link j.fn).cq.base.toNat + 32 * (s.fn j.link j.fn).cq.tail)) 32
        ∧ u.mem = s.mem ∧ u.flash = s.flash)
  ∧ (∀ (s : State) (sk ser : Nat) (k j : Job) (b : Bytes), s.wnd.jobs = [k, j] → s.wnd.serials = [sk, ser] → sk ≠ ser →
      s.running = true → j.phase = .fetching → j.sealed = false → b.length = j.descLen → s.graphFault j.part b = none →
      (s.part j.part).trcWatch = 0 → (s.part j.part).waitSignals = [] → k.phase = .live → k.part = j.part →
      (s.part j.part).taskLimit < k.tasks.length + (parseGraph b).tasks →
    Completes (.descriptorReadComplete ser (.ok b)) s fun u =>
      u.wnd.jobs = [k, { j.fill s.time.beat.toNat b with watch := [], phase := .waiting }]
        ∧ u = { s with wnd := u.wnd, parts := u.parts })
  ∧ (∀ (s : State) (ser : Nat) (j : Job) (t : TaskSt), s.wnd.jobs = [j] → s.wnd.serials = [ser] → s.running = true →
      j.phase = .waiting → j.ending = none → j.tasks = [t] → j.edges = [] → j.preds = [] → t.st = .queued →
      t.pred = 0xFF#8 → t.notBeforeMet = true → t.cls = 0 → t.flags = 0 → s.mayTake j t ≠ [] → s.jobFits j = true →
    Completes (.jobEnterScoreboard ser) s fun u =>
      u.wnd = { s.wnd with jobs := [{ j with phase := .live, tasks := [{ t with st := .ready }] }] }
        ∧ u = { s with wnd := u.wnd })
/-- R181, R182, R190, R194: register 0 and predicate 0 read as constants and discard writes; every other register reads back what was
written, and a write changes no other register. The ALU functions compute sums, differences and logic modulo 2^64, shifts by the low
six bits of rb, the high halves of products, division with the results the rule gives for a zero divisor, minima and maxima, leading
zeros and the population count; codes above 0x15 are reserved. -/
def Obligations.RegistersAndAlu : Prop :=
  (∀ (c : Core), c.g.length = 32 → c.p.length = 8 →
    c.reg 0 = 0 ∧ c.pred 0 = true ∧ (∀ v, c.setReg 0 v = c) ∧ (∀ v, c.setPred 0 v = c)
      ∧ (∀ r v, 1 ≤ r → r < 32 → (c.setReg r v).reg r = v ∧ (∀ q, q ≠ r → (c.setReg r v).reg q = c.reg q)
          ∧ c.setReg r v = { c with g := (c.setReg r v).g })
      ∧ (∀ r v, 1 ≤ r → r < 8 → (c.setPred r v).pred r = v ∧ (∀ q, q ≠ r → (c.setPred r v).pred q = c.pred q)
          ∧ c.setPred r v = { c with p := (c.setPred r v).p }))
  ∧ (∀ a b : BitVec 64,
    aluFn 0x00 a b = some (a + b) ∧ aluFn 0x01 a b = some (a - b) ∧ aluFn 0x02 a b = some (a &&& b)
      ∧ aluFn 0x03 a b = some (a ||| b) ∧ aluFn 0x04 a b = some (a ^^^ b) ∧ aluFn 0x05 a b = some (a &&& ~~~b)
      ∧ (∃ v, aluFn 0x06 a b = some v ∧ v.toNat = a.toNat * 2 ^ (b.toNat % 64) % 2 ^ 64)
      ∧ (∃ v, aluFn 0x07 a b = some v ∧ v.toNat = a.toNat / 2 ^ (b.toNat % 64))
      ∧ (∃ v, aluFn 0x08 a b = some v ∧ v.toInt = a.toInt / 2 ^ (b.toNat % 64))
      ∧ (∃ v, aluFn 0x09 a b = some v ∧ v.toNat = a.toNat * b.toNat % 2 ^ 64)
      ∧ (∃ v, aluFn 0x0A a b = some v ∧ v.toNat = a.toNat * b.toNat / 2 ^ 64)
      ∧ (∃ v, aluFn 0x0B a b = some v ∧ v.toInt = a.toInt * b.toInt / 2 ^ 64)
      ∧ (b ≠ 0 → (∃ v, aluFn 0x0C a b = some v ∧ v.toNat = a.toNat / b.toNat)
          ∧ (∃ v, aluFn 0x0E a b = some v ∧ v.toNat = a.toNat % b.toNat)
          ∧ (∃ v, aluFn 0x0F a b = some v ∧ v.toInt = a.toInt.tmod b.toInt)
          ∧ ((a ≠ BitVec.intMin 64 ∨ b ≠ BitVec.allOnes 64) →
              ∃ v, aluFn 0x0D a b = some v ∧ v.toInt = a.toInt.tdiv b.toInt)
          ∧ (a = BitVec.intMin 64 → b = BitVec.allOnes 64 → aluFn 0x0D a b = some a ∧ aluFn 0x0F a b = some 0))
      ∧ (b = 0 → aluFn 0x0C a b = some (BitVec.allOnes 64) ∧ aluFn 0x0D a b = some (BitVec.allOnes 64)
          ∧ aluFn 0x0E a b = some a ∧ aluFn 0x0F a b = some a)
      ∧ (∃ v, aluFn 0x10 a b = some v ∧ v.toNat = min a.toNat b.toNat)
      ∧ (∃ v, aluFn 0x11 a b = some v ∧ v.toNat = max a.toNat b.toNat)
      ∧ (∃ v, aluFn 0x12 a b = some v ∧ v.toInt = min a.toInt b.toInt)
      ∧ (∃ v, aluFn 0x13 a b = some v ∧ v.toInt = max a.toInt b.toInt)
      ∧ (∃ v, aluFn 0x14 a b = some v ∧ v.toNat ≤ 64 ∧ a.toNat < 2 ^ (64 - v.toNat)
          ∧ (a ≠ 0 → 2 ^ (63 - v.toNat) ≤ a.toNat))
      ∧ (∃ v, aluFn 0x15 a b = some v ∧ v.toNat = ((List.range 64).filter (fun i => a.getLsbD i)).length)
      ∧ ∀ fn, 0x16 ≤ fn → aluFn fn a b = none)

/-- R187, R189, R190: ALU (opcode 1), ADDI, ANDI, ORI, XORI, SHI, MOVZ, MOVN and MOVK, fetched with a guard that holds, write their
result to rd and move to the next instruction. They change nothing outside their core, and nothing in it but rd, the program
counter, the instruction count and the use order of the instruction cache. -/
def Obligations.LciArithmetic : Prop :=
  (∀ (s : State) (n : Nat) (f : FmtR) (v : BitVec 64), FetchesAt s n f.guard →
      aluFn f.fn.toNat ((s.core n).reg f.ra.toNat) ((s.core n).reg f.rb.toNat) = some v →
    Completes (.alu n { f with op := 1 }) s (OnCore s n ((s.core n).fetched.setReg f.rd.toNat v).retired))
  ∧ (∀ (s : State) (n : Nat) (f : FmtI), FetchesAt s n f.guard →
    let a := (s.core n).reg f.ra.toNat
    Completes (.addi n f) s (OnCore s n ((s.core n).fetched.setReg f.rd.toNat (a + f.imm.signExtend 64)).retired)
      ∧ Completes (.andi n f) s (OnCore s n ((s.core n).fetched.setReg f.rd.toNat (a &&& f.imm.zeroExtend 64)).retired)
      ∧ Completes (.ori n f) s (OnCore s n ((s.core n).fetched.setReg f.rd.toNat (a ||| f.imm.zeroExtend 64)).retired)
      ∧ Completes (.xori n f) s (OnCore s n ((s.core n).fetched.setReg f.rd.toNat (a ^^^ f.imm.zeroExtend 64)).retired))
  ∧ (∀ (s : State) (n : Nat) (f : FmtI) (kind sh : Nat), FetchesAt s n f.guard → kind < 3 → sh < 64 →
      f.imm.toNat = 1024 * kind + sh →
    let a := (s.core n).reg f.ra.toNat
    Completes (.shi n f) s (OnCore s n ((s.core n).fetched.setReg f.rd.toNat
      (if kind = 0 then a <<< sh else if kind = 1 then a >>> sh else a.sshiftRight sh)).retired))
  ∧ (∀ (s : State) (n : Nat) (f : FmtW), FetchesAt s n f.guard → f.zero = 0 →
    Completes (.movz n f) s (OnCore s n ((s.core n).fetched.setReg f.rd.toNat (f.imm.zeroExtend 64)).retired)
      ∧ Completes (.movn n f) s (OnCore s n ((s.core n).fetched.setReg f.rd.toNat (~~~ f.imm.zeroExtend 64)).retired))
  ∧ (∀ (s : State) (n : Nat) (k : Fin 4) (f : FmtW), FetchesAt s n f.guard → f.zero = 0 →
    ∃ v : BitVec 64, Completes (.movk n k f) s (OnCore s n ((s.core n).fetched.setReg f.rd.toNat v).retired)
      ∧ ∀ i, i < 64 → v.getLsbD i = if i / 16 = k.val then f.imm.getLsbD (i % 16)
          else ((s.core n).reg f.rd.toNat).getLsbD i)

/-- R187, R192, R193, R196, R197: CMP and CMPI combine their outcome, by the tables of COND and COMB, into pd, and PLOG writes the
logical function of two predicates that PFN names (a reserved code of any of the three is an illegal instruction); PMOV moves all
eight predicates either way; an ADDI whose guard is false only moves on; BR and BL add four times the signed offset to their own
address, JR and JLR take ra, and BL and JLR write the return address. -/
def Obligations.LciPredicatesAndBranches : Prop :=
  (∀ a b : BitVec 64, condFn 0 a b = some (decide (a = b)) ∧ condFn 1 a b = some (decide (a ≠ b))
      ∧ condFn 2 a b = some (decide (a.toInt < b.toInt)) ∧ condFn 3 a b = some (decide (b.toInt ≤ a.toInt))
      ∧ condFn 4 a b = some (decide (a.toNat < b.toNat)) ∧ condFn 5 a b = some (decide (b.toNat ≤ a.toNat))
      ∧ condFn 6 a b = some (decide (a &&& b ≠ 0)) ∧ condFn 7 a b = some (decide (a &&& b = 0))
      ∧ ∀ k, 8 ≤ k → condFn k a b = none)
  ∧ (∀ p r : Bool, combFn 0 p r = some r ∧ combFn 1 p r = some (p && r) ∧ combFn 2 p r = some (p || r) ∧ combFn 3 p r = none)
  ∧ (∀ (a b : BitVec 3) (x y : Bool), plogFn 0 a b x y = some (x && y) ∧ plogFn 1 a b x y = some (x || y)
      ∧ plogFn 2 a b x y = some (x ^^ y) ∧ plogFn 3 a b x y = some (x && !y) ∧ plogFn 4 a 0 x y = some (!x)
      ∧ plogFn 5 0 0 x y = some true ∧ plogFn 6 0 0 x y = some false ∧ plogFn 7 a b x y = none
      ∧ (b ≠ 0 → plogFn 4 a b x y = none) ∧ (a ≠ 0 ∨ b ≠ 0 → plogFn 5 a b x y = none ∧ plogFn 6 a b x y = none))
  ∧ (∀ (s : State) (n : Nat) (f : FmtC), FetchesAt s n f.guard → 8 ≤ f.low.toNat / 8 % 16 ∨ f.low.toNat % 8 ≠ 0 ∨ f.comb = 3 →
    exec (.cmp n f) s = .next ((s.modCore n Core.fetched).endRun n (.exception 0x10 (s.core n).pc.toNat 0)))
  ∧ (∀ (s : State) (n : Nat) (f : FmtC), FetchesAt s n f.guard → 8 ≤ f.low.toNat / 256 ∨ f.comb = 3 →
    exec (.cmpi n f) s = .next ((s.modCore n Core.fetched).endRun n (.exception 0x10 (s.core n).pc.toNat 0)))
  ∧ (∀ (s : State) (n : Nat) (f : FmtP), FetchesAt s n f.guard → f.pfn = 7 ∨ f.zero ≠ 0 →
    exec (.plog n f) s = .next ((s.modCore n Core.fetched).endRun n (.exception 0x10 (s.core n).pc.toNat 0)))
  ∧ (∀ (s : State) (n : Nat) (f : FmtC) (r v : Bool), FetchesAt s n f.guard → f.low.toNat % 8 = 0 →
      condFn (f.low.toNat / 8 % 16) ((s.core n).reg f.ra.toNat) ((s.core n).reg (f.low.toNat / 128)) = some r →
      combFn f.comb ((s.core n).pred f.pd.toNat) r = some v →
    Completes (.cmp n f) s (OnCore s n ((s.core n).fetched.setPred f.pd.toNat v).retired))
  ∧ (∀ (s : State) (n : Nat) (f : FmtC) (r v : Bool), FetchesAt s n f.guard →
      condFn (f.low.toNat / 256) ((s.core n).reg f.ra.toNat) ((BitVec.ofNat 8 f.low.toNat).signExtend 64) = some r →
      combFn f.comb ((s.core n).pred f.pd.toNat) r = some v →
    Completes (.cmpi n f) s (OnCore s n ((s.core n).fetched.setPred f.pd.toNat v).retired))
  ∧ (∀ (s : State) (n : Nat) (f : FmtP) (v : Bool), FetchesAt s n f.guard → f.zero = 0 →
      plogFn f.pfn f.pa f.pb ((s.core n).pred f.pa.toNat) ((s.core n).pred f.pb.toNat) = some v →
    Completes (.plog n f) s (OnCore s n ((s.core n).fetched.setPred f.pd.toNat v).retired))
  ∧ (∀ (s : State) (n : Nat) (f : FmtX), FetchesAt s n f.guard → f.zero = 0 → f.sub = 0 → f.ra = 0 → f.low.toNat % 128 = 0 →
    ∃ v : BitVec 64, Completes (.pmov n f) s (OnCore s n ((s.core n).fetched.setReg (f.low.toNat / 128) v).retired)
      ∧ ∀ i, v.getLsbD i = (decide (i < 8) && (s.core n).pred i))
  ∧ (∀ (s : State) (n : Nat) (f : FmtX), FetchesAt s n f.guard → f.zero = 0 → f.sub = 1 → f.low = 0 → (s.core n).p.length = 8 →
    Completes (.pmov n f) s fun t =>
      (∀ i, i < 8 → (t.core n).pred i = (i == 0 || ((s.core n).reg f.ra.toNat).getLsbD i))
        ∧ t.core n = { (s.core n).fetched.retired with p := (t.core n).p }
        ∧ (∀ m, m ≠ n → t.core m = s.core m) ∧ t = { s with cores := t.cores })
  ∧ (∀ (s : State) (n : Nat) (f : FmtI), s.running = true → n < 192 → n < s.cores.length → (s.core n).ready →
      (s.core n).pc.toNat % 4 = 0 → (s.core n).icache.contains ((s.core n).pc.toNat % 2 ^ 48 / 256) = true →
      (∀ x ∈ (s.core n).icacheUpsets, x.1 ≠ (s.core n).pc.toNat % 2 ^ 48 / 256) → f.guard ≠ 0b1000#4 → (s.core n).guardTrue f.guard = false →
    Completes (.addi n f) s (OnCore s n { (s.core n).fetched.count 4 1 with pc := (s.core n).pc + 4 }))
  ∧ (∀ (s : State) (n : Nat) (f : FmtB), FetchesAt s n f.guard →
    Completes (.br n f) s (OnCore s n
      { (s.core n).fetched.retired with pc := (s.core n).pc + 4 * f.off.signExtend 64 }))
  ∧ (∀ (s : State) (n : Nat) (f : FmtB), FetchesAt s n f.guard →
    Completes (.bl n f) s (OnCore s n
      { ((s.core n).fetched.setReg 31 ((s.core n).pc + 4)).retired with pc := (s.core n).pc + 4 * f.off.signExtend 64 }))
  ∧ (∀ (s : State) (n : Nat) (f : FmtR), FetchesAt s n f.guard → ((s.core n).reg f.ra.toNat).toNat % 4 = 0 → f.fn = 0 →
      f.rb = 0 → f.rd = 0 →
    Completes (.jr n f) s (OnCore s n { (s.core n).fetched.retired with pc := (s.core n).reg f.ra.toNat }))
  ∧ (∀ (s : State) (n : Nat) (f : FmtR), FetchesAt s n f.guard → ((s.core n).reg f.ra.toNat).toNat % 4 = 0 → f.fn = 1 →
      f.rb = 0 →
    Completes (.jlr n f) s (OnCore s n
      { ((s.core n).fetched.setReg f.rd.toNat ((s.core n).pc + 4)).retired with pc := (s.core n).reg f.ra.toNat }))

/-- R204 to R206: LDN reads bytes of the scratchpad, zero- or sign-extended, into rd; STN writes the low bytes of rd to its own bytes
of the working region and to no others; LDV, out of cache mode and with its page in the translation buffer, reads device memory
into rd and leaves the bytes of DRAM as they are. -/
def Obligations.LciMemory : Prop :=
  (∀ (s : State) (n : Nat) (f : FmtL) (size : Nat) (sg : Bool), FetchesAt s n f.guard → szOf f.sz false = some (size, sg) →
      (s.core n).lAddr f size % size = 0 → (s.core n).fetched.mayRead ((s.core n).lAddr f size) size = true →
      (s.core n).badWords = [] → (s.core n).flipWords = [] → (s.core n).missing = [] → (s.core n).poison = [] →
    Completes (.ldn n f) s (OnCore s n (((s.core n).fetched.count 9 1).setReg f.rd.toNat
      (loadValue ((s.core n).spRead ((s.core n).lAddr f size) size) sg)).retired))
  ∧ (∀ (s : State) (n : Nat) (f : FmtL) (size : Nat), FetchesAt s n f.guard → szOf f.sz true = some (size, false) →
      (s.core n).lAddr f size % size = 0 → (s.core n).inWork ((s.core n).lAddr f size) size = true →
      Mem1.wf ramD (s.core n).sp = true →
    Completes (.stn n f) s fun t =>
      (t.core n).spRead ((s.core n).lAddr f size) size = leBytes size ((s.core n).reg f.rd.toNat).toNat
        ∧ ScratchOutside (s.core n) (t.core n) ((s.core n).lAddr f size) size
        ∧ (t.core n).pc = (s.core n).pc + 4 ∧ (t.core n).g = (s.core n).g ∧ (t.core n).p = (s.core n).p
        ∧ (∀ m, m ≠ n → t.core m = s.core m) ∧ t = { s with cores := t.cores })
  ∧ (∀ (s : State) (n : Nat) (f : FmtL) (size : Nat) (sg : Bool) (e : TlbEntry), FetchesAt s n f.guard →
      szOf f.sz false = some (size, sg) → (s.core n).lAddr f size % size = 0 → (s.core n).cacheMode = false →
      (s.core n).tlbHit (s.core n).part ((s.core n).lAddr f size % 2 ^ 48) = some e →
      s.maySend n (e.dpa + ((s.core n).lAddr f size % 2 ^ 48 - e.base)) size = true →
      (s.touch (e.dpa + ((s.core n).lAddr f size % 2 ^ 48 - e.base)) size false).dramPoisoned
        (e.dpa + ((s.core n).lAddr f size % 2 ^ 48 - e.base)) size = false →
    Completes (.ldv n f) s fun t =>
      t.core n = (((s.core n).fetched.count 13 1).setReg f.rd.toNat
          (loadValue (s.dramRead (e.dpa + ((s.core n).lAddr f size % 2 ^ 48 - e.base)) size) sg)).retired
        ∧ (∀ m, m ≠ n → t.core m = s.core m) ∧ t.mem.dram = s.mem.dram)

/-- R176, R177, R183, R198, R199: ISSUE copies a command into its queue and returns the new issue count; QWAIT, FENCE and WBEAT go
on when their condition holds and otherwise wait at their own address; CRR reads a control register, of which five are given. -/
def Obligations.LciQueues : Prop :=
  (∀ (s : State) (n : Nat) (f : FmtQ), FetchesAt s n f.guard → f.zero = 0 → f.queue.toNat < 5 →
      (f.queue.toNat = 0 → byteAt ((s.core n).spRead ((s.core n).reg f.ra.toNat).toNat (64 * (f.units.toNat + 1))) 0 ≠ 3) →
      (f.queue.toNat = 3 → n % 12 = 0) → ((s.core n).reg f.ra.toNat).toNat % 64 = 0 →
      (s.core n).inWork ((s.core n).reg f.ra.toNat).toNat (64 * (f.units.toNat + 1)) = true →
      (s.core n).badWords = [] → (s.core n).flipWords = [] → (s.core n).missing = [] → (s.core n).poison = [] →
      (((s.core n).queue f.queue.toNat).issued - ((s.core n).queue f.queue.toNat).done).toNat < 32 →
      (s.core n).queues.length = 5 → (s.core n).g.length = 32 →
      cmdUnits f.queue.toNat (byteAt ((s.core n).spRead ((s.core n).reg f.ra.toNat).toNat (64 * (f.units.toNat + 1))) 0)
        = some (f.units.toNat + 1) →
    Completes (.issue n f) s fun t =>
      let q := (s.core n).queue f.queue.toNat
      (t.core n).queue f.queue.toNat = { q with issued := q.issued + 1, cmds := q.cmds ++ [{
          bytes := (s.core n).spRead ((s.core n).reg f.ra.toNat).toNat (64 * (f.units.toNat + 1)), pc := (s.core n).pc,
          matrixIssued := ((s.core n).queue 1).issued }] }
        ∧ (f.rd ≠ 0 → (t.core n).reg f.rd.toNat = (q.issued + 1).zeroExtend 64)
        ∧ (∀ r, r ≠ f.rd.toNat → (t.core n).reg r = (s.core n).reg r)
        ∧ (∀ k, k ≠ f.queue.toNat → (t.core n).queue k = (s.core n).queue k)
        ∧ (t.core n).pc = (s.core n).pc + 4 ∧ (t.core n).sp = (s.core n).sp
        ∧ (∀ m, m ≠ n → t.core m = s.core m) ∧ t = { s with cores := t.cores })
  ∧ (∀ (s : State) (n : Nat) (f : FmtQ), FetchesAt s n f.guard → f.zero = 0 → f.units = 0 → f.rd = 0 → f.queue.toNat < 5 →
      ((s.core n).reg f.ra.toNat).toNat % 2 ^ 32 ≤ ((s.core n).queue f.queue.toNat).issued.toNat →
      ((s.core n).reg f.ra.toNat).toNat % 2 ^ 32 ≤ ((s.core n).queue f.queue.toNat).done.toNat →
    Completes (.qwait n f) s (OnCore s n (s.core n).fetched.retired))
  ∧ (∀ (s : State) (n : Nat) (f : FmtQ), FetchesAt s n f.guard → f.zero = 0 → f.units = 0 → f.rd = 0 → f.queue.toNat < 5 →
      ((s.core n).reg f.ra.toNat).toNat % 2 ^ 32 ≤ ((s.core n).queue f.queue.toNat).issued.toNat →
      ((s.core n).queue f.queue.toNat).done.toNat < ((s.core n).reg f.ra.toNat).toNat % 2 ^ 32 →
    Completes (.qwait n f) s (OnCore s n { (s.core n).fetched with
      stall := some (.qwait f.queue.toNat (((s.core n).reg f.ra.toNat).toNat % 2 ^ 32)) }))
  ∧ (∀ (s : State) (n : Nat) (f : FmtX), FetchesAt s n f.guard → f.sub = 0 → f.zero = 0 → f.ra = 0 → f.low.toNat < 32 →
      (∀ q, q < 5 → f.low.getLsbD q = true → ((s.core n).queue q).done = ((s.core n).queue q).issued) →
    Completes (.fence n f) s (OnCore s n (s.core n).fetched.retired))
  ∧ (∀ (s : State) (n q : Nat) (f : FmtX), FetchesAt s n f.guard → f.sub = 0 → f.zero = 0 → f.ra = 0 → f.low.toNat < 32 → q < 5 →
      f.low.getLsbD q = true → ((s.core n).queue q).done ≠ ((s.core n).queue q).issued →
    ∃ ts, (q, ((s.core n).queue q).issued) ∈ ts
      ∧ Completes (.fence n f) s (OnCore s n { (s.core n).fetched with stall := some (.fence ts) }))
  ∧ (∀ (s : State) (n : Nat) (f : FmtX) (v : BitVec 64), FetchesAt s n f.guard → f.sub = 0 → f.zero = 0 → f.ra = 0 →
      s.controlReg n (f.low.toNat % 128) = some v →
    Completes (.crr n f) s (OnCore s n ((s.core n).fetched.setReg (f.low.toNat / 128) v).retired))
  ∧ (∀ (s : State) (n : Nat), s.controlReg n 0 = some (BitVec.ofNat 64 (s.core n).task)
      ∧ s.controlReg n 3 = some s.stamp ∧ s.controlReg n 4 = some (BitVec.ofNat 64 s.time.beat.toNat)
      ∧ s.controlReg n 6 = some (BitVec.ofNat 64 (1024 * (s.core n).stagingKib)) ∧ s.controlReg n 9 = none)
  ∧ (∀ (s : State) (n : Nat) (f : FmtX), FetchesAt s n f.guard → f.sub = 0 → f.zero = 0 → f.low = 0 →
      ((s.core n).reg f.ra.toNat).toNat % 2 ^ 44 ≤ s.time.beat.toNat →
    Completes (.wbeat n f) s (OnCore s n (s.core n).fetched.retired))
  ∧ (∀ (s : State) (n : Nat) (f : FmtX), FetchesAt s n f.guard → f.sub = 0 → f.zero = 0 → f.low = 0 →
      s.time.beat.toNat < ((s.core n).reg f.ra.toNat).toNat % 2 ^ 44 →
    Completes (.wbeat n f) s (OnCore s n
      { (s.core n).fetched with stall := some (.beat (((s.core n).reg f.ra.toNat).toNat % 2 ^ 44)) }))

/-- R200, R202, R336: WAIT_FILLED and WAIT_FREE go on when enough slots of a configured tally are filled or free and otherwise wait;
FILL and DRAIN move one count; TALLY_READ reads both; SIGNAL_REMOTE stages 64 bytes that carry the signal. -/
def Obligations.LciTallies : Prop :=
  (∀ (s : State) (n sz : Nat) (f : FmtT), FetchesAt s n f.guard → f.reg = 0 → f.count ≠ 0 →
      ((s.core n).tally f.tally.toNat).size = some sz → f.count.toNat ≤ sz →
      f.count.toNat ≤ ((s.core n).tally f.tally.toNat).filled →
    Completes (.waitFilled n { f with top := 0 }) s (OnCore s n (s.core n).fetched.retired))
  ∧ (∀ (s : State) (n sz : Nat) (f : FmtT), FetchesAt s n f.guard → f.reg = 0 → f.count ≠ 0 →
      ((s.core n).tally f.tally.toNat).size = some sz → f.count.toNat ≤ sz →
      ((s.core n).tally f.tally.toNat).filled < f.count.toNat →
    Completes (.waitFilled n { f with top := 0 }) s (OnCore s n { (s.core n).fetched with
      stall := some (.filled f.tally.toNat f.count.toNat) }))
  ∧ (∀ (s : State) (n sz : Nat) (f : FmtT), FetchesAt s n f.guard → f.reg = 0 → f.count ≠ 0 →
      ((s.core n).tally f.tally.toNat).size = some sz → f.count.toNat ≤ sz →
      f.count.toNat + ((s.core n).tally f.tally.toNat).filled ≤ sz →
    Completes (.waitFree n f) s (OnCore s n (s.core n).fetched.retired))
  ∧ (∀ (s : State) (n sz : Nat) (f : FmtT), FetchesAt s n f.guard → f.reg = 0 → f.count ≠ 0 →
      ((s.core n).tally f.tally.toNat).size = some sz → f.count.toNat ≤ sz →
      sz < f.count.toNat + ((s.core n).tally f.tally.toNat).filled →
    Completes (.waitFree n f) s (OnCore s n { (s.core n).fetched with
      stall := some (.free f.tally.toNat f.count.toNat) }))
  ∧ (∀ (s : State) (n sz : Nat) (f : FmtT), FetchesAt s n f.guard → f.reg = 0 → f.count ≠ 0 →
      ((s.core n).tally f.tally.toNat).size = some sz → f.count.toNat ≤ sz →
      ((s.core n).tally f.tally.toNat).filled + f.count.toNat ≤ sz →
    Completes (.fill n f) s (OnCore s n ((s.core n).fetched.modTally f.tally.toNat
        (fun y => { y with fill := y.fill + BitVec.ofNat 32 f.count.toNat })).retired))
  ∧ (∀ (s : State) (n sz : Nat) (f : FmtT), FetchesAt s n f.guard → f.reg = 0 → f.count ≠ 0 →
      ((s.core n).tally f.tally.toNat).size = some sz → f.count.toNat ≤ sz →
      f.count.toNat ≤ ((s.core n).tally f.tally.toNat).filled →
    Completes (.drain n f) s (OnCore s n ((s.core n).fetched.modTally f.tally.toNat
        (fun y => { y with drain := y.drain + BitVec.ofNat 32 f.count.toNat })).retired))
  ∧ (∀ (s : State) (n : Nat) (f : FmtT), FetchesAt s n f.guard → f.count = 0 →
    Completes (.tallyRead n f) s (OnCore s n ((s.core n).fetched.setReg f.reg.toNat
      (((s.core n).tally f.tally.toNat).drain ++ ((s.core n).tally f.tally.toNat).fill)).retired))
  ∧ (∀ (s : State) (n task tally count : Nat) (d : Bool) (f : FmtT), FetchesAt s n f.guard → f.count = 0 → task < 65536 →
      task < (s.core n).taskCount → tally < 64 → 1 ≤ count → count < 256 →
      ((s.core n).reg f.reg.toNat).toNat = task + tally * 2 ^ 16 + b2n d * 2 ^ 22 + count * 2 ^ 24 →
      (s.core n).stageUsed + 64 ≤ 1024 * (s.core n).stagingKib →
    Completes (.signalRemote n f) s fun t =>
      (t.core n).effects = (s.core n).effects ++ [.tallySignal task tally d count]
        ∧ (t.core n).stageUsed = (s.core n).stageUsed + 64 ∧ (t.core n).pc = (s.core n).pc + 4
        ∧ (t.core n).g = (s.core n).g ∧ (∀ m, m ≠ n → t.core m = s.core m) ∧ t = { s with cores := t.cores })

/-- R139, R203, R207, R208: (1) TEND stops fetch and, (2) with every queue drained and nothing staged, finishes the run and makes its
task STAGED. (3) PVAL stages the run's predicate value, (4) or replaces the value staged before. (5) TRAP discards the run and ends
its job. -/
def Obligations.LciTaskEnd : Prop :=
  (∀ (s : State) (n : Nat) (f : FmtX), FetchesAt s n f.guard → f.sub = 0 → f.zero = 0 → f.ra = 0 → f.low = 0 →
      (s.core n).drained = false →
    Completes (.tend n f) s (OnCore s n { (s.core n).fetched.count 3 1 with fetchStopped := true }))
  ∧ (∀ (s : State) (n ser : Nat) (f : FmtX) (j : Job) (t : TaskSt), FetchesAt s n f.guard → f.sub = 0 → f.zero = 0 → f.ra = 0 →
      f.low = 0 → (s.core n).drained = true → (s.core n).effects = [] → (s.core n).kind = .run → s.wnd.jobs = [j] →
      s.wnd.serials = [ser] → (s.core n).job = ser → (s.core n).task = 0 → j.tasks = [t] → t.st = .running → t.pair = none →
      t.heldGrant = false → j.phase = .live → j.ending = none → s.runsOf ser 0 = [n] →
    Completes (.tend n f) s fun u =>
      (u.core n).phase = .finished ∧ u.task ser 0 = some { t with st := .staged } ∧ u.mem = s.mem ∧ u.links = s.links)
  ∧ (∀ (s : State) (n : Nat) (f : FmtX), FetchesAt s n f.guard → f.sub = 1 → f.zero = 0 → f.low = 0 →
      predValueOffset (s.core n).effects (s.core n).stageBase = none →
      (s.core n).stageUsed + 64 ≤ 1024 * (s.core n).stagingKib →
    Completes (.pval n f) s fun t =>
      (t.core n).pval = some ((s.core n).reg f.ra.toNat != 0)
        ∧ (t.core n).effects = (s.core n).effects ++ [.predValue ((s.core n).reg f.ra.toNat != 0)]
        ∧ (t.core n).stageUsed = (s.core n).stageUsed + 64 ∧ (t.core n).pc = (s.core n).pc + 4
        ∧ (t.core n).g = (s.core n).g ∧ (∀ m, m ≠ n → t.core m = s.core m) ∧ t = { s with cores := t.cores })
  ∧ (∀ (s : State) (n off : Nat) (f : FmtX), FetchesAt s n f.guard → f.sub = 1 → f.zero = 0 → f.low = 0 →
      predValueOffset (s.core n).effects (s.core n).stageBase = some off →
    Completes (.pval n f) s fun t =>
      (t.core n).pval = some ((s.core n).reg f.ra.toNat != 0)
        ∧ (t.core n).effects.length = (s.core n).effects.length
        ∧ (∀ v, .predValue v ∈ (t.core n).effects → v = ((s.core n).reg f.ra.toNat != 0))
        ∧ (t.core n).stageUsed = (s.core n).stageUsed ∧ (t.core n).pc = (s.core n).pc + 4
        ∧ (t.core n).g = (s.core n).g ∧ (∀ m, m ≠ n → t.core m = s.core m) ∧ t = { s with cores := t.cores })
  ∧ (∀ (s : State) (n ser : Nat) (f : FmtX) (j : Job) (t : TaskSt), FetchesAt s n f.guard → f.sub = 2 → f.zero = 0 → f.ra = 0 →
      f.low.toNat < 256 → (s.core n).kind = .run → s.wnd.jobs = [j] → s.wnd.serials = [ser] → (s.core n).job = ser →
      (s.core n).task = 0 → j.tasks = [t] → t.pair = none → t.heldGrant = false → j.phase = .live → j.ending = none →
      s.runsOf ser 0 = [n] →
    Completes (.trap n f) s fun u => (u.core n).phase = .idle ∧ (u.core n).epoch.state = 2 ∧ u.wnd.jobs = [] ∧ u.mem = s.mem)

/-- R186, R187, R189, R197, R200, R204, R205, R207: a reserved opcode, ALU function or TOP and the guard 1000 raise exception 0x10, a
misaligned program counter or jump target 0x11, and a store into the resident area 0x13, at the instruction's own address. -/
def Obligations.LciExceptions : Prop :=
  (∀ (s : State) (n : Nat) (f : FmtR), FetchesAt s n f.guard → 0x16 ≤ f.fn.toNat →
    exec (.alu n { f with op := 1 }) s = .next ((s.modCore n Core.fetched).endRun n (.exception 0x10 (s.core n).pc.toNat 0)))
  ∧ (∀ (s : State) (n : Nat) (op : BitVec 6) (f : FmtR), FetchesAt s n f.guard → (op = 0 ∨ op = 7 ∨ 0x1F ≤ op.toNat) →
    exec (.alu n { f with op := op }) s = .next ((s.modCore n Core.fetched).endRun n (.exception 0x10 (s.core n).pc.toNat 0)))
  ∧ (∀ (s : State) (n : Nat) (top : BitVec 3) (f : FmtT), FetchesAt s n f.guard → 6 ≤ top.toNat →
    exec (.waitFilled n { f with top := top }) s = .next ((s.modCore n Core.fetched).endRun n (.exception 0x10 (s.core n).pc.toNat 0)))
  ∧ (∀ (s : State) (n : Nat) (f : FmtI), s.running = true → n < 192 → n < s.cores.length → (s.core n).ready →
      (s.core n).pc.toNat % 4 = 0 → (s.core n).icache.contains ((s.core n).pc.toNat % 2 ^ 48 / 256) = true →
      (∀ x ∈ (s.core n).icacheUpsets, x.1 ≠ (s.core n).pc.toNat % 2 ^ 48 / 256) → f.guard = 0b1000#4 →
    exec (.addi n f) s = .next ((s.modCore n Core.fetched).endRun n (.exception 0x10 (s.core n).pc.toNat 0)))
  ∧ (∀ (s : State) (n : Nat) (f : FmtI), s.running = true → n < 192 → (s.core n).ready → (s.core n).pc.toNat % 4 ≠ 0 →
    exec (.addi n f) s = .next (s.endRun n (.exception 0x11 (s.core n).pc.toNat 0)))
  ∧ (∀ (s : State) (n : Nat) (f : FmtR), FetchesAt s n f.guard → f.fn = 0 → f.rb = 0 → f.rd = 0 →
      ((s.core n).reg f.ra.toNat).toNat % 4 ≠ 0 →
    exec (.jr n f) s = .next ((s.modCore n Core.fetched).endRun n (.exception 0x11 (s.core n).pc.toNat 0)))
  ∧ (∀ (s : State) (n : Nat) (f : FmtL) (size : Nat), FetchesAt s n f.guard → szOf f.sz true = some (size, false) →
      (s.core n).lAddr f size % size = 0 → (s.core n).lAddr f size < (s.core n).resTop →
    exec (.stn n f) s = .next ((s.modCore n Core.fetched).endRun n (.exception 0x13 (s.core n).pc.toNat 0)))
/-- R149, R151, R179, R180, R428, R430: DRAM_WRITE, SEND, ARM and BARRIER_ARRIVE at the head of OUT, ungated, with valid fields, a
readable source and room in staging, each stage one effect, with the source's bytes where they copy any, and finish; nothing but
their core changes. -/
def Obligations.OutputEngine : Prop :=
  (∀ (s : State) (n : Nat) (x : QCmd) (rest : List QCmd) (pieces : List (Nat × Nat)), HeadsQueue s n 4 x rest →
      byteAt x.bytes 0 = 1 → dramWriteOk x.bytes = true → byteAt x.bytes 20 < 64 →
      (s.core n).mayRead (field x.bytes 16 4) (field x.bytes 4 4) = true →
      s.xlateRange n (s.core n).part (field x.bytes 8 8) (field x.bytes 4 4) true = (s, .inl pieces) →
      (s.core n).stageUsed + stageSize (field x.bytes 4 4) ≤ 1024 * (s.core n).stagingKib →
    Completes (.dramWrite n) s fun t =>
      (t.core n).effects = (s.core n).effects
          ++ [.dramWrite (field x.bytes 8 8) pieces ((s.core n).spRead (field x.bytes 16 4) (field x.bytes 4 4))]
        ∧ (t.core n).stageUsed = (s.core n).stageUsed + stageSize (field x.bytes 4 4)
        ∧ HeadFinished (s.core n) (t.core n) 4 rest ∧ OnlyCore s n t)
  ∧ (∀ (s : State) (n : Nat) (x : QCmd) (rest : List QCmd), HeadsQueue s n 4 x rest →
      byteAt x.bytes 0 = 2 → byteAt x.bytes 1 = 1 → sendOk x.bytes = true → byteAt x.bytes 20 < 64 →
      (s.core n).mayRead (field x.bytes 16 4) (field x.bytes 4 4) = true →
      (s.core n).stageUsed + stageSize (field x.bytes 4 4) ≤ 1024 * (s.core n).stagingKib →
    Completes (.send n) s fun t =>
      (t.core n).effects = (s.core n).effects
          ++ [.linkSend (field x.bytes 2 2) (field x.bytes 21 2) (field x.bytes 8 8) (linkSignalOf n x.bytes)
                ((s.core n).spRead (field x.bytes 16 4) (field x.bytes 4 4)) x.pc.toNat]
        ∧ (t.core n).stageUsed = (s.core n).stageUsed + stageSize (field x.bytes 4 4)
        ∧ HeadFinished (s.core n) (t.core n) 4 rest ∧ OnlyCore s n t)
  ∧ (∀ (s : State) (n : Nat) (x : QCmd) (rest : List QCmd), HeadsQueue s n 4 x rest →
      byteAt x.bytes 0 = 2 → byteAt x.bytes 1 = 2 → armOk x.bytes = true → byteAt x.bytes 20 < 64 →
      (s.core n).stageUsed + 64 ≤ 1024 * (s.core n).stagingKib →
    Completes (.arm n) s fun t =>
      (t.core n).effects = (s.core n).effects ++ [.arm (field x.bytes 2 2) (field x.bytes 8 8) x.pc.toNat]
        ∧ (t.core n).stageUsed = (s.core n).stageUsed + 64 ∧ HeadFinished (s.core n) (t.core n) 4 rest ∧ OnlyCore s n t)
  ∧ (∀ (s : State) (n : Nat) (x : QCmd) (rest : List QCmd), HeadsQueue s n 4 x rest →
      byteAt x.bytes 0 = 2 → byteAt x.bytes 1 = 3 → barrierOk x.bytes = true → byteAt x.bytes 20 < 64 →
      (s.core n).stageUsed + 64 ≤ 1024 * (s.core n).stagingKib →
    Completes (.barrierArrive n) s fun t =>
      (t.core n).effects = (s.core n).effects ++ [.barrierArrive (field x.bytes 2 2) (linkSignalOf n x.bytes) x.pc.toNat]
        ∧ (t.core n).stageUsed = (s.core n).stageUsed + 64 ∧ HeadFinished (s.core n) (t.core n) 4 rest ∧ OnlyCore s n t)

/-- R207, R208, R316, R318: (1), (2) a reserved code at the head of OUT or next in MATRIX, and (3) a DR_STREAM with fields out of
range, raise COMMAND_INVALID against their ISSUE. (4) An ARM that does not fit in staging ends the run with the staging cause. (5)
Two wide accesses of the vector unit's issue slot, by requesters 2 and 3, to one quad, of which one writes or which read different
windows, end the run with the bank-conflict cause and its payload. -/
def Obligations.EngineExceptions : Prop :=
  (∀ (s : State) (n : Nat) (x : QCmd) (rest : List QCmd), HeadsQueue s n 4 x rest → 3 ≤ byteAt x.bytes 0 →
    exec (.dramWrite n) s = .next (s.endRun n (.exception 0x15 x.pc.toNat 0)))
  ∧ (∀ (s : State) (n : Nat) (x : QCmd) (rest : List QCmd), HeadsQueue s n 1 x rest → 4 ≤ byteAt x.bytes 0 →
      x.finished = false → x.taken = false → ((s.core n).queue 2).cmds = [] →
    exec (.mxDrain n none) s = .next (s.endRun n (.exception 0x15 x.pc.toNat 0)))
  ∧ (∀ (s : State) (n : Nat) (x : QCmd) (rest : List QCmd), HeadsQueue s n 0 x rest → byteAt x.bytes 0 = 1 →
      (s.core n).streams.length < 8 → (s.core n).streamOk x.bytes = false →
    exec (.drStream n) s = .next (s.endRun n (.exception 0x15 x.pc.toNat 0)))
  ∧ (∀ (s : State) (n : Nat) (x : QCmd) (rest : List QCmd), HeadsQueue s n 4 x rest → byteAt x.bytes 0 = 2 →
      byteAt x.bytes 1 = 2 → armOk x.bytes = true → byteAt x.bytes 20 < 64 →
      1024 * (s.core n).stagingKib < (s.core n).stageUsed + 64 →
    exec (.arm n) s = .next (s.endRun n .staging))
  ∧ (∀ (s : State) (n : Nat) (x : QCmd) (rest : List QCmd) (k : Clash), HeadsQueue s n 2 x rest → byteAt x.bytes 0 = 1 →
      (s.core n).stealQuad = none → k.third = none → k.hiCode = 2 → k.loCode = 3 → k.hiOffset % 32 = 0 → k.loOffset % 32 = 0 →
      k.hiOffset < 0x600000 → k.hiOffset / 2 ^ 20 = k.loOffset / 2 ^ 20 →
      (k.hiRead = true ∧ k.loRead = true → k.hiOffset ≠ k.loOffset) →
    exec (.vxMap n (some k)) s = .next ((s.modCore n (fun c => { c with stealQuad := none })).endRun n
      (.bankConflict (k.hiOffset / 2 ^ 20) (1 + 2 * 16 + 3 * 256 + k.hiOffset % 2 ^ 23 * 2 ^ 12 + k.loOffset % 2 ^ 23 * 2 ^ 35))))

/-- R321, R323, R324, R326, R329, R335: a valid DR_STREAM at the head of DRIFT becomes an active stream; DR_TALLY gives its
unconfigured tallies their sizes and finishes; DR_MODE, which took effect at its ISSUE, only finishes. -/
def Obligations.DriftCommands : Prop :=
  (∀ (s : State) (n : Nat) (x : QCmd) (rest : List QCmd), HeadsQueue s n 0 x rest → byteAt x.bytes 0 = 1 →
      (s.core n).streams.length < 8 → (s.core n).streamOk x.bytes = true →
    Completes (.drStream n) s fun t =>
      (t.core n).streams = (s.core n).streams ++ [{ cmd := x, serial := ((s.core n).queue 0).headSerial }]
        ∧ (t.core n).queue 0 = { (s.core n).queue 0 with cmds := rest } ∧ (t.core n).sp = (s.core n).sp ∧ OnlyCore s n t)
  ∧ (∀ (s : State) (n : Nat) (x : QCmd) (rest : List QCmd), HeadsQueue s n 0 x rest → byteAt x.bytes 0 = 2 →
      (s.core n).streams.length < 8 → tallyCmdOk x.bytes = true → (s.core n).tallies.length = 64 →
      (s.core n).driftDone = [] → ((s.core n).queue 0).headSerial = ((s.core n).queue 0).done + 1 →
      (∀ i, i < byteAt x.bytes 2 → ((s.core n).tally (byteAt x.bytes 1 + i)).size = none
        ∧ ((s.core n).tally (byteAt x.bytes 1 + i)).filled ≤ byteAt x.bytes (16 + i)) →
    Completes (.drTally n) s fun t =>
      (∀ i, i < byteAt x.bytes 2 → (t.core n).tally (byteAt x.bytes 1 + i)
          = { (s.core n).tally (byteAt x.bytes 1 + i) with size := some (byteAt x.bytes (16 + i)) })
        ∧ (∀ i, i < byteAt x.bytes 1 ∨ byteAt x.bytes 1 + byteAt x.bytes 2 ≤ i → (t.core n).tally i = (s.core n).tally i)
        ∧ HeadFinished (s.core n) (t.core n) 0 rest ∧ OnlyCore s n t)
  ∧ (∀ (s : State) (n : Nat) (x : QCmd) (rest : List QCmd), HeadsQueue s n 0 x rest → byteAt x.bytes 0 = 3 →
      (s.core n).streams.length < 8 → drModeOk x.bytes = true → (s.core n).driftDone = [] →
      ((s.core n).queue 0).headSerial = ((s.core n).queue 0).done + 1 →
    Completes (.drMode n) s fun t =>
      HeadFinished (s.core n) (t.core n) 0 rest ∧ (t.core n).cacheMode = (s.core n).cacheMode ∧ OnlyCore s n t)

/-- R315, R322, R325, R328 to R330, R333: (1) DRIFT_READ_COMPLETE of the stream whose turn it is, without a gate and with its page in
the translation buffer, puts DRAM's bytes at their place in the ring and changes no other byte of the scratchpad or of DRAM. (2)
FETCH_CREDIT adds 64 times RATE up to the burst once 16 ticks have passed, (3) and not before. (4) CACHE_FILL_COMPLETE puts the
line's 256 bytes into its way. (5) NARROW_STEAL takes the next issue slot of its quad. -/
def Obligations.DriftData : Prop :=
  (∀ (s : State) (n k : Nat) (x : Stream) (e : TlbEntry), s.running = true → n < s.cores.length →
      (s.core n).phase = .executing → (s.core n).streams[k]? = some x → s.creditOk n = true → s.streamTurn n = some k →
      let d := parseStream x.cmd.bytes
      let va := (d.addr x.pos).toNat
      let size := d.readSize x.pos
      gateOf d.tally = false → x.pos + size < d.total → (s.core n).tlbHit (s.core n).part (va % 2 ^ 48) = some e →
      (s.touch (e.dpa + (va % 2 ^ 48 - e.base)) size false).dramPoisoned (e.dpa + (va % 2 ^ 48 - e.base)) size = false →
      Mem1.wf ramD (s.core n).sp = true →
    Completes (.driftReadComplete n k none) s fun t =>
      (t.core n).spRead (d.place x.pos) size = s.dramRead (e.dpa + (va % 2 ^ 48 - e.base)) size
        ∧ ScratchOutside (s.core n) (t.core n) (d.place x.pos) size
        ∧ (t.core n).streams[k]? = some { x with
            pos := x.pos + size,
            filled := if (x.pos + size) % d.slotBytes = 0 then x.filled + 1 else x.filled }
        ∧ (t.core n).credit = (s.core n).credit - size ∧ (∀ m, m ≠ n → t.core m = s.core m) ∧ t.mem.dram = s.mem.dram)
  ∧ (∀ (s : State) (n : Nat), s.running = true → (s.core n).phase = .executing → (s.core n).creditAt + 16 ≤ s.time.ticks →
    Completes (.fetchCredit n) s fun t =>
      let f := (s.part (s.core n).part).fetch.toNat
      let most := 1024 * max 1 (f / 65536 % 65536)
      t.core n = { s.core n with
                     creditAt := (s.core n).creditAt + 16,
                     credit := min ((s.core n).credit + (64 * (f % 65536) : Nat)) (most : Int) }
        ∧ OnlyCore s n t)
  ∧ (∀ (s : State) (n : Nat), s.time.ticks < (s.core n).creditAt + 16 → exec (.fetchCredit n) s = .next s)
  ∧ (∀ (s : State) (n line dpa : Nat) (va : BitVec 64), s.running = true → n < s.cores.length →
      (s.core n).phase = .executing → (s.core n).stall = some (.cacheFill line dpa) → va.toNat / 256 = line →
      (s.core n).cacheHit line = none → s.maySend n dpa 256 = true →
      (s.touch dpa 256 false).dramPoisoned dpa 256 = false → Mem1.wf ramD (s.core n).sp = true →
    Completes (.cacheFillComplete n va) s fun t =>
      let set := line % (s.core n).cacheSets
      let way := (s.core n).fillWay set
      (t.core n).cacheHit line = some { line := line, set := set, way := way }
        ∧ (t.core n).spRead (0x400000 + set * 1024 + way * 256) 256 = s.dramRead dpa 256
        ∧ ScratchOutside (s.core n) (t.core n) (0x400000 + set * 1024 + way * 256) 256
        ∧ (∀ m, m ≠ n → t.core m = s.core m) ∧ t.mem.dram = s.mem.dram)
  ∧ (∀ (s : State) (n : Nat) (quad : Fin 6), s.running = true → n < 192 → (s.core n).phase = .executing →
    Completes (.narrowSteal n quad) s (OnCore s n { s.core n with stealQuad := some quad.val }))

/-- R215, R222, R227 to R232: alone in MATRIX, with valid fields and no gate, MX_LOAD loads its slot from the image and leaves the
other; MX_STREAM of one row without SINK writes, line by line, the dot products of the tile with the row (plus the old line when it
adds) and no other accumulator line; MX_DRAIN stages its lines as one remote accumulate, and keeps or clears them as its flag says.
Each finishes and changes nothing but its core. -/
def Obligations.MatrixArray : Prop :=
  (∀ (s : State) (n : Nat) (x : QCmd), HeadsQueue s n 1 x [] → x.finished = false → ((s.core n).queue 2).cmds = [] →
      byteAt x.bytes 0 = 1 → (s.core n).loadOk x.bytes = true → byteAt x.bytes 16 < 64 →
    Completes (.mxLoad n none) s fun t =>
      (t.core n).tileSlot (loadSlot x.bytes) = (s.core n).loadedSlot x.bytes
        ∧ (∀ k, k < 2 → k ≠ loadSlot x.bytes → (t.core n).tileSlot k = (s.core n).tileSlot k)
        ∧ (t.core n).sp = (s.core n).sp ∧ (t.core n).acc = (s.core n).acc
        ∧ HeadFinished (s.core n) (t.core n) 1 [] ∧ OnlyCore s n t)
  ∧ (∀ (s : State) (n : Nat) (x : QCmd) (m : StreamOp), HeadsQueue s n 1 x [] → x.finished = false →
      ((s.core n).queue 2).cmds = [] → byteAt x.bytes 0 = 2 → (s.core n).streamOp x.bytes = some m →
      (s.core n).streamValid x.bytes m = true → gateOf m.inTally = false → gateOf m.outTally = false → m.rows = 1 →
      m.sink = false → m.status = 0xFFFFFFFF → (s.core n).pass = {} →
    Completes (.mxStream n none) s fun t =>
      let xs := m.elements ((s.core n).spRead m.inData m.rowBytes) ((s.core n).spRead m.inScale m.scaleBytes)
      let tile := ((s.core n).tileSlot (streamSlot x.bytes)).values
      (∀ l, l < m.lpr → (t.core n).accLine (m.accBase + l)
          = (m.rowLine tile xs ((s.core n).accLine (m.accBase + l)) l).map (·.1))
        ∧ (∀ l, l < m.accBase ∨ m.accBase + m.lpr ≤ l → (t.core n).accLine l = (s.core n).accLine l)
        ∧ (t.core n).sp = (s.core n).sp ∧ HeadFinished (s.core n) (t.core n) 1 [] ∧ OnlyCore s n t)
  ∧ (∀ (s : State) (n : Nat) (x : QCmd), HeadsQueue s n 1 x [] → x.finished = false → ((s.core n).queue 2).cmds = [] →
      byteAt x.bytes 0 = 3 → drainOk x.bytes = true → (∀ l, ((s.core n).accLine l).length = 64) →
      (s.core n).stageUsed + stageSize (256 * field x.bytes 4 2) ≤ 1024 * (s.core n).stagingKib →
    Completes (.mxDrain n none) s fun t =>
      let lines := (List.range (field x.bytes 4 2)).map (fun k => (s.core n).accLine (field x.bytes 2 2 + k))
      (t.core n).effects = (s.core n).effects ++ [.remoteAcc (sliceBytes x.bytes 8 56)
            (drainStatus (sliceBytes x.bytes 8 56) lines) lines x.pc.toNat]
        ∧ (∀ l, (t.core n).accLine l =
            if byteAt x.bytes 1 = 1 ∧ field x.bytes 2 2 ≤ l ∧ l < field x.bytes 2 2 + field x.bytes 4 2 then List.replicate 64 0
            else (s.core n).accLine l)
        ∧ HeadFinished (s.core n) (t.core n) 1 [] ∧ OnlyCore s n t)
/-- R241 to R244, R248, R277: (1) to (5) in binary32, bf16, e4m3, e5m2 and e2m1 the value of a finite code rounds back to that code
and saturates nothing. (6) The larger and the smaller of two binary32 values do not depend on the order of the operands. (7) A NaN
gives the NaN that the LX-960 writes. -/
def Obligations.FloatFormats : Prop :=
  (∀ code, code < 2 ^ 32 → (∃ n m e, Fmt.f32.val code = .fin n m e) →
      (Fmt.f32.round (Fmt.f32.val code)).1 = code ∧ (Fmt.f32.round (Fmt.f32.val code)).2.sat = false)
  ∧ (∀ code, code < 2 ^ 16 → (∃ n m e, Fmt.bf16.val code = .fin n m e) →
      (Fmt.bf16.round (Fmt.bf16.val code)).1 = code ∧ (Fmt.bf16.round (Fmt.bf16.val code)).2.sat = false)
  ∧ (∀ code, code < 256 → (∃ n m e, Fmt.e4m3.val code = .fin n m e) →
      (Fmt.e4m3.round (Fmt.e4m3.val code)).1 = code ∧ (Fmt.e4m3.round (Fmt.e4m3.val code)).2.sat = false)
  ∧ (∀ code, code < 256 → (∃ n m e, Fmt.e5m2.val code = .fin n m e) →
      (Fmt.e5m2.round (Fmt.e5m2.val code)).1 = code ∧ (Fmt.e5m2.round (Fmt.e5m2.val code)).2.sat = false)
  ∧ (∀ code, code < 16 → (Fmt.e2m1.round (Fmt.e2m1.val code)).1 = code ∧ (Fmt.e2m1.round (Fmt.e2m1.val code)).2.sat = false)
  ∧ (∀ x y : F32, fmax x y = fmax y x ∧ fmin x y = fmin y x)
  ∧ (∀ x y : F32, (fval x).isNan = true → fmax x y = 0x7FC00000#32 ∧ fmin x y = 0x7FC00000#32)

/-- R274, R277, R279, R281, R282: (1) to (6) a vector command at the head of VECTOR with valid fields and open gates finishes; on
its core only the scratchpad, tallies, queues and counts change, and nothing outside it. (7) to (10) One row in binary32: the
values of VX_MAP (functions of one operand), VX_REDUCE, VX_SOFTMAX and VX_CONVERT into bf16, and no other byte of the scratchpad
changes. -/
def Obligations.VectorCommands : Prop :=
  (∀ (s : State) (n : Nat) (x : QCmd) (rest : List QCmd), HeadsQueue s n 2 x rest → byteAt x.bytes 0 = 1 →
      (s.core n).mapOk x.bytes = true → (s.core n).gatesOpen (byteAt x.bytes 10) (byteAt x.bytes 11) 4 = true →
    Completes (.vxMap n none) s (VectorDone s n 2 rest))
  ∧ (∀ (s : State) (n : Nat) (x : QCmd) (rest : List QCmd), HeadsQueue s n 2 x rest → byteAt x.bytes 0 = 2 →
      (s.core n).reduceOk x.bytes = true → (s.core n).gatesOpen (byteAt x.bytes 10) (byteAt x.bytes 11) 4 = true →
    Completes (.vxReduce n none) s (VectorDone s n 2 rest))
  ∧ (∀ (s : State) (n : Nat) (x : QCmd) (rest : List QCmd), HeadsQueue s n 2 x rest → byteAt x.bytes 0 = 3 →
      (s.core n).normOk x.bytes = true → (s.core n).gatesOpen (byteAt x.bytes 10) (byteAt x.bytes 11) 4 = true →
    Completes (.vxNorm n none) s (VectorDone s n 2 rest))
  ∧ (∀ (s : State) (n : Nat) (x : QCmd) (rest : List QCmd), HeadsQueue s n 2 x rest → byteAt x.bytes 0 = 4 →
      (s.core n).softmaxOk x.bytes = true → (s.core n).gatesOpen (byteAt x.bytes 10) (byteAt x.bytes 11) 4 = true →
    Completes (.vxSoftmax n none) s (VectorDone s n 2 rest))
  ∧ (∀ (s : State) (n : Nat) (x : QCmd) (rest : List QCmd), HeadsQueue s n 2 x rest → byteAt x.bytes 0 = 5 →
      (s.core n).convertOk x.bytes = true → (s.core n).gatesOpen (byteAt x.bytes 10) (byteAt x.bytes 11) 4 = true →
    Completes (.vxConvert n none) s (VectorDone s n 2 rest))
  ∧ (∀ (s : State) (n : Nat) (x : QCmd) (rest : List QCmd), HeadsQueue s n 2 x rest → byteAt x.bytes 0 = 9 →
      (s.core n).kvPackOk x.bytes = true → (s.core n).gatesOpen (byteAt x.bytes 24) (byteAt x.bytes 25) 4 = true →
    Completes (.vxKvPack n none) s (VectorDone s n 2 rest))
  ∧ (∀ (s : State) (n : Nat) (x : QCmd) (rest : List QCmd), HeadsQueue s n 2 x rest → byteAt x.bytes 0 = 1 →
      let y := vxCmd x.bytes
      (s.core n).mapOk x.bytes = true → (s.core n).gatesOpen y.inTally y.outTally 4 = true → y.rows = 1 → y.fmtA = 6 →
      y.fmtOut = 6 → mapArity y.fn = 1 → y.status = 0xFFFFFFFF → Mem1.wf ramD (s.core n).sp = true →
    Completes (.vxMap n none) s fun t =>
      (t.core n).spRead y.out (4 * y.cols)
          = ((s.core n).binaryRow y.a y.cols).flatMap (fun v => leBytes 4 (convert .binary32 0 (mapFn y.fn v 0 0).1).1)
        ∧ ScratchOutside (s.core n) (t.core n) y.out (4 * y.cols))
  ∧ (∀ (s : State) (n : Nat) (x : QCmd) (rest : List QCmd) (op : RedOp), HeadsQueue s n 2 x rest → byteAt x.bytes 0 = 2 →
      let y := vxCmd x.bytes
      (s.core n).reduceOk x.bytes = true → (s.core n).gatesOpen y.inTally y.outTally 4 = true → y.rows = 1 → y.fmtA = 6 →
      redOp y.fn = some op → y.status = 0xFFFFFFFF → Mem1.wf ramD (s.core n).sp = true →
    Completes (.vxReduce n none) s fun t =>
      (t.core n).spRead y.aux 4 = leBytes 4 (laneReduce op ((s.core n).binaryRow y.a y.cols)).1.toNat
        ∧ ScratchOutside (s.core n) (t.core n) y.aux 4)
  ∧ (∀ (s : State) (n : Nat) (x : QCmd) (rest : List QCmd), HeadsQueue s n 2 x rest → byteAt x.bytes 0 = 4 →
      let y := vxCmd x.bytes
      (s.core n).softmaxOk x.bytes = true → (s.core n).gatesOpen y.inTally y.outTally 4 = true → y.rows = 1 → y.fmtA = 6 →
      y.fmtOut = 6 → y.aux = 0xFFFFFFFF → y.status = 0xFFFFFFFF → Mem1.wf ramD (s.core n).sp = true →
    Completes (.vxSoftmax n none) s fun t =>
      (t.core n).spRead y.out (4 * y.cols)
          = (softmaxRow (y.fn == 1) y.imm ((s.core n).binaryRow y.a y.cols)).1.flatMap
              (fun v => leBytes 4 (convert .binary32 0 v.1).1)
        ∧ ScratchOutside (s.core n) (t.core n) y.out (4 * y.cols))
  ∧ (∀ (s : State) (n : Nat) (x : QCmd) (rest : List QCmd), HeadsQueue s n 2 x rest → byteAt x.bytes 0 = 5 →
      let y := vxCmd x.bytes
      (s.core n).convertOk x.bytes = true → (s.core n).gatesOpen y.inTally y.outTally 4 = true → y.rows = 1 → y.fmtA = 6 →
      y.fmtOut = 5 → y.aux = 0xFFFFFFFF → y.status = 0xFFFFFFFF → Mem1.wf ramD (s.core n).sp = true →
    Completes (.vxConvert n none) s fun t =>
      (t.core n).spRead y.out (2 * y.cols)
          = ((s.core n).binaryRow y.a y.cols).flatMap (fun v => leBytes 2 (convert .bf16 0 v).1)
        ∧ ScratchOutside (s.core n) (t.core n) y.out (2 * y.cols))

/-- R265, R266, R283: (1) VX_TRACK with a valid record and open gates finishes: it writes the record that one step of the scale
tracker gives, 64 bytes at its destination, and nothing else but tallies, queues and counts changes. (2) A non-finite observation
leaves scale, count, head and history, counts the step and sets result 2. (3) A saturating finite one raises the scale by 1 up to
254, empties the history and sets result 1. -/
def Obligations.ScaleTracker : Prop :=
  (∀ (s : State) (n : Nat) (x : QCmd) (rest : List QCmd), HeadsQueue s n 2 x rest → byteAt x.bytes 0 = 6 →
      (s.core n).trackOk x.bytes = true → (s.core n).gatesOpen (byteAt x.bytes 16) (byteAt x.bytes 17) 4 = true →
      trackerOk ((s.core n).spRead (field x.bytes 4 4) 64) = true → Mem1.wf ramD (s.core n).sp = true →
    Completes (.vxTrack n none) s fun t =>
      (t.core n).spRead (field x.bytes 12 4) 64
          = trackerStep ((s.core n).spRead (field x.bytes 4 4) 64) ((s.core n).spRead (field x.bytes 8 4) 8)
        ∧ ScratchOutside (s.core n) (t.core n) (field x.bytes 12 4) 64 ∧ VectorDone s n 2 rest t)
  ∧ (∀ r obs : Bytes, r.length = 64 → obs.length = 8 →
      (fval (BitVec.ofNat 32 (field obs 0 4))).isNan = true ∨ (fval (BitVec.ofNat 32 (field obs 0 4))).isInf = true →
      byteAt (trackerStep r obs) 3 = byteAt r 3 ∧ byteAt (trackerStep r obs) 4 = byteAt r 4
        ∧ byteAt (trackerStep r obs) 5 = byteAt r 5 ∧ byteAt (trackerStep r obs) 6 = 2
        ∧ field (trackerStep r obs) 8 8 = (field r 8 8 + 1) % 2 ^ 64 ∧ field (trackerStep r obs) 16 32 = field r 16 32)
  ∧ (∀ (r obs : Bytes) (neg : Bool) (m : Nat) (e : Int), r.length = 64 → obs.length = 8 →
      fval (BitVec.ofNat 32 (field obs 0 4)) = .fin neg m e → field obs 4 4 ≠ 0 →
      byteAt (trackerStep r obs) 3 = min (byteAt r 3 + 1) 254 ∧ byteAt (trackerStep r obs) 4 = 0
        ∧ byteAt (trackerStep r obs) 5 = 0 ∧ byteAt (trackerStep r obs) 6 = 1
        ∧ ∀ i, i < 16 → field (trackerStep r obs) (16 + 2 * i) 2 = 0x8000)

/-- R287, R291, R293, R295, R303 to R305: (1), (2) a fused attention command that its checks, gates, MATRIX and block map let go
finishes with both tile slots empty; only the scratchpad, tallies, queues and counts of its core change beside. (3) Forward
attention of one query row writes its normalised sums. (4) AT_ATTEND of a sequence without tokens takes the tree and holds +0
outputs; (5) a handle or root that fails ends the run instead. (6) Once the second check of the generations passes, the held
results are written and the command finishes; (7) where it fails, the run ends and nothing is written. -/
def Obligations.AttentionCommands : Prop :=
  (∀ (s : State) (n : Nat) (x : QCmd) (rest : List QCmd), HeadsQueue s n 2 x rest → byteAt x.bytes 0 = 7 →
      let a := attnCmd x.bytes
      let map := if a.mask % 2 = 1 then (s.core n).spRead a.map a.mapBytes else []
      (s.core n).attnOk x.bytes = true → (s.core n).matrixReached x = true →
      (s.core n).gatesOpen a.inTally a.outTally 4 = true →
      (∀ i, i < a.queryTiles * a.keyTiles → maskCode a.mask map i ≠ 3 ∧ (maskCode a.mask map i = 2 →
        (s.core n).mayRead (a.bitmap + 2048 * partialIndex map i) 2048 = true)) →
    Completes (.vxAttnFwd n none) s fun t =>
      t.core n = { s.core n with
          sp := (t.core n).sp, tallies := (t.core n).tallies, queues := (t.core n).queues, epoch := (t.core n).epoch,
          numStore := (t.core n).numStore, slot0 := {}, slot1 := {} }
        ∧ HeadFinished (s.core n) (t.core n) 2 rest ∧ (∀ m, m ≠ n → t.core m = s.core m)
        ∧ t = { s with cores := t.cores, fresh := s.fresh + 2 })
  ∧ (∀ (s : State) (n : Nat) (x : QCmd) (rest : List QCmd), HeadsQueue s n 2 x rest → byteAt x.bytes 0 = 8 →
      let a := attnCmd x.bytes
      let map := if a.mask % 2 = 1 then (s.core n).spRead a.map a.mapBytes else []
      (s.core n).attnOk x.bytes = true → (s.core n).matrixReached x = true →
      (s.core n).gatesOpen a.inTally a.outTally 4 = true →
      (∀ i, i < a.queryTiles * a.keyTiles → maskCode a.mask map i ≠ 3 ∧ (maskCode a.mask map i = 2 →
        (s.core n).mayRead (a.bitmap + 2048 * partialIndex map i) 2048 = true)) →
    Completes (.vxAttnBwd n none) s fun t =>
      t.core n = { s.core n with
          sp := (t.core n).sp, tallies := (t.core n).tallies, queues := (t.core n).queues, epoch := (t.core n).epoch,
          numStore := (t.core n).numStore, slot0 := {}, slot1 := {} }
        ∧ HeadFinished (s.core n) (t.core n) 2 rest ∧ (∀ m, m ≠ n → t.core m = s.core m)
        ∧ t = { s with cores := t.cores, fresh := s.fresh + 2 })
  ∧ (∀ (s : State) (n : Nat) (x : QCmd) (rest : List QCmd), HeadsQueue s n 2 x rest → byteAt x.bytes 0 = 7 →
      let a := attnCmd x.bytes
      (s.core n).attnOk x.bytes = true → (s.core n).matrixReached x = true →
      (s.core n).gatesOpen a.inTally a.outTally 4 = true → a.mask = 0 → a.qRows = 1 → a.outFmt = 6 → a.lseOut = false →
      a.status = 0xFFFFFFFF → Mem1.wf ramD (s.core n).sp = true →
    Completes (.vxAttnFwd n none) s fun t =>
      (t.core n).spRead a.o (4 * a.dv)
        = (((s.core n).attnRow a ((s.core n).attnData a) 0).result a.dv).1.flatMap
            (fun v => leBytes 4 (convert .binary32 0 v.1).1))
  ∧ (∀ (s s1 : State) (n : Nat) (x : QCmd) (rest : List QCmd) (q : Sequence), HeadsQueue s n 3 x rest →
      let a := attendCmd x.bytes
      byteAt x.bytes 0 = 1 → (s.core n).attend = none → (s.core n).attendOk x.bytes = true →
      (s.core n).gatesOpen a.inTally a.outTally 5 = true → s.attendRoot n a = (s1, .inl q) → q.tokens = 0 →
      a.mask % 2 = 0 → a.lseOut = false →
    Completes (.atAttend n none) s fun t =>
      let h := (t.core n).attend.getD {}
      t.core n = { s1.core n with epoch := (t.core n).epoch, attend := some h }
        ∧ h.writes = (List.range a.rows).map (fun r => (a.out + a.oBytes * r, List.replicate a.oBytes (0 : Byte)))
        ∧ h.root = q.root ∧ h.gen = q.gen ∧ h.blocks = [] ∧ (∀ m, m ≠ n → t.core m = s1.core m)
        ∧ t = { s1 with cores := t.cores })
  ∧ (∀ (s s1 : State) (n : Nat) (x : QCmd) (rest : List QCmd) (f : Cause), HeadsQueue s n 3 x rest →
      let a := attendCmd x.bytes
      byteAt x.bytes 0 = 1 → (s.core n).attend = none → (s.core n).attendOk x.bytes = true →
      (s.core n).gatesOpen a.inTally a.outTally 5 = true → s.attendRoot n a = (s1, .inr f) →
    exec (.atAttend n none) s = .next (s1.endRun n f))
  ∧ (∀ (s s1 : State) (n : Nat) (x : QCmd) (rest : List QCmd) (h : AttendHeld), HeadsQueue s n 3 x rest →
      let a := attendCmd x.bytes
      byteAt x.bytes 0 = 1 → (s.core n).attend = some h → s.attendRecheck n a h = (s1, none) →
      (s.core n).gatesOpen a.inTally a.outTally 5 = true → a.status = 0xFFFFFFFF →
    Completes (.atAttend n none) s fun t =>
      (t.core n).attend = none ∧ (t.core n).sp = h.writes.foldl (fun m w => Mem1.write ramD m w.1 w.2) (s.core n).sp
        ∧ HeadFinished (s.core n) (t.core n) 3 rest ∧ (∀ m, m ≠ n → t.core m = s1.core m) ∧ t = { s1 with cores := t.cores })
  ∧ (∀ (s s1 : State) (n : Nat) (x : QCmd) (rest : List QCmd) (h : AttendHeld) (f : Cause), HeadsQueue s n 3 x rest →
      byteAt x.bytes 0 = 1 → (s.core n).attend = some h → s.attendRecheck n (attendCmd x.bytes) h = (s1, some f) →
    exec (.atAttend n none) s = .next (s1.endRun n f))

/-- R387, R388, R390, R391, R395 to R398, R400: at the head of VECTOR with valid fields and open gates, (1) DEFINE, (2) RELEASE, (3)
PUBLISH, (4) RETIRE and (5) STASH_FREE hold their change until the grant; (6) INSTALL copies its bytes into the version's slot; (7)
STEP makes the writes of the optimizer step; (8) STASH_PUT copies its bytes into the lowest free entry and holds the key; (9)
STASH_LOOKUP writes its 16 bytes. Each finishes; beside that only held changes, slot marks, put counts, scratchpad, tallies, queues
and counts of the core change. -/
def Obligations.ResidentCommands : Prop :=
  (∀ (s : State) (n : Nat) (x : QCmd) (rest : List QCmd), HeadsQueue s n 2 x rest → byteAt x.bytes 0 = 0x10 →
      byteAt x.bytes 1 = 1 → (s.core n).residentCommon x.bytes = true → s.defineOk n x.bytes = true →
      (s.core n).gatesOpen (byteAt x.bytes 3) (byteAt x.bytes 4) 4 = true →
    Completes (.define n) s fun t => (t.core n).held = (s.core n).held ++ [.define (s.core n).part (byteAt x.bytes 2)
        (field x.bytes 16 4) (field x.bytes 20 4) (byteAt x.bytes 24) (byteAt x.bytes 25) (field x.bytes 26 2)
        (field x.bytes 28 4) (field x.bytes 32 8) (field x.bytes 40 2)] ∧ ResidentDone s n rest t)
  ∧ (∀ (s : State) (n : Nat) (x : QCmd) (rest : List QCmd) (p : Pillar), HeadsQueue s n 2 x rest →
      let b := x.bytes
      let c := s.core n
      byteAt b 0 = 0x10 → byteAt b 1 = 2 → c.viewPillar (byteAt b 2) = some p → c.residentCommon b = true →
      c.gatesOpen (byteAt b 3) (byteAt b 4) 4 = true → zeroBytes b 16 127 = true →
    Completes (.release n) s fun t => (t.core n).held = c.held ++ [.release p.index] ∧ ResidentDone s n rest t)
  ∧ (∀ (s : State) (n : Nat) (x : QCmd) (rest : List QCmd) (p : Pillar), HeadsQueue s n 2 x rest →
      let b := x.bytes
      let c := s.core n
      byteAt b 0 = 0x10 → byteAt b 1 = 5 → c.viewPillar (byteAt b 2) = some p → c.residentCommon b = true →
      c.gatesOpen (byteAt b 3) (byteAt b 4) 4 = true → zeroBytes b 20 127 = true → field b 16 4 < 0xFFFFFFFF →
      (∀ w, p.newest = some w → w < field b 16 4) → (∀ w, p.slotState (field b 16 4) ≠ .live w) →
    Completes (.publish n) s fun t => (t.core n).held = c.held ++ [.publish p.index (field b 16 4)] ∧ ResidentDone s n rest t)
  ∧ (∀ (s : State) (n : Nat) (x : QCmd) (rest : List QCmd) (p : Pillar), HeadsQueue s n 2 x rest →
      let b := x.bytes
      let c := s.core n
      byteAt b 0 = 0x10 → byteAt b 1 = 6 → c.viewPillar (byteAt b 2) = some p → c.residentCommon b = true →
      c.gatesOpen (byteAt b 3) (byteAt b 4) 4 = true → zeroBytes b 20 127 = true → field b 16 4 < 0xFFFFFFFF →
      p.slotState (field b 16 4) = .live (field b 16 4) →
    Completes (.retire n) s fun t => (t.core n).held = c.held ++ [.retire p.index (field b 16 4)] ∧ ResidentDone s n rest t)
  ∧ (∀ (s : State) (n : Nat) (x : QCmd) (rest : List QCmd) (p : Pillar), HeadsQueue s n 2 x rest →
      let b := x.bytes
      let c := s.core n
      byteAt b 0 = 0x10 → byteAt b 1 = 9 → c.viewPillar (byteAt b 2) = some p → c.residentCommon b = true →
      c.gatesOpen (byteAt b 3) (byteAt b 4) 4 = true → s.stashAllowed n p = true → keyOk b 20 = true →
    Completes (.stashFree n) s fun t => (t.core n).held = c.held ++ [.freeKey p.index (c.stashKey b)] ∧ ResidentDone s n rest t)
  ∧ (∀ (s : State) (n : Nat) (x : QCmd) (rest : List QCmd) (p : Pillar), HeadsQueue s n 2 x rest →
      let b := x.bytes
      let c := s.core n
      byteAt b 0 = 0x10 → byteAt b 1 = 3 → c.viewPillar (byteAt b 2) = some p → c.residentCommon b = true →
      field b 8 4 = 0xFFFFFFFF → c.gatesOpen (byteAt b 3) (byteAt b 4) 4 = true → Mem1.wf ramD c.sp = true →
      field b 16 4 < 0xFFFFFFFF → (∀ w, p.slotState (field b 16 4) ≠ .live w) → 32 ∣ field b 20 4 → 1 ≤ field b 24 4 →
      32 ∣ field b 28 4 → field b 28 4 + field b 24 4 ≤ p.slotBytes → zeroBytes b 32 127 = true →
      c.inWork (field b 20 4) (field b 24 4) = true →
    Completes (.install n none) s fun t =>
      (t.core n).spRead (p.slotAt (p.slotOf (field b 16 4)) + field b 28 4) (field b 24 4)
          = c.spRead (field b 20 4) (field b 24 4)
        ∧ ScratchOutside c (t.core n) (p.slotAt (p.slotOf (field b 16 4)) + field b 28 4) (field b 24 4)
        ∧ ResidentDone s n rest t)
  ∧ (∀ (s : State) (n : Nat) (x : QCmd) (rest : List QCmd) (p : Pillar), HeadsQueue s n 2 x rest →
      let b := x.bytes
      let c := s.core n
      byteAt b 0 = 0x10 → byteAt b 1 = 4 → c.viewPillar (byteAt b 2) = some p → c.residentCommon b = true →
      field b 8 4 = 0xFFFFFFFF → c.gatesOpen (byteAt b 3) (byteAt b 4) 4 = true → c.stepOk p b = true →
      (∀ w, p.slotState (field b 20 4) ≠ .live w) →
    Completes (.optStep n none) s fun t =>
      (t.core n).sp = ((c.stepEffects (stepCmd b) (p.slotAt (p.slotOf (field b 20 4)))).writes.foldl
          (fun m w => Mem1.write ramD m w.1 w.2) c.sp) ∧ ResidentDone s n rest t)
  ∧ (∀ (s : State) (n k : Nat) (x : QCmd) (rest : List QCmd) (p : Pillar), HeadsQueue s n 2 x rest →
      let b := x.bytes
      let c := s.core n
      byteAt b 0 = 0x10 → byteAt b 1 = 7 → c.viewPillar (byteAt b 2) = some p → c.residentCommon b = true →
      field b 8 4 = 0xFFFFFFFF → c.gatesOpen (byteAt b 3) (byteAt b 4) 4 = true → Mem1.wf ramD c.sp = true →
      s.stashAllowed n p = true → keyOk b 28 = true → 32 ∣ field b 20 4 → 1 ≤ field b 24 4 → field b 24 4 ≤ p.entryBytes →
      c.inWork (field b 20 4) (field b 24 4) = true → c.keyTaken p (c.stashKey b) = false → p.freeScratch = some k →
    Completes (.stashPut n none) s fun t =>
      (t.core n).spRead (p.entryAt k) (field b 24 4) = c.spRead (field b 20 4) (field b 24 4)
        ∧ (t.core n).held = c.held ++ [.put p.index (c.stashKey b) (.scratch k) (field b 24 4)]
        ∧ ScratchOutside c (t.core n) (p.entryAt k) (field b 24 4) ∧ ResidentDone s n rest t)
  ∧ (∀ (s : State) (n : Nat) (x : QCmd) (rest : List QCmd) (p : Pillar), HeadsQueue s n 2 x rest →
      let b := x.bytes
      let c := s.core n
      byteAt b 0 = 0x10 → byteAt b 1 = 8 → c.viewPillar (byteAt b 2) = some p → c.residentCommon b = true →
      field b 8 4 = 0xFFFFFFFF → c.gatesOpen (byteAt b 3) (byteAt b 4) 4 = true → Mem1.wf ramD c.sp = true →
      s.stashAllowed n p = true → keyOk b 24 = true → 16 ∣ field b 20 4 → c.inWork (field b 20 4) 16 = true →
    Completes (.stashLookup n none) s fun t =>
      (t.core n).spRead (field b 20 4) 16 = p.lookup (c.stashKey b)
        ∧ ScratchOutside c (t.core n) (field b 20 4) 16 ∧ VectorDone s n 2 rest t)

/-- R385, R388, R390, R391, R396, R398: at the grant, on a core with one pillar of the run's partition: (1) a definition adds the
pillar behind it, its slots FREE, or BUILDING where the run wrote them; (2) PUBLISH makes the version's slot LIVE and the newest;
(3) RETIRE frees the version's slot; (4) a put is found under its key; (5) a freed key is not; other keys keep their entries; (6) a
release takes the pillar away and zeroes its allocation and no other byte. -/
def Obligations.ResidentGrant : Prop :=
  (∀ (c : Core) (i base sb k po sp eb va ov : Nat),
    (c.applyHeld (.define c.part i base sb k po sp eb va ov)).pillars = c.pillars ++ [{
        part := c.part, index := i, base := base, slotBytes := sb,
        slots := (List.range k).map (fun j => { st := if (i, j) ∈ c.building then .building else .free }),
        policy := po, spEntries := sp, entryBytes := eb, ovfVa := BitVec.ofNat 64 va, ovfEntries := ov, definedBy := c.job }])
  ∧ (∀ (c : Core) (p : Pillar) (v : Nat), c.pillars = [p] → p.part = c.part → p.slots ≠ [] →
    ∃ q, (c.applyHeld (.publish p.index v)).pillars = [q] ∧ q.slotState v = .live v ∧ q.newest = some v
        ∧ q.base = p.base ∧ q.stash = p.stash)
  ∧ (∀ (c : Core) (p : Pillar) (v : Nat), c.pillars = [p] → p.part = c.part → p.slots ≠ [] →
      p.slotState v = .live v ∨ p.slotState v = .building →
    ∃ q, (c.applyHeld (.retire p.index v)).pillars = [q] ∧ q.slotState v = .free ∧ q.newest = p.newest)
  ∧ (∀ (c : Core) (p : Pillar) (k : Nat) (pl : StashPlace) (len : Nat), c.pillars = [p] → p.part = c.part →
    ∃ q, (c.applyHeld (.put p.index k pl len)).pillars = [q] ∧ q.entry k = some { key := k, place := pl, length := len }
        ∧ ∀ j, j ≠ k → q.entry j = p.entry j)
  ∧ (∀ (c : Core) (p : Pillar) (k : Nat), c.pillars = [p] → p.part = c.part →
    ∃ q, (c.applyHeld (.freeKey p.index k)).pillars = [q] ∧ q.entry k = none ∧ ∀ j, j ≠ k → q.entry j = p.entry j)
  ∧ (∀ (c : Core) (p : Pillar), c.pillars = [p] → p.part = c.part → Mem1.wf ramD c.sp = true →
    (c.applyHeld (.release p.index)).pillars = []
      ∧ ∀ a, Mem1.get ramD (c.applyHeld (.release p.index)).sp a
          = if p.base ≤ a ∧ a < p.base + p.bytes then 0 else Mem1.get ramD c.sp a)

/-- R351, R356 to R359, R362, R381: a core's access takes a request slot and (1) hits the line that holds its block, or (2) is queued
at its bank as the last arrival, or (3) is refused with BANK_BUSY by a full queue: its slot waits and its core is in the wake set.
(4) to (6) An edge agent's access does the same without a slot. Only the slot, the cache's use, the counters and that bank change. -/
def Obligations.MemoryAccess : Prop :=
  (∀ (s : State) (n id dpa : Nat) (w : Bool), s.running = true → s.mesh.injectStopped = false → n < 192 → n < s.cores.length →
      (s.core n).phase ≠ .idle → s.accessOk (some (s.core n).part) dpa = true → (s.core n).slotFree id dpa = true →
      let a : Access := { who := .core n, slot := id, block := dpa / 256, part := some (s.core n).part, write := w }
      s.hitsNow a = true →
    Completes (.memoryAccess (.core n) id (some (s.core n).part) dpa { write := w }) s fun t =>
      (t.core n).slots = (s.core n).slots ++ [{ id := id, block := dpa / 256, channel := dpaChannel dpa, bank := dpaBank dpa,
                                                part := some (s.core n).part, write := w }]
        ∧ t.mem = { s.mem with
            useClock := s.mem.useClock + 1, hits := bump48 s.mem.hits (dpaGroup (256 * (dpa / 256))),
            msc := s.mem.msc.map (fun l => if l.block = dpa / 256 ∧ l.reorder = false
                                           then { l with lru := s.mem.useClock, dirty := l.dirty || w } else l) }
        ∧ OnlyCore s n { t with mem := s.mem })
  ∧ (∀ (s : State) (n id dpa : Nat) (w : Bool), s.running = true → s.mesh.injectStopped = false → n < 192 →
      n < s.cores.length → (s.core n).phase ≠ .idle → s.accessOk (some (s.core n).part) dpa = true →
      (s.core n).slotFree id dpa = true →
      let a : Access := { who := .core n, slot := id, block := dpa / 256, part := some (s.core n).part, write := w }
      let x := s.bank (s.accessBank a).1 (s.accessBank a).2
      s.hitsNow a = false → x.used true < 32 →
    Completes (.memoryAccess (.core n) id (some (s.core n).part) dpa { write := w }) s fun t =>
      (t.core n).slots = (s.core n).slots ++ [{ id := id, block := dpa / 256, channel := dpaChannel dpa, bank := dpaBank dpa,
                                                part := some (s.core n).part, write := w }]
        ∧ t.bank (s.accessBank a).1 (s.accessBank a).2
            = { x with coreQ := x.coreQ ++ [{ a with serial := s.mem.arrivals }] }
        ∧ t.mem = { s.mem with misses := bump48 s.mem.misses (dpaGroup (256 * (dpa / 256))),
                               arrivals := s.mem.arrivals + 1, banks := t.mem.banks }
        ∧ OnlyCore s n { t with mem := s.mem })
  ∧ (∀ (s : State) (n id dpa : Nat) (w : Bool), s.running = true → s.mesh.injectStopped = false → n < 192 →
      n < s.cores.length → (s.core n).phase ≠ .idle → s.accessOk (some (s.core n).part) dpa = true →
      (s.core n).slotFree id dpa = true →
      let a : Access := { who := .core n, slot := id, block := dpa / 256, part := some (s.core n).part, write := w }
      let x := s.bank (s.accessBank a).1 (s.accessBank a).2
      s.hitsNow a = false → 32 ≤ x.used true → .core n ∉ x.wake →
    Completes (.memoryAccess (.core n) id (some (s.core n).part) dpa { write := w }) s fun t =>
      (t.core n).slots = (s.core n).slots ++ [{ id := id, block := dpa / 256, channel := dpaChannel dpa, bank := dpaBank dpa,
                                                part := some (s.core n).part, write := w, waiting := true }]
        ∧ t.bank (s.accessBank a).1 (s.accessBank a).2 = { x with wake := x.wake ++ [.core n] }
        ∧ t.mem = { s.mem with misses := bump48 s.mem.misses (dpaGroup (256 * (dpa / 256))),
                               busy := bump48 s.mem.busy (dpaGroup (256 * (dpa / 256))), banks := t.mem.banks }
        ∧ OnlyCore s n { t with mem := s.mem })
  ∧ (∀ (s : State) (q id dpa : Nat) (part : Option Nat) (w : Bool), s.running = true → s.mesh.injectStopped = false →
      s.accessOk part dpa = true →
      s.hitsNow { who := .agent q, slot := id, block := dpa / 256, part := part, write := w } = true →
    Completes (.memoryAccess (.agent q) id part dpa { write := w }) s fun t =>
      t = { s with mem := { s.mem with
          useClock := s.mem.useClock + 1, hits := bump48 s.mem.hits (dpaGroup (256 * (dpa / 256))),
          msc := s.mem.msc.map (fun l => if l.block = dpa / 256 ∧ l.reorder = false
                                         then { l with lru := s.mem.useClock, dirty := l.dirty || w } else l) } })
  ∧ (∀ (s : State) (q id dpa : Nat) (part : Option Nat) (w : Bool), s.running = true → s.mesh.injectStopped = false →
      s.accessOk part dpa = true →
      let a : Access := { who := .agent q, slot := id, block := dpa / 256, part := part, write := w }
      let x := s.bank (s.accessBank a).1 (s.accessBank a).2
      s.hitsNow a = false → x.used false < 4 →
    Completes (.memoryAccess (.agent q) id part dpa { write := w }) s fun t =>
      t.bank (s.accessBank a).1 (s.accessBank a).2 = { x with edgeQ := x.edgeQ ++ [{ a with serial := s.mem.arrivals }] }
        ∧ t = { s with mem := { s.mem with misses := bump48 s.mem.misses (dpaGroup (256 * (dpa / 256))),
                                           arrivals := s.mem.arrivals + 1, banks := t.mem.banks } })
  ∧ (∀ (s : State) (q id dpa : Nat) (part : Option Nat) (w : Bool), s.running = true → s.mesh.injectStopped = false →
      s.accessOk part dpa = true →
      let a : Access := { who := .agent q, slot := id, block := dpa / 256, part := part, write := w }
      let x := s.bank (s.accessBank a).1 (s.accessBank a).2
      s.hitsNow a = false → 4 ≤ x.used false → .agent q ∉ x.wake →
    Completes (.memoryAccess (.agent q) id part dpa { write := w }) s fun t =>
      t.bank (s.accessBank a).1 (s.accessBank a).2 = { x with wake := x.wake ++ [.agent q], agentWait := x.agentWait ++ [a] }
        ∧ t = { s with mem := { s.mem with misses := bump48 s.mem.misses (dpaGroup (256 * (dpa / 256))),
                                           busy := bump48 s.mem.busy (dpaGroup (256 * (dpa / 256))),
                                           banks := t.mem.banks } })

/-- R35, R351, R352, R358 to R361, R366, R464: (1) a bank serves the only access of its core queue: it leaves the queue, its row is
open, and its block is filled into the lowest enabled invalid way. (2) A WAKE to a core without a waiting access clears its bit;
(3) with one, that access takes the reserved entry. (4) A WAKE for a core of a stopped cluster restarts the cluster and is held;
(5) one for a fenced core is dropped and counted; (6) an edge agent's refused access takes the entry. (7) A lapsed reservation is
gone. (8) A refresh closes its bank's row and no other's. (9) A response frees its slot. (10) A walk that finds a page adds it to
the core's translation buffer; (11) an address that the buffer holds changes nothing. -/
def Obligations.BankService : Prop :=
  (∀ (s : State) (ch : Fin 64) (b : Fin 16) (a : Access) (n p way : Nat), s.running = true → (s.bank ch b).coreQ = [a] →
      (s.bank ch b).edgeQ = [] → (s.bank ch b).wake = [] → a.who = .core n → a.scrub = false → s.mem.line a.block = none →
      s.dpaPart (256 * a.block) = some p → s.victim p a.block = some (way, none) →
      (∀ x ∈ s.mem.bad, x / 8 ≠ s.remap (256 * a.block) / 256 ∧ ∀ y, y < 8 → x ≠ s.burstOf (8 * a.block + y)) →
    Completes (.dramBankServe ch { bank := b }) s fun t =>
      t.bank ch b = { s.bank ch b with coreQ := [], selections := (s.bank ch b).selections + 1,
                                       openRow := some (dpaRow (256 * a.block)) }
        ∧ t.mem.msc = s.mem.msc ++ [{ block := a.block, way := way, part := some p, dirty := a.write, lru := s.mem.useClock }]
        ∧ t.mem.dram = s.mem.dram ∧ t = { s with mem := t.mem })
  ∧ (∀ (s : State) (ch : Fin 64) (b : Fin 16) (n : Nat), s.running = true → (s.bank ch b).reserved = [.core n] →
      s.isFenced n = false → s.wnd.clusters.getD (clusterOf n) .stopped = .running → (s.core n).slots = [] →
    Completes (.meshWake (.core n) ch b) s fun t =>
      (t.bank ch b).wake = (s.bank ch b).wake.filter (· != .core n) ∧ (t.bank ch b).coreQ = (s.bank ch b).coreQ
        ∧ t = { s with mem := { s.mem with banks := t.mem.banks } })
  ∧ (∀ (s : State) (n : Nat) (a : Access) (ch : Fin 64) (b : Fin 16) (y : ReqSlot),
      s.running = true → n < s.cores.length → s.isFenced n = false →
      s.wnd.clusters.getD (clusterOf n) .stopped = .running → (s.bank ch b).reserved = [.core n] → (s.core n).slots = [y] →
      y.waiting = true → a = { who := .core n, slot := y.id, block := y.block, part := y.part, write := y.write } →
      s.accessBank a = (ch.val, b.val) → s.mem.line y.block = none →
    Completes (.meshWake (.core n) ch b) s fun t =>
      t.bank ch b = { s.bank ch b with reserved := [],
                                       coreQ := (s.bank ch b).coreQ ++ [{ a with serial := s.mem.arrivals }] }
        ∧ t.core n = { s.core n with slots := [{ y with waiting := false }] } ∧ (∀ m, m ≠ n → t.core m = s.core m)
        ∧ t = { s with cores := t.cores, mem := { s.mem with arrivals := s.mem.arrivals + 1, banks := t.mem.banks } })
  ∧ (∀ (s : State) (ch : Fin 64) (b : Fin 16) (n : Nat), s.running = true → .core n ∈ (s.bank ch b).reserved →
      s.isFenced n = false → s.wnd.clusters.getD (clusterOf n) .stopped ≠ .running →
    Completes (.meshWake (.core n) ch b) s fun t =>
      t = { s with wnd := { s.wnd with
          clusters := s.wnd.clusters.set (clusterOf n) .restarting,
          heldWakes := s.wnd.heldWakes ++ [(n, ch.val, b.val)] } })
  ∧ (∀ (s : State) (ch : Fin 64) (b : Fin 16) (n : Nat), s.running = true → n < s.cores.length →
      .core n ∈ (s.bank ch b).reserved → s.isFenced n = true →
    Completes (.meshWake (.core n) ch b) s (OnCore s n { s.core n with droppedVc0 := (s.core n).droppedVc0 + 1 }))
  ∧ (∀ (s : State) (ch : Fin 64) (b : Fin 16) (q : Nat) (a : Access), s.running = true →
      (s.bank ch b).reserved = [.agent q] → (s.bank ch b).agentWait = [a] → a.who = .agent q →
      s.accessBank a = (ch.val, b.val) → s.hitsNow a = false →
    Completes (.meshWake (.agent q) ch b) s fun t =>
      t.bank ch b = { s.bank ch b with reserved := [], agentWait := [],
                                       edgeQ := (s.bank ch b).edgeQ ++ [{ a with serial := s.mem.arrivals }] }
        ∧ t = { s with mem := { s.mem with arrivals := s.mem.arrivals + 1, banks := t.mem.banks } })
  ∧ (∀ (s : State) (ch : Fin 64) (b : Fin 16) (r : Requester), s.running = true → (s.bank ch b).reserved = [r] →
      (s.bank ch b).wake = [] →
    Completes (.wakeReservationLapse ch b) s fun t =>
      t.bank ch b = { s.bank ch b with reserved := [] } ∧ t = { s with mem := { s.mem with banks := t.mem.banks } })
  ∧ (∀ (s : State) (ch : Fin 64) (b : Fin 16) (rfm : Bool), s.running = true →
    Completes (.perBankRefresh ch b rfm) s fun t =>
      t.bank ch b = { s.bank ch b with
          openRow := none, refreshes := (s.bank ch b).refreshes + (if rfm then 0 else 1),
          rfms := (s.bank ch b).rfms + (if rfm then 1 else 0) }
        ∧ (∀ c k, 16 * c + k ≠ 16 * ch.val + b.val → t.bank c k = s.bank c k)
        ∧ t = { s with mem := { s.mem with banks := t.mem.banks } })
  ∧ (∀ (s : State) (n id : Nat) (y : ReqSlot), n < s.cores.length → (s.core n).slots.find? (fun z => z.id == id) = some y →
      y.waiting = false → (s.bank y.channel y.bank).coreQ = [] →
    Completes (.accessResponse n id) s
      (OnCore s n { s.core n with slots := (s.core n).slots.filter (fun z => z.id != id) }))
  ∧ (∀ (s s1 : State) (n b sz d : Nat) (w x : Bool) (k : AccessKind) (va : BitVec 64), s.running = true → n < 192 →
      n < s.cores.length → (s.core n).phase = .executing → s.maySend n 0 0 = true →
      (s.core n).tlbHit (s.core n).part (va.toNat % 2 ^ 48) = none →
      s.walk (halfOf n) (s.core n).part (va.toNat % 2 ^ 48) = (s1, .page b sz d w x) → s1.cores = s.cores →
    Completes (.translationWalk n k va) s fun t =>
      t.core n = { s.core n with
          tlb := ({ part := (s.core n).part, base := b, size := sz, dpa := d, w := w, x := x } :: (s.core n).tlb).take 64 }
        ∧ (∀ m, m ≠ n → t.core m = s.core m) ∧ t = { s1 with cores := t.cores })
  ∧ (∀ (s : State) (n : Nat) (k : AccessKind) (va : BitVec 64) (e : TlbEntry), s.running = true → n < 192 →
      (s.core n).phase = .executing → s.maySend n 0 0 = true →
      (s.core n).tlbHit (s.core n).part (va.toNat % 2 ^ 48) = some e →
    exec (.translationWalk n k va) s = .next s)

/-- R345, R358, R359, R375 to R379, R451, R452: (1) scrub reads the next block of its channel's pass and moves on; (2) it writes
corrected bursts back and counts them; (3) where the bank's edge queue is full its read is refused and waits; (4) PASS_HOURS of 0
stops it. (5) A page asked for joins the retirement list, and its spare page has its burst errors; (6) a full list retires nothing.
(7) The scrub of a core's resident area clears the single-bit errors of one row; (8) an uncorrectable word there gets the poison
mark. None changes a byte of data. -/
def Obligations.ScrubAndRetirement : Prop :=
  (∀ (s : State) (ch : Fin 64), s.running = true → s.mem.scrubCfg.toNat % 256 ≠ 0 → ch.val < s.mem.scrubPos.length →
      let block := scrubBlock ch (s.mem.scrubPos.getD ch 0)
      (∀ x ∈ blockSectors block, x ∉ s.mem.bad ∧ x ∉ s.mem.flip) →
      (s.bank (dpaChannel (256 * block)) (dpaBank (256 * block))).used false < 4 →
    Completes (.scrubRead { channel := ch }) s fun t =>
      t.mem.scrubPos = s.mem.scrubPos.set ch
          (if s.channelBlocks ≤ s.mem.scrubPos.getD ch 0 + 1 then 0 else s.mem.scrubPos.getD ch 0 + 1)
        ∧ t = { s with mem := { s.mem with scrubPos := t.mem.scrubPos, ecc := t.mem.ecc, ceInPass := t.mem.ceInPass } })
  ∧ (∀ (s : State) (ch : Fin 64), s.running = true → s.mem.scrubCfg.toNat % 256 ≠ 0 → ch.val < s.mem.scrubPos.length →
      let block := scrubBlock ch (s.mem.scrubPos.getD ch 0)
      let g := dpaChannel (256 * block)
      (∀ x ∈ blockSectors block, x ∉ s.mem.bad) → s.mem.line (s.sectorAt (8 * block) / 8) = none → g < s.mem.ecc.length →
      (s.bank g (dpaBank (256 * block))).used false < 4 →
    Completes (.scrubRead { channel := ch }) s fun t =>
      t.mem.flip = s.mem.flip.filter (fun x => x / 8 != block)
        ∧ (t.mem.ecc.getD g (0, 0)).1
            = satAdd 32 (s.mem.ecc.getD g (0, 0)).1 ((blockSectors block).filter (· ∈ s.mem.flip)).length
        ∧ t.mem.dram = s.mem.dram ∧ t = { s with mem := t.mem })
  ∧ (∀ (s : State) (ch : Fin 64), s.running = true → s.mem.scrubCfg.toNat % 256 ≠ 0 →
      let block := scrubBlock ch (s.mem.scrubPos.getD ch 0)
      let x := s.bank (dpaChannel (256 * block)) (dpaBank (256 * block))
      4 ≤ x.used false → scrubAgent ch ∉ x.wake →
    Completes (.scrubRead { channel := ch }) s fun t =>
      t.bank (dpaChannel (256 * block)) (dpaBank (256 * block))
          = { x with wake := x.wake ++ [scrubAgent ch],
                     agentWait := x.agentWait ++ [{ who := scrubAgent ch, slot := 0, block := block, part := none, write := false,
                                                    scrub := true }] }
        ∧ t.mem.busy = bump48 s.mem.busy (dpaGroup (256 * block)) ∧ t.mem.dram = s.mem.dram ∧ t = { s with mem := t.mem })
  ∧ (∀ (s : State) (ch : Fin 64), s.mem.scrubCfg.toNat % 256 = 0 → exec (.scrubRead { channel := ch }) s = .next s)
  ∧ (∀ (s : State) (page reason group : Nat) (rest : List (Nat × Nat × Nat)), s.running = true →
      s.mem.retireReq = (page, reason, group) :: rest → s.flash.retired.length < 4096 → 65536 * (page + 1) ≤ s.spareBase →
    Completes .pageRetire s fun t =>
      t.flash.retired = s.flash.retired ++ [{ page := page, reason := reason }]
        ∧ t.mem = { s.mem with retireReq := rest, bad := t.mem.bad, flip := t.mem.flip }
        ∧ (∀ i, i < 2048 → (s.spareBase / 32 + 2048 * s.flash.retired.length + i ∈ t.mem.bad ↔ 2048 * page + i ∈ s.mem.bad))
        ∧ t.cores = s.cores ∧ t.wnd = s.wnd)
  ∧ (∀ (s : State) (page reason group : Nat) (rest : List (Nat × Nat × Nat)), s.running = true →
      s.mem.retireReq = (page, reason, group) :: rest → 4096 ≤ s.flash.retired.length → s.flash.retireFullSent = true →
    exec .pageRetire s = .next { s with mem := { s.mem with retireReq := rest } })
  ∧ (∀ (s : State) (n : Nat), s.running = true → n < 192 → n < s.cores.length → (s.core n).phase = .idle →
      (s.core n).badWords = [] →
    Completes (.residentAreaScrub { core := n }) s fun t =>
      (t.core n).scrubRow = ((s.core n).scrubRow + 1) % 4096 ∧ (t.core n).sp = (s.core n).sp
        ∧ (t.core n).flipWords = (s.core n).flipWords.filter
            (fun w => !decide (w ∈ rowWords (s.core n).scrubRow ∧ 16 * w < (s.core n).resEnd))
        ∧ OnlyCore s n t)
  ∧ (∀ (s : State) (n w : Nat), s.running = true → n < 192 → n < s.cores.length → (s.core n).phase = .idle →
      (s.core n).badWords = [w] → w ∈ rowWords (s.core n).scrubRow → 16 * w < (s.core n).resEnd →
    Completes (.residentAreaScrub { core := n }) s fun t =>
      (t.core n).badWords = [] ∧ (t.core n).poison = insertSorted w (s.core n).poison ∧ (t.core n).sp = (s.core n).sp
        ∧ (t.core n).pillars = (s.core n).pillars ∧ (∀ m, m ≠ n → t.core m = s.core m) ∧ t.mem.dram = s.mem.dram)

/-- R411 to R413, R415, R422, R503, R504: a port passes (1) from local test to OPENING, driving the bypass, or (2) to training where
the bypass is open or it has none; (3) from OPENING to training; (4) from training to IDENT, with its identity sent; (5) a ring port
from IDENT to SECURE, (6) a branch port to UP; (7), (8) from SECURE to UP with fresh keys, the lower node taking the upward one,
when the partner's message passes every check. (9) Otherwise it goes DOWN and no key changes. (10) to (14) A failed test, a failed
training, a loss of lock in any state, a partner that is this module or the other ring port's, and another identity in UP return it
to DOWN. (15) It leaves DOWN when enabled and due. -/
def Obligations.LinkBringUp : Prop :=
  (∀ (s : State) (p : Fin 6), s.running = true → (s.port p).st = .localTest → p.val < s.lnk.ports.length → p.val < 2 →
      s.pwr.bypassOpen = false →
    Completes (.linkLocalTest p true) s fun t =>
      t.port p = { s.port p with st := .opening } ∧ t.pwr = { s.pwr with bypassDrive := true }
        ∧ (∀ q, q ≠ p.val → t.port q = s.port q) ∧ OnPorts s { t with pwr := s.pwr })
  ∧ (∀ (s : State) (p : Fin 6), s.running = true → (s.port p).st = .localTest → p.val < s.lnk.ports.length →
      2 ≤ p.val ∨ s.pwr.bypassOpen = true →
    Completes (.linkLocalTest p true) s fun t =>
      t.port p = { s.port p with st := .train } ∧ (∀ q, q ≠ p.val → t.port q = s.port q) ∧ OnPorts s t)
  ∧ (∀ (s : State) (p : Fin 6), s.running = true → (s.port p).st = .opening → p.val < s.lnk.ports.length →
    Completes (.bypassOpened p) s fun t =>
      t.port p = { s.port p with st := .train } ∧ t.pwr = { s.pwr with bypassOpen := true }
        ∧ (∀ q, q ≠ p.val → t.port q = s.port q) ∧ OnPorts s { t with pwr := s.pwr })
  ∧ (∀ (s : State) (p : Fin 6), s.running = true → (s.port p).st = .train → p.val < s.lnk.ports.length →
    Completes (.linkTrain p true) s fun t =>
      t.port p = { s.port p with st := .ident, sent := (s.port p).sent ++ s.identFlits p }
        ∧ (∀ q, q ≠ p.val → t.port q = s.port q) ∧ OnPorts s t)
  ∧ (∀ (s : State) (p : Fin 6) (node : BitVec 12) (k : BitVec 8) (h : List (BitVec 8)), s.running = true →
      (s.port p).st = .ident → p.val < 2 → p.val < s.lnk.ports.length → node.toNat ≠ s.nodeId →
      (s.port (1 - p.val)).neighbour ≠ some node.toNat → (s.port p).neighbour = none →
    Completes (.handshake p node k h) s fun t =>
      t.port p = { s.port p with st := .secure, neighbour := some node.toNat, neighbourHash := h }
        ∧ (∀ q, q ≠ p.val → t.port q = s.port q) ∧ OnPorts s t)
  ∧ (∀ (s : State) (p : Fin 6) (node : BitVec 12) (k : BitVec 8) (h : List (BitVec 8)), s.running = true →
      (s.port p).st = .ident → 2 ≤ p.val → p.val < s.lnk.ports.length → node.toNat ≠ s.nodeId → (s.port p).neighbour = none →
      s.lnk.tx = [] → (s.port p).txq = [] → (s.port p).fwd = [] →
    Completes (.handshake p node k h) s fun t =>
      (t.port p).st = .up ∧ (t.port p).neighbour = some node.toNat ∧ (t.port p).neighbourHash = h
        ∧ (t.port p).downSince = none ∧ (∀ q, q ≠ p.val → t.port q = s.port q) ∧ t.lnk.keys = s.lnk.keys
        ∧ t.mem = s.mem ∧ t.cores = s.cores)
  ∧ (∀ (s : State) (p : Fin 6) (offer accept secret : List (BitVec 8)) (n : Nat), s.running = true → (s.port p).st = .secure →
      p.val < s.lnk.ports.length → (s.port p).neighbour = some n → s.lnk.tx = [] →
      (∀ x ∈ s.lnk.ports, x.txq = [] ∧ x.replay = []) → s.nodeId < n →
      s.peerOk accept n s.nodeId (some (Config.sha3_512 offer)) = true →
    Completes (.linkSecureDone p offer accept secret) s fun t =>
      (t.port p).st = .up ∧ (t.port p).downSince = none ∧ t.mem = s.mem ∧ t.cores = s.cores
        ∧ t.lnk.keys = s.lnk.keys.filter (fun k => k.node != n)
            ++ [{ node := n, kOut := sliceBytes (linkOkm secret offer accept) 0 32,
                  kIn := sliceBytes (linkOkm secret offer accept) 32 32 }])
  ∧ (∀ (s : State) (p : Fin 6) (offer accept secret : List (BitVec 8)) (n : Nat), s.running = true → (s.port p).st = .secure →
      p.val < s.lnk.ports.length → (s.port p).neighbour = some n → s.lnk.tx = [] →
      (∀ x ∈ s.lnk.ports, x.txq = [] ∧ x.replay = []) → n ≤ s.nodeId → s.peerOk offer n s.nodeId none = true →
    Completes (.linkSecureDone p offer accept secret) s fun t =>
      (t.port p).st = .up ∧ (t.port p).downSince = none ∧ t.mem = s.mem ∧ t.cores = s.cores
        ∧ t.lnk.keys = s.lnk.keys.filter (fun k => k.node != n)
            ++ [{ node := n, kOut := sliceBytes (linkOkm secret offer accept) 32 32,
                  kIn := sliceBytes (linkOkm secret offer accept) 0 32 }])
  ∧ (∀ (s : State) (p : Fin 6) (offer accept secret : List (BitVec 8)) (n : Nat), s.running = true → (s.port p).st = .secure →
      p.val < s.lnk.ports.length → (s.port p).neighbour = some n →
      (s.nodeId < n → s.peerOk accept n s.nodeId (some (Config.sha3_512 offer)) = false) →
      (n ≤ s.nodeId → s.peerOk offer n s.nodeId none = false) →
    Completes (.linkSecureDone p offer accept secret) s fun t => WentDown s t p ∧ t.lnk.keys = s.lnk.keys)
  ∧ (∀ (s : State) (p : Fin 6), s.running = true → (s.port p).st = .localTest → p.val < s.lnk.ports.length →
    Completes (.linkLocalTest p false) s fun t => WentDown s t p)
  ∧ (∀ (s : State) (p : Fin 6), s.running = true → (s.port p).st = .train → p.val < s.lnk.ports.length →
    Completes (.linkTrain p false) s fun t => WentDown s t p)
  ∧ (∀ (s : State) (p : Fin 6), s.running = true → (s.port p).st ≠ .down → p.val < s.lnk.ports.length →
    Completes (.linkLoss p) s fun t => WentDown s t p)
  ∧ (∀ (s : State) (p : Fin 6) (node : BitVec 12) (k : BitVec 8) (h : List (BitVec 8)), s.running = true →
      (s.port p).st = .ident → p.val < s.lnk.ports.length →
      node.toNat = s.nodeId ∨ (p.val < 2 ∧ (s.port (1 - p.val)).neighbour = some node.toNat) →
    Completes (.handshake p node k h) s fun t => WentDown s t p)
  ∧ (∀ (s : State) (p : Fin 6) (node : BitVec 12) (k : BitVec 8) (h : List (BitVec 8)), s.running = true →
      (s.port p).st = .up → p.val < s.lnk.ports.length →
      (s.port p).neighbour ≠ some node.toNat ∨ (s.port p).neighbourHash ≠ h →
    Completes (.handshake p node k h) s fun t => WentDown s t p)
  ∧ (∀ (s : State) (p : Fin 6), s.running = true → (s.port p).st = .down → s.lnk.cfg.toNat.testBit p = true →
      (s.port p).retryAt.getD 0 ≤ s.time.ticks → p.val < s.lnk.ports.length →
    Completes (.linkRetry p) s fun t =>
      t.port p = { s.port p with st := .localTest, retryAt := none } ∧ (∀ q, q ≠ p.val → t.port q = s.port q) ∧ OnPorts s t)

/-- R46, R414, R415, R418, R420, R422, R424: (1) a flit that meets the closed bypass leaves by the other ring port. On an UP port: (2) a
damaged flit is counted and asked for again by a NAK; (3) a reserved TYPE is a protocol error; (4) a DATA flit out of order leaves
the data received; (5) an acknowledgement empties the replay buffer, (6) a NAK has it sent again; (7) the next DATA flit of a ring
port for another node waits at the other ring port; (8) one for this module is opened under its source's key, (9) and a tag that
does not verify refuses that source from then on. -/
def Obligations.FlitsArrive : Prop :=
  (∀ (s : State) (p : Fin 6) (f : Flit), p.val < 2 → s.pwr.bypassOpen = false → s.lnk.ports.length = 6 →
    Completes (.flitReceive p f) s fun t =>
      t.port (1 - p.val) = { s.port (1 - p.val) with sent := (s.port (1 - p.val)).sent ++ [f] } ∧ t.port p = s.port p
        ∧ OnPorts s t)
  ∧ (∀ (s : State) (p : Fin 6) (f : Flit), Listens s p → f.bad = true → (s.port p).creditsOwed = [0, 0, 0, 0] →
    Completes (.flitReceive p f) s fun t =>
      (t.port p).uncorrectable = min ((s.port p).uncorrectable + 1) (2 ^ 32 - 1)
        ∧ (t.port p).sent = (s.port p).sent ++ [{ nak := true, ackSeq := (s.port p).rxSeq + 1, hopSeq := (s.port p).txSeq - 1,
                                                  payload := List.replicate 224 0, tag := List.replicate 16 0 }]
        ∧ (t.port p).rxSeq = (s.port p).rxSeq ∧ (t.port p).rxPackets = (s.port p).rxPackets ∧ OnPorts s t)
  ∧ (∀ (s : State) (p : Fin 6) (f : Flit), Listens s p → f.bad = false → f.typ = 3#2 →
    Completes (.flitReceive p f) s fun t =>
      t.port p = { s.port p with protoErr := min ((s.port p).protoErr + 1) (2 ^ 32 - 1) }
        ∧ (∀ q, q ≠ p.val → t.port q = s.port q) ∧ OnPorts s t)
  ∧ (∀ (s : State) (p : Fin 6) (f : Flit), Listens s p → f.bad = false → f.typ = 1#2 → f.hopSeq ≠ (s.port p).rxSeq + 1 →
    Completes (.flitReceive p f) s fun t =>
      (t.port p).rxSeq = (s.port p).rxSeq ∧ (t.port p).rxPackets = (s.port p).rxPackets ∧ OnPorts s t)
  ∧ (∀ (s : State) (p : Fin 6) (f : Flit), Listens s p → f.bad = false → f.typ = 0#2 → f.nak = false →
      (∀ g ∈ (s.port p).replay, (f.ackSeq - g.1.hopSeq).toNat < 2 ^ 15) →
    Completes (.flitReceive p f) s fun t => (t.port p).replay = [] ∧ (t.port p).rxSeq = (s.port p).rxSeq ∧ OnPorts s t)
  ∧ (∀ (s : State) (p : Fin 6) (f : Flit), Listens s p → f.bad = false → f.typ = 0#2 → f.nak = true →
      (∀ g ∈ (s.port p).replay, (g.1.hopSeq - f.ackSeq).toNat < 2 ^ 15) → (s.port p).owes = false →
    Completes (.flitReceive p f) s fun t =>
      (t.port p).sent = (s.port p).sent ++ (s.port p).replay.map (·.1) ∧ (t.port p).replay = (s.port p).replay ∧ OnPorts s t)
  ∧ (∀ (s : State) (p : Fin 6) (f : Flit), Listens s p → f.bad = false → f.typ = 1#2 → f.hopSeq = (s.port p).rxSeq + 1 →
      p.val < 2 → s.lnk.ports.length = 6 → f.dst.toNat ≠ s.nodeId → (s.port (1 - p.val)).st ≠ .up →
    Completes (.flitReceive p f) s fun t =>
      (t.port p).rxSeq = f.hopSeq ∧ (t.port (1 - p.val)).fwd = (s.port (1 - p.val)).fwd ++ [f]
        ∧ (t.port p).creditsOwed = (s.port p).creditsOwed.map (fun _ => 0) ∧ OnPorts s t)
  ∧ (∀ (s : State) (p : Fin 6) (f : Flit) (k : LinkKey) (b : Bytes), Listens s p → f.bad = false → f.typ = 1#2 →
      f.hopSeq = (s.port p).rxSeq + 1 → f.dst.toNat = s.nodeId → s.lnk.keys = [k] → k.node = f.src.toNat →
      k.refused = false → f.first = true → f.last = false → k.ctrIn.length = 4 →
      let ctr := rebuildCtr (k.ctrIn.getD f.vc.toNat 0) f.e2eSeq.toNat
      Config.gcmOpen k.kIn (flitNonce f.src f.dst f.vc ctr) (flitAad f) f.payload f.tag = some b →
    Completes (.flitReceive p f) s fun t =>
      (t.port p).rxSeq = f.hopSeq ∧ t.lnk.keys = [{ k with ctrIn := k.ctrIn.set f.vc.toNat (ctr + 1) }]
        ∧ lookupD [] f.vc.toNat (t.port p).rxPackets = [{ f with payload := b }]
        ∧ t = { s with lnk := { s.lnk with ports := t.lnk.ports, keys := t.lnk.keys } })
  ∧ (∀ (s : State) (p : Fin 6) (f : Flit) (k : LinkKey), Listens s p → f.bad = false → f.typ = 1#2 →
      f.hopSeq = (s.port p).rxSeq + 1 → f.dst.toNat = s.nodeId → s.lnk.keys = [k] → k.node = f.src.toNat →
      k.refused = false →
      Config.gcmOpen k.kIn (flitNonce f.src f.dst f.vc (rebuildCtr (k.ctrIn.getD f.vc.toNat 0) f.e2eSeq.toNat)) (flitAad f)
        f.payload f.tag = none →
    Completes (.flitReceive p f) s fun t =>
      t.lnk.keys = [{ k with refused := true }] ∧ (t.port p).rxPackets = (s.port p).rxPackets
        ∧ t.lnk.recvPend = s.lnk.recvPend ∧ t.mem = s.mem ∧ t.cores = s.cores)

/-- R424, R431 to R433, R436: (1) the next term of a line, a CONTRIB, is added to the sum word by word, or is stored when it is the
first; (2) so is a PARTIAL. (3) A term out of turn is held without touching the sum where a reorder slot can be pinned, (4) else it
is answered BUSY. (5) A bucket not yet open answers BUSY and keeps its sender for a wake. (6) A repeated TAG is only acknowledged
again. No byte of DRAM changes. -/
def Obligations.TermsAreAddedInOrder : Prop :=
  (∀ (s : State) (i : Nat) (pkt : Packet) (l : Line), Arrived s pkt 1 → CarriesLine s i pkt l → Contributes s i pkt →
      NobodyWaits s →
      let x := s.lineOf i pkt.bucket.toNat pkt.tile.toNat pkt.offset.toNat
      x.next = (s.coll i).termOf pkt.rank.toNat pkt.part.toNat → x.held = [] → x.gaveUp = false → x.finished = false →
      x.next + 1 ≠ (s.coll i).terms →
    Completes (.contrib pkt .clean) s fun t =>
      let y := t.lineOf i pkt.bucket.toNat pkt.tile.toNat pkt.offset.toNat
      y.acc = some (match x.acc with | none => l | some a => (List.zip a l).map (fun w => (fadd w.1 w.2).1))
        ∧ y.next = x.next + 1 ∧ y.finished = false ∧ Answered s t pkt 7 ∧ t.mem.dram = s.mem.dram ∧ t.cores = s.cores
        ∧ t.wnd = s.wnd)
  ∧ (∀ (s : State) (i : Nat) (pkt : Packet) (l : Line), Arrived s pkt 2 → CarriesLine s i pkt l → NobodyWaits s →
      (s.coll i).desc.topology ≠ 3 → (s.coll i).desc.myRank = pkt.rank.toNat + 1 →
      ((s.coll i).rankNode pkt.rank.toNat).1 = pkt.src.toNat →
      s.lineOf i pkt.bucket.toNat pkt.tile.toNat pkt.offset.toNat = {} → (s.coll i).terms ≠ 1 →
    Completes (.partialSum pkt .clean) s fun t =>
      let y := t.lineOf i pkt.bucket.toNat pkt.tile.toNat pkt.offset.toNat
      y.acc = some l ∧ y.next = 1 ∧ y.status = pkt.status ∧ Answered s t pkt 7 ∧ t.mem.dram = s.mem.dram ∧ t.cores = s.cores
        ∧ t.wnd = s.wnd)
  ∧ (∀ (s : State) (i : Nat) (pkt : Packet) (l : Line), Arrived s pkt 1 → CarriesLine s i pkt l → Contributes s i pkt →
      NobodyWaits s →
      let x := s.lineOf i pkt.bucket.toNat pkt.tile.toNat pkt.offset.toNat
      x.next < (s.coll i).termOf pkt.rank.toNat pkt.part.toNat → x.held = [] → x.gaveUp = false → x.finished = false →
      s.pinOk (s.coll i).part (s.bucket i pkt.bucket.toNat)
        (pkt.tile.toNat * (s.bucket i pkt.bucket.toNat).tileLines + pkt.offset.toNat) = true →
    Completes (.contrib pkt .clean) s fun t =>
      t.lineOf i pkt.bucket.toNat pkt.tile.toNat pkt.offset.toNat
          = { x with held := [{ term := (s.coll i).termOf pkt.rank.toNat pkt.part.toNat, status := termStatus 1 pkt.status l,
                                line := l, poison := [] }] }
        ∧ Answered s t pkt 7 ∧ t.mem.dram = s.mem.dram ∧ t.cores = s.cores ∧ t.wnd = s.wnd)
  ∧ (∀ (s : State) (i : Nat) (pkt : Packet) (l : Line), Arrived s pkt 1 → CarriesLine s i pkt l → Contributes s i pkt →
      NobodyWaits s →
      let x := s.lineOf i pkt.bucket.toNat pkt.tile.toNat pkt.offset.toNat
      x.next < (s.coll i).termOf pkt.rank.toNat pkt.part.toNat → x.held = [] → x.gaveUp = false → x.finished = false →
      s.pinOk (s.coll i).part (s.bucket i pkt.bucket.toNat)
        (pkt.tile.toNat * (s.bucket i pkt.bucket.toNat).tileLines + pkt.offset.toNat) = false →
    Completes (.contrib pkt .clean) s fun t =>
      t.lineOf i pkt.bucket.toNat pkt.tile.toNat pkt.offset.toNat = x ∧ Answered s t pkt 8
        ∧ ((t.bucket i pkt.bucket.toNat).tiles.getD pkt.tile.toNat {}).waiters = [pkt.src.toNat]
        ∧ t = { s with lnk := t.lnk })
  ∧ (∀ (s : State) (i : Nat) (pkt : Packet), Arrived s pkt 1 → s.findColl pkt.key pkt.src.toNat [1] = some i →
      s.linesFit i pkt = true → Contributes s i pkt → NobodyWaits s → (s.bucket i pkt.bucket.toNat).st = .armed →
      pkt.tile.toNat < (s.bucket i pkt.bucket.toNat).tiles.length →
    Completes (.contrib pkt .clean) s fun t =>
      ((t.bucket i pkt.bucket.toNat).tiles.getD pkt.tile.toNat {}).waiters = [pkt.src.toNat] ∧ Answered s t pkt 8
        ∧ (∀ o, t.lineOf i pkt.bucket.toNat pkt.tile.toNat o = s.lineOf i pkt.bucket.toNat pkt.tile.toNat o)
        ∧ t = { s with lnk := t.lnk })
  ∧ (∀ (s : State) (pkt : Packet) (c : Instr), s.running = true → s.lnk.recvPend = [pkt] → pkt.port < 6 →
      s.doneBefore pkt = true →
      (c = .contrib pkt .clean ∧ pkt.msg = 1) ∨ (c = .partialSum pkt .clean ∧ pkt.msg = 2) ∨ (c = .result pkt ∧ pkt.msg = 3)
        ∨ (c = .sendReceive pkt ∧ pkt.msg = 4) →
    Completes c s fun t =>
      Answered s t pkt 7 ∧ t.lnk.colls = s.lnk.colls ∧ t.lnk.rxDone = s.lnk.rxDone ∧ t = { s with lnk := t.lnk })

/-- R424, R430, R433, R438, R519: (1) a result line is written where its bucket's address leads; (2) a SEND's bytes are written into
its window; both are acknowledged and no other byte of DRAM changes. (3) An arrival is recorded at rank 0. (4) A release without
kept signals changes no collective. (5) A packet that matches nothing is dropped and counted. (6) ACK frees the sender's copy, (7)
BUSY marks it, (8) WAKE sends it again. -/
def Obligations.PacketsReceived : Prop :=
  (∀ (s : State) (i d : Nat) (pkt : Packet) (l : Line), Arrived s pkt 3 → CarriesLine s i pkt l → NobodyWaits s →
      (s.coll i).desc.topology = 1 → (s.coll i).desc.myRank = 0 → l.length = 64 → Mem1.wf ramD s.mem.dram = true →
      let b := pkt.bucket.toNat
      let k := pkt.tile.toNat * (s.bucket i b).tileLines + pkt.offset.toNat
      k ∉ (s.bucket i b).written → s.lineDpa (s.coll i).part (s.bucket i b) k = some d →
    Completes (.result pkt) s fun t =>
      t.dramRead d 256 = lineBytes l ∧ DramOutside s t d 256 ∧ (∀ j, j ∈ (t.bucket i b).written ↔ j = k ∨ j ∈ (s.bucket i b).written)
        ∧ (t.bucket i b).status = (s.bucket i b).status ||| pkt.status ∧ Answered s t pkt 7 ∧ t.cores = s.cores)
  ∧ (∀ (s : State) (i d : Nat) (pkt : Packet), Arrived s pkt 4 → s.findColl pkt.key pkt.src.toNat [3, 4] = some i →
      pkt.addr.toNat + pkt.data.length ≤ (s.coll i).desc.recvBytes → pkt.sig = false → pkt.poison = [] →
      let va := (s.coll i).desc.recvVa + pkt.addr.toNat
      (s.touchWalks (s.coll i).part va pkt.data.length).xlateRangeAgent (s.coll i).part va pkt.data.length true
        = .inl [(d, pkt.data.length)] → Mem1.wf ramD s.mem.dram = true →
    Completes (.sendReceive pkt) s fun t =>
      t.dramRead d pkt.data.length = pkt.data ∧ DramOutside s t d pkt.data.length ∧ Answered s t pkt 7
        ∧ t.lnk.colls = s.lnk.colls ∧ t.wnd = s.wnd ∧ t.parts = s.parts ∧ t.cores = s.cores)
  ∧ (∀ (s : State) (i r : Nat) (pkt : Packet), s.running = true → s.lnk.recvPend = [pkt] → pkt.msg = 5 →
      s.findColl pkt.key pkt.src.toNat [2] = some i → pkt.rank.toNat < (s.coll i).desc.ranks → (s.coll i).desc.myRank = 0 →
      ((s.coll i).rankNode pkt.rank.toNat).1 = pkt.src.toNat → r < (s.coll i).desc.ranks → r ≠ pkt.rank.toNat →
      r ∉ (s.coll i).arrivals →
    Completes (.barrierArriveReceive pkt) s fun t =>
      (∀ k, k ∈ (t.coll i).arrivals ↔ k = pkt.rank.toNat ∨ k ∈ (s.coll i).arrivals) ∧ t.lnk.recvPend = []
        ∧ t.lnk.ctl = s.lnk.ctl ∧ (t.coll i).keptSignals = (s.coll i).keptSignals ∧ t = { s with lnk := t.lnk })
  ∧ (∀ (s : State) (i : Nat) (pkt : Packet), s.running = true → s.lnk.recvPend = [pkt] → pkt.msg = 6 →
      s.findColl pkt.key pkt.src.toNat [2] = some i → (s.coll i).desc.myRank ≠ 0 →
      ((s.coll i).rankNode 0).1 = pkt.src.toNat → (s.coll i).keptSignals = [] → s.time.sync = 0 →
    Completes (.barrierRelease pkt) s fun t =>
      t.lnk.recvPend = [] ∧ t.lnk.colls = s.lnk.colls ∧ t.time = s.time ∧ t.mem = s.mem ∧ t.wnd = s.wnd ∧ t.cores = s.cores)
  ∧ (∀ (s : State) (pkt : Packet) (c : Instr), s.running = true → s.lnk.recvPend = [pkt] →
      s.doneBefore pkt = false → s.closedBucket pkt.key pkt.bucket.toNat pkt.src.toNat = false →
      (∀ ks, s.findColl pkt.key pkt.src.toNat ks = none) →
      (c = .contrib pkt .clean ∧ pkt.msg = 1) ∨ (c = .partialSum pkt .clean ∧ pkt.msg = 2) ∨ (c = .result pkt ∧ pkt.msg = 3)
        ∨ (c = .sendReceive pkt ∧ pkt.msg = 4) ∨ (c = .barrierArriveReceive pkt ∧ pkt.msg = 5)
        ∨ (c = .barrierRelease pkt ∧ pkt.msg = 6) →
    exec c s = .next { s with lnk := { s.lnk with recvPend := [], unmatched := min (s.lnk.unmatched + 1) (2 ^ 32 - 1) } })
  ∧ (∀ (s : State) (pkt : Packet) (k : Nat), s.running = true → s.lnk.recvPend = [pkt] → pkt.msg = 7 → s.answered pkt = some k →
    exec (.ack pkt) s = .next { s with lnk := { s.lnk with recvPend := [], tx := s.lnk.tx.eraseIdx k } })
  ∧ (∀ (s : State) (pkt : Packet) (k : Nat), s.running = true → s.lnk.recvPend = [pkt] → pkt.msg = 8 → s.answered pkt = some k →
    exec (.busy pkt) s = .next { s with lnk := { s.lnk with
      recvPend := [], tx := s.lnk.tx.modify k (fun x => { x with busy := true }) } })
  ∧ (∀ (s : State) (pkt : Packet) (x : TxPacket), s.running = true → s.lnk.recvPend = [pkt] → pkt.msg = 9 → s.lnk.tx = [x] →
      x.port < 6 → x.busy = true → x.pkt.dst = pkt.src → x.pkt.key = pkt.key → x.pkt.bucket = pkt.bucket →
    exec (.wake pkt) s = .next (({ s with lnk := { s.lnk with recvPend := [], tx := [{ x with busy := false }] } } : State).emit
      x.port x.pkt))

/-- R423, R427, R436, R437, R439, R443, R522: (1) an ARM that fails a check changes no collective; (2) one that passes arms its
collective. (3) A bucket opens at its beat. (4) A late term is counted once per interval. (5), (6) A bucket gives up once, and a line
of this module's leaves out what has not come. (7) A bucket whose lines are all written completes and leaves its record. (8) A
PERMUTE whose beat has come has fired. (9) A core's effects of a route that stayed DOWN are dropped and mark their task; (10) so is
the traffic of the Tipples and COLL. -/
def Obligations.LifeOfABucket : Prop :=
  (∀ (s : State) (a : ArmReq) (r : Nat), s.running = true → s.lnk.armPending = [a] → s.armCheck a = .inr r →
    Completes .armDelivery s fun t =>
      t.lnk = { s.lnk with armPending := [] } ∧ t.mem = s.mem ∧ t.cores = s.cores ∧ t.wnd = s.wnd)
  ∧ (∀ (s : State) (a : ArmReq) (d : CollDesc) (ns : List (Nat × Nat)) (bs : List Bytes), s.running = true →
      s.lnk.armPending = [a] → s.armCheck a = .inl (d, ns, bs) → s.keysReady ns = true → s.armedColl a.part a.coll = none →
      (∀ e ∈ bs, s.time.beat.toNat < a.base + field e 8 4) →
    Completes .armDelivery s fun t =>
      t.lnk.armPending = [] ∧ t.lnk.colls = s.lnk.colls ++ [{ part := a.part, number := a.coll, desc := d, nodes := ns,
                                                              baseBeat := a.base, buckets := bs.map (armedBucket a.base) }]
        ∧ t = { s with lnk := t.lnk })
  ∧ (∀ (s : State) (key : BitVec 32) (b : Nat) (c : Coll) (x : Bucket), s.running = true → s.time.stopped = false →
      s.lnk.colls = [c] → c.desc.key = key → c.desc.kind = 1 → c.buckets[b]? = some x → x.st = .armed → x.tiles = [] →
      x.openBeat ≤ s.time.beat.toNat → s.lnk.tx = [] → s.lnk.keyWaiters = [] →
    Completes (.bucketOpen key b) s fun t =>
      t.bucket 0 b = { x with st := .opened, openedAt := s.time.counted }
        ∧ (∀ k, k ≠ b → t.bucket 0 k = s.bucket 0 k) ∧ t = { s with lnk := { s.lnk with colls := t.lnk.colls } })
  ∧ (∀ (s : State) (key : BitVec 32) (b k : Nat) (c : Coll) (x : Bucket) (y : TileSt) (n : Nat), s.running = true →
      s.lnk.colls = [c] → c.desc.key = key → c.desc.kind = 1 → c.buckets[b]? = some x → x.st = .opened → x.tiles[k]? = some y →
      y.waiting = some n → c.addsTile k = true →
      (if c.desc.lateBeats = 0 then 1024 else c.desc.lateBeats) * (y.lastLate + 1) ≤ s.openBeats x →
    Completes (.lateRank key b k) s fun t =>
      (t.bucket 0 b).tiles.getD k {} = { y with lastLate := y.lastLate + 1 } ∧ t.mem = s.mem ∧ t.cores = s.cores)
  ∧ (∀ (s : State) (key : BitVec 32) (b : Nat) (c : Coll) (x : Bucket), s.running = true → s.lnk.colls = [c] →
      c.desc.key = key → c.desc.kind = 1 → c.buckets[b]? = some x → x.st = .opened → x.gaveUp = false →
      c.desc.giveUpBeats ≠ 0 → c.desc.giveUpBeats ≤ s.openBeats x → (∀ k, k < x.tiles.length → c.addsTile k = false) →
      s.lnk.tx = [] →
    Completes (.bucketGiveUp key b) s fun t =>
      t.bucket 0 b = { x with gaveUp := true } ∧ t = { s with lnk := { s.lnk with colls := t.lnk.colls } })
  ∧ (∀ (s : State) (key : BitVec 32) (b : Nat) (c : Coll) (x : Bucket) (y : TileSt) (l : LineSt) (v : Line), s.running = true →
      s.lnk.colls = [c] → c.desc.key = key → c.desc.kind = 1 → c.buckets[b]? = some x → x.st = .opened → x.gaveUp = false →
      c.desc.giveUpBeats ≠ 0 → c.desc.giveUpBeats ≤ s.openBeats x → x.tiles = [y] → c.addsTile 0 = true → y.lines = [l] →
      l.acc = some v → l.held = [] → l.finished = false → s.lnk.tx = [] →
    Completes (.bucketGiveUp key b) s fun t =>
      t.lineOf 0 b 0 0 = { l with status := l.status ||| 0x09, gaveUp := true, finished := true }
        ∧ (t.bucket 0 b).gaveUp = true ∧ t.cores = s.cores ∧ t.wnd = s.wnd)
  ∧ (∀ (s : State) (key : BitVec 32) (b d : Nat) (c : Coll) (x : Bucket), s.running = true → s.lnk.colls = [c] →
      c.desc.key = key → c.desc.kind = 1 → c.buckets[b]? = some x → x.st = .opened → x.written.length = x.lines →
      x.tiles = [] → c.desc.completeEvents = false → s.wnd.serials = [] → s.lnk.tx = [] → Mem1.wf ramD s.mem.dram = true →
      (s.touchWalks c.part (c.desc.recordVa + 16 * b) 16).xlateRangeAgent c.part (c.desc.recordVa + 16 * b) 16 true
        = .inl [(d, 16)] →
    Completes (.bucketComplete key b) s fun t =>
      t.bucket 0 b = { x with st := .complete }
        ∧ t.dramRead d 16 = leBytes 1 x.status.toNat ++ leBytes 3 0 ++ leBytes 4 x.replaced ++ leBytes 8 s.stamp.toNat
        ∧ DramOutside s t d 16 ∧ t.cores = s.cores)
  ∧ (∀ (s : State) (key : BitVec 32) (c : Coll), s.running = true → s.lnk.colls = [c] → c.desc.key = key → c.desc.kind = 4 →
      c.permuteFired = false → c.baseBeat ≤ s.time.beat.toNat → c.permuteHeld = [] →
    exec (.permuteSignalRelease key) s
      = .next { s with lnk := { s.lnk with colls := [{ c with permuteFired := true }] } })
  ∧ (∀ (s : State) (n : Nat) (x : TxPacket) (k : TaskSt), s.running = true → n < 192 → s.lnk.tx = [x] → x.core = some n →
      s.deadPorts.contains x.port = true → s.task (s.core n).job (s.core n).task = some k →
    Completes (.linkEffectDropped n) s fun t =>
      t.lnk.tx = [] ∧ t.task (s.core n).job (s.core n).task = some { k with linkFail := true }
        ∧ t.mem = s.mem ∧ t.cores = s.cores)
  ∧ (∀ (s : State) (n : Nat) (x : TxPacket), s.running = true → 192 ≤ n → s.lnk.tx = [x] → x.core = none →
      s.deadPorts.contains x.port = true →
    Completes (.linkEffectDropped n) s fun t => t.lnk.tx = [] ∧ t = { s with lnk := t.lnk })


/-- R446, R453, R455, R456, R462 to R464, R473, R475: (1) a hardware error in a run that is judged ends it with that cause and is
counted. (2) In a free task's run it replays the task, which excludes the core, and repeats it there. (3) A residue check whose
residues agree finds nothing. (4) A clean repeat frees and counts its core; (5) a repeat with a hardware error fences it. (6) Equal
checksums of a pair stage its task and free the shadow; (7) an arbiter that agrees with the primary names the fenced shadow the
dissenter. -/
def Obligations.HardwareErrors : Prop :=
  (∀ (s : State) (n i : Nat) (k : HwKind) (pos : Fin 9), s.running = true → n < 192 → n < s.cores.length →
      (s.core n).phase = .executing → s.judged n = true → (s.core n).rel.length = 7 →
      checkFinds k = true → hwCounter k = some i →
    Completes (.hwErrorReplay n k pos) s (OnCore s n { s.core n with
      phase := .finished, stall := none, ended := some (.cause (.hardware (hwCode k) pos)),
      rel := (s.core n).rel.set i (min ((s.core n).rel.getD i 0 + 1) (2 ^ 32 - 1)) }))
  ∧ (∀ (s : State) (n ser : Nat) (j : Job) (x : TaskSt) (pos : Fin 9) (ps : List ((Int × Nat) × (Int × Nat)))
      (v : Int × Nat), predictedResidue ps ≠ residue15 v → s.running = true → n < 192 → n < s.cores.length →
      (s.core n).phase = .executing → s.wnd.jobs = [j] → s.wnd.serials = [ser] → (s.core n).job = ser → (s.core n).task = 0 →
      j.tasks = [x] → x.pair = none → x.heldGrant = false → x.st = .running → x.bound = false → j.phase = .live →
      j.ending = none → j.preds = [] → x.pred = 0xFF#8 → j.invalidated = true → x.discards + 1 < j.limit →
      (s.core n).kind = .run → s.wnd.clusters.getD (clusterOf n) .stopped = .restarting → j.part < s.parts.length →
    Completes (.hwErrorReplay n (.residue ps v) pos) s fun t =>
      (t.core n).phase = .waitClock ∧ (t.core n).kind = .repeatRun ∧ (t.core n).job = ser
        ∧ (t.part j.part).hwReplays = min ((s.part j.part).hwReplays + 1) (2 ^ 48 - 1)
        ∧ t.task ser 0 = some { x with st := .ready, discards := x.discards + 1, lastCore := n, runs := x.runs + 1,
                                       excludeCores := [n] }
        ∧ (∀ m, m ≠ n → t.core m = s.core m) ∧ t.mem = s.mem)
  ∧ (∀ (s : State) (n : Nat) (pos : Fin 9) (ps : List ((Int × Nat) × (Int × Nat))) (v : Int × Nat),
      predictedResidue ps = residue15 v → exec (.hwErrorReplay n (.residue ps v) pos) s = .next s)
  ∧ (∀ (s : State) (n : Nat) (crc : BitVec 64), s.running = true → n < s.cores.length → (s.core n).phase = .finished →
      (s.core n).ended = some (.clean crc) → (s.core n).kind = .repeatRun → (s.core n).dissentCrc = none →
      s.job (s.core n).job = none → (s.core n).rel.length = 7 →
    Completes (.repeatVerdict n) s fun t =>
      (t.core n).phase = .idle ∧ (t.core n).rel = (s.core n).rel.set 4 (min ((s.core n).rel.getD 4 0 + 1) (2 ^ 32 - 1))
        ∧ t.wnd.fenced = s.wnd.fenced ∧ (∀ m, m ≠ n → t.core m = s.core m) ∧ t.mem = s.mem)
  ∧ (∀ (s : State) (n k pos : Nat), s.running = true → n < s.cores.length → (s.core n).phase = .finished →
      (s.core n).ended = some (.cause (.hardware k pos)) → k ≠ 4 → (s.core n).kind = .repeatRun →
      (s.core n).dissentCrc = none → s.wnd.serials = [] → s.isFenced n = false →
    Completes (.repeatVerdict n) s fun t =>
      t.isFenced n = true ∧ (∀ m, m ≠ n → t.isFenced m = s.isFenced m) ∧ (t.core n).pillars = []
        ∧ t.flash.fenceEntries = s.flash.fenceEntries ++ [{
            router := false, reason := 2, row := (s.corePos n).1, column := (s.corePos n).2, core := BitVec.ofNat 16 n,
            hours := s.flash.hours, cycles := s.flash.powerCycles }])
  ∧ (∀ (s : State) (ser : Nat) (j : Job) (x : TaskSt) (p : Pair) (a : BitVec 64), s.running = true → s.wnd.jobs = [j] →
      s.wnd.serials = [ser] → j.tasks = [x] → x.pair = some p → p.miscompared = false → p.primary ≠ p.shadow →
      p.shadow < s.cores.length → s.endedRun ser 0 p.primary = some (.clean a) → s.endedRun ser 0 p.shadow = some (.clean a) →
      x.st = .running → j.phase = .live → j.ending = none → j.preds = [] →
    Completes (.shadowPairEnd ser 0) s fun t =>
      t.task ser 0 = some { x with pair := none, heldGrant := false, st := .staged } ∧ (t.core p.shadow).phase = .idle
        ∧ (∀ m, m ≠ p.shadow → t.core m = s.core m) ∧ t.mem = s.mem ∧ t.flash = s.flash)
  ∧ (∀ (s : State) (ser n : Nat) (j : Job) (x : TaskSt) (p : Pair) (a : BitVec 64), s.running = true → s.wnd.jobs = [j] →
      s.wnd.serials = [ser] → j.tasks = [x] → x.pair = some p → p.dissenter = none → p.arbiter = some n →
      s.endedRun ser 0 n = some (.clean a) → p.primaryCrc = some a → p.shadowCrc ≠ some a → s.isFenced p.shadow = true →
      (s.core p.shadow).rel.length = 7 → p.shadow < s.cores.length → x.st = .running → j.phase = .live → j.ending = none →
      j.preds = [] →
    Completes (.shadowMiscompare ser 0) s fun t =>
      t.task ser 0 = some { x with pair := none, heldGrant := false, st := .staged }
        ∧ t.core p.shadow = { s.core p.shadow with
            rel := (s.core p.shadow).rel.set 6 (min ((s.core p.shadow).rel.getD 6 0 + 1) (2 ^ 32 - 1)) }
        ∧ (∀ m, m ≠ p.shadow → t.core m = s.core m) ∧ t.mem = s.mem)

/-- R64, R464, R467, R468, R471, R473, R475: (1) a repeated mesh flit is counted at its router; (2) a failed edge router is
module-fatal; (3) a failed inner router that no run waits across stops injection and fences its idle core; (4) when its route-around
is in place injection resumes and the record gains its entry. -/
def Obligations.RouterFailures : Prop :=
  (∀ (s : State) (r c : Fin 16), s.running = true → s.mesh.retries.length = 256 →
    Completes (.meshFlitRetry r c) s fun t =>
      let k := 16 * r.val + c.val
      t.mesh = { s.mesh with retries := s.mesh.retries.set k (min (s.mesh.retries.getD k 0 + 1) (2 ^ 32 - 1)) }
        ∧ t = { s with mesh := t.mesh })
  ∧ (∀ (s : State) (r c : Fin 16) (k : RouterCause) (w : List (Nat × Nat)), s.running = true →
      s.mesh.failed.contains (r.val, c.val) = false → r.val = 0 ∨ r.val = 15 → s.mgt.fatal = false → s.wnd.serials = [] →
    Completes (.routerFailed r c k w) s fun t =>
      t.mgt.fatal = true ∧ t.pwr = { s.pwr with faultN := true } ∧ t.mgt.events.getLsbD 9 = true ∧ t.mesh = s.mesh
        ∧ t.mem = s.mem ∧ t.cores = s.cores)
  ∧ (∀ (s : State) (r c : Fin 16) (k : RouterCause) (w : List (Nat × Nat)) (n : Nat), s.running = true → s.mesh.failed = [] → 0 < r.val →
      r.val < 15 → s.coreAt r c = some n → (s.core n).phase = .idle → s.isFenced n = false → s.wnd.serials = [] →
      (∀ m, m < 192 → s.waitsAcross w (r.val, c.val) m = false) →
    Completes (.routerFailed r c k w) s fun t =>
      t.mesh = { s.mesh with failed := [(r.val, c.val)], injectStopped := true } ∧ t.isFenced n = true
        ∧ (∀ m, m ≠ n → t.core m = s.core m) ∧ t.mem = s.mem)
  ∧ (∀ (s : State) (r c : Fin 16) (k : RouterCause), s.running = true → s.mesh.failed = [(r.val, c.val)] →
      s.flash.fenceEntries = [] →
    Completes (.routeAroundResume r c k) s fun t =>
      t.mesh = { s.mesh with injectStopped := false }
        ∧ t.flash.fenceEntries = [{ router := true, reason := 4, row := r, column := c, core := 0xFFFF,
                                    hours := s.flash.hours, cycles := s.flash.powerCycles }]
        ∧ t.cores = s.cores ∧ t.wnd = s.wnd ∧ t.mem = s.mem)
/-- R477, R479, R481 to R485, R488: (1) GO with a completed read queues a request, (2) with a failed one nothing. The request at the
front is answered: (3) GET_IDENTITY with the endorsement record, (4) ATTEST with a report that names the module, firmware, time and
nonce and is signed, (5) GET_CHALLENGE with 32 random bytes that become the current challenge. (6) A type that the mailbox may not
send is DENIED, (7) a reserved type MALFORMED. -/
def Obligations.MailboxBasics : Prop :=
  (∀ (s : State) (k : Fin 4) (f : Fin 8) (b : Bytes), s.running = true → k.val < s.linkCount → k.val < s.links.length →
      f.val < (s.link k).fns.length → (s.fn k f).mboxBusy = false →
    Completes (.mailboxGo k f (.ok b)) s fun t =>
      t.sec = { s.sec with queue := s.sec.queue ++ [{ win := .func k f, req := b }] }
        ∧ t.fn k f = { s.fn k f with mboxBusy := true } ∧ t = { s with sec := t.sec, links := t.links })
  ∧ (∀ (s : State) (k : Fin 4) (f : Fin 8) (r : HostRead), (∀ b, r ≠ .ok b) → exec (.mailboxGo k f r) s = .next s)
  ∧ (∀ (s : State) (m : Mbox) (rest : List Mbox), AsksMgmt s m rest 1 9891 → m.formed (· == 64) = true →
    Completes .getIdentity s fun t =>
      AnsweredMgmt t m rest 0 0 (s.flashRead 0x22000 9827) ∧ t = { s with sec := t.sec })
  ∧ (∀ (s : State) (m : Mbox) (rest : List Mbox), AsksMgmt s m rest 2 5251 → m.formed (· == 128) = true →
      byteAt m.req 2 < 8 ∨ byteAt m.req 2 = 0xFF →
    Completes .attest s fun t =>
      (∃ r, AnsweredMgmt t m rest 0 0 r ∧ r.length = 5187 ∧ r.take 4 = leBytes 4 0x4C584154
          ∧ (r.drop 8).take 8 = leBytes 8 s.flash.dsn.toNat ∧ (r.drop 16).take 4 = leBytes 4 s.flash.fwVersion.toNat
          ∧ (r.drop 32).take 8 = leBytes 8 s.stamp.toNat ∧ (r.drop 48).take 64 = sliceBytes ((m.req.drop 64).take 64) 0 64
          ∧ r.drop 560 = sliceBytes (Config.identitySign (r.take 560) (ascii "LX960-ATTEST")) 0 4627)
        ∧ t = { s with sec := t.sec })
  ∧ (∀ (s : State) (m : Mbox) (rest : List Mbox), AsksMgmt s m rest 3 96 → m.formed (· == 64) = true →
    Completes .getChallenge s fun t =>
      (∃ c : Bytes, c.length = 32 ∧ t.sec.challenge = some c ∧ AnsweredMgmt t m rest 0 0 c)
        ∧ t = { s with sec := t.sec, fresh := t.fresh })
  ∧ (∀ (s : State) (m : Mbox) (rest : List Mbox), AsksMgmt s m rest 0x20 64 →
    Completes .sessionHello s fun t => AnsweredMgmt t m rest 2 0 [] ∧ t = { s with sec := t.sec })
  ∧ (∀ (s : State) (m : Mbox) (rest : List Mbox) (ty : Nat), typeRights ty = none → AsksMgmt s m rest ty 64 →
    Completes .mailboxReservedType s fun t => AnsweredMgmt t m rest 1 0 [] ∧ t = { s with sec := t.sec })

/-- R365, R487, R488, R490 to R492, R495: (1) an enrolment record whose fields and signature verify is written to erased flash; (2) one
whose signature fails is not. (3) An owner message without the current challenge is STALE. (4) A verified OWNER_RELEASE clears the
policy and erases the owner area; (6) a verified PARTITION_RESET gives the partition a new key and zeros; (8) a verified END_SESSION
ends its session; (5), (7), (9) an unverified one uses up the challenge and nothing else. (10) A policy with a fault is refused with
its DETAIL; (11), (12) one without is applied: each partition that it makes VALID starts zeroing. (13) Zeroing ends with the alias
tables in place. -/
def Obligations.OwnerAndPolicy : Prop :=
  (∀ (s : State) (m : Mbox) (rest : List Mbox), AsksMgmt s m rest 0x10 64 →
      let r := (m.req.drop 64).take 7235
      m.formed (· == 7299) = true → field r 0 4 = 0x4C584F57 → field r 4 4 = 1 → field r 8 8 = s.flash.dsn.toNat →
      (s.flashRead 0x50000 7235).all (· == 0xFF#8) = true → Mem1.wf flashD s.flash.bytes = true →
      Config.mldsaVerify ((r.drop 16).take 2592) (r.take 2608) (ascii "LX960-OWNER-ENROL") (r.drop 2608) = true →
    Completes .ownerEnrol s fun t =>
      AnsweredMgmt t m rest 0 0 [] ∧ t.flashRead 0x50000 7235 = r ∧ FlashOutside s t 0x50000 7235 ∧ t.mem = s.mem
        ∧ t.parts = s.parts)
  ∧ (∀ (s : State) (m : Mbox) (rest : List Mbox), AsksMgmt s m rest 0x10 64 →
      let r := (m.req.drop 64).take 7235
      m.formed (· == 7299) = true → field r 0 4 = 0x4C584F57 → field r 4 4 = 1 → field r 8 8 = s.flash.dsn.toNat →
      (s.flashRead 0x50000 7235).all (· == 0xFF#8) = true →
      Config.mldsaVerify ((r.drop 16).take 2592) (r.take 2608) (ascii "LX960-OWNER-ENROL") (r.drop 2608) = false →
    Completes .ownerEnrol s fun t => AnsweredMgmt t m rest 3 0 [] ∧ t = { s with sec := t.sec })
  ∧ (∀ (s : State) (m : Mbox) (rest : List Mbox) (c : Instr), s.ownerEnrolled = true → m.formed (· == 4731) = true →
      s.sec.challenge = none →
      (c = .ownerRelease ∧ AsksMgmt s m rest 0x11 64) ∨ (c = .partitionReset ∧ AsksMgmt s m rest 0x13 64 ∧ byteAt m.req 96 ≠ 2)
        ∨ (c = .endSession ∧ AsksMgmt s m rest 0x13 64 ∧ byteAt m.req 96 = 2) →
    Completes c s fun t => AnsweredMgmt t m rest 4 0 [] ∧ t = { s with sec := t.sec })
  ∧ (∀ (s : State) (m : Mbox) (rest : List Mbox), AsksMgmt s m rest 0x11 64 → s.ownerEnrolled = true →
      m.formed (· == 4731) = true → s.sec.challenge = some ((m.req.drop 64).take 32) → field m.req 96 8 = s.flash.dsn.toNat →
      (∀ p, p < 8 → (s.part p).valid = false) → Mem1.wf flashD s.flash.bytes = true →
      Config.mldsaVerify s.ownerPk ((m.req.drop 64).take 40) (ascii "LX960-OWNER-CMD") ((m.req.drop 104).take 4627) = true →
    Completes .ownerRelease s fun t =>
      AnsweredMgmt t m rest 0 0 [] ∧ t.sec.challenge = none ∧ t.sec.policyApplied = none
        ∧ (∀ a, a < 65536 → t.flashRead (0x50000 + a) 1 = [0xFF#8]) ∧ FlashOutside s t 0x50000 65536 ∧ t.mem = s.mem
        ∧ t.parts = s.parts)
  ∧ (∀ (s : State) (m : Mbox) (rest : List Mbox), AsksMgmt s m rest 0x11 64 → s.ownerEnrolled = true →
      m.formed (· == 4731) = true → s.sec.challenge = some ((m.req.drop 64).take 32) →
      Config.mldsaVerify s.ownerPk ((m.req.drop 64).take 40) (ascii "LX960-OWNER-CMD") ((m.req.drop 104).take 4627) = false →
    Completes .ownerRelease s fun t =>
      AnsweredMgmt t m rest 3 0 [] ∧ t.sec.challenge = none ∧ t = { s with sec := t.sec })
  ∧ (∀ (s : State) (m : Mbox) (rest : List Mbox), AsksMgmt s m rest 0x13 64 → s.ownerEnrolled = true →
      m.formed (· == 4731) = true → s.sec.challenge = some ((m.req.drop 64).take 32) → byteAt m.req 96 = 1 →
      let p := byteAt m.req 97
      p < 8 → p < s.parts.length → zeroBytes m.req 98 103 = true → (s.part p).valid = true → (s.part p).flag 0 = true →
      s.wnd.jobs = [] → s.wnd.serials = [] → (∀ x ∈ rest, x.moved = false) → Mem1.wf ramD s.mem.dram = true →
      Config.mldsaVerify s.ownerPk ((m.req.drop 64).take 40) (ascii "LX960-OWNER-CMD") ((m.req.drop 104).take 4627) = true →
    Completes .partitionReset s fun t =>
      AnsweredMgmt t m rest 0 0 [] ∧ t.sec.challenge = none
        ∧ t.part p = { valid := true, policy := (s.part p).policy, zeroing := true, keySerial := some (s.sec.keySerial + 1) }
        ∧ (∀ a, Mem1.get ramD t.mem.dram a = if (s.part p).owns a then 0 else Mem1.get ramD s.mem.dram a))
  ∧ (∀ (s : State) (m : Mbox) (rest : List Mbox), AsksMgmt s m rest 0x13 64 → s.ownerEnrolled = true →
      m.formed (· == 4731) = true → s.sec.challenge = some ((m.req.drop 64).take 32) → byteAt m.req 96 ≠ 2 →
      Config.mldsaVerify s.ownerPk ((m.req.drop 64).take 40) (ascii "LX960-OWNER-CMD") ((m.req.drop 104).take 4627) = false →
    Completes .partitionReset s fun t =>
      AnsweredMgmt t m rest 3 0 [] ∧ t.sec.challenge = none ∧ t = { s with sec := t.sec })
  ∧ (∀ (s : State) (m : Mbox) (rest : List Mbox), AsksMgmt s m rest 0x13 64 → s.ownerEnrolled = true →
      m.formed (· == 4731) = true → s.sec.challenge = some ((m.req.drop 64).take 32) → byteAt m.req 96 = 2 →
      let p := byteAt m.req 97
      p < 8 → p < s.parts.length → zeroBytes m.req 98 103 = true →
      Config.mldsaVerify s.ownerPk ((m.req.drop 64).take 40) (ascii "LX960-OWNER-CMD") ((m.req.drop 104).take 4627) = true →
    Completes .endSession s fun t =>
      AnsweredMgmt t m rest 0 0 [] ∧ t.sec.challenge = none ∧ t.part p = { s.part p with session := none } ∧ t.mem = s.mem)
  ∧ (∀ (s : State) (m : Mbox) (rest : List Mbox), AsksMgmt s m rest 0x13 64 → s.ownerEnrolled = true →
      m.formed (· == 4731) = true → s.sec.challenge = some ((m.req.drop 64).take 32) → byteAt m.req 96 = 2 →
      Config.mldsaVerify s.ownerPk ((m.req.drop 64).take 40) (ascii "LX960-OWNER-CMD") ((m.req.drop 104).take 4627) = false →
    Completes .endSession s fun t =>
      AnsweredMgmt t m rest 3 0 [] ∧ t.sec.challenge = none ∧ t = { s with sec := t.sec })
  ∧ (∀ (s : State) (m : Mbox) (rest : List Mbox) (d : Nat), AsksMgmt s m rest 0x12 64 → m.formed (· == 6035) = true →
      s.policyFault (m.req.drop 64) = some d →
    Completes .policySet s fun t => AnsweredMgmt t m rest 5 d [] ∧ t = { s with sec := t.sec })
  ∧ (∀ (s : State) (m : Mbox) (rest : List Mbox), AsksMgmt s m rest 0x12 64 → m.formed (· == 6035) = true →
      (∀ p, p < 8 → (s.part p).valid = false ∧ bitOf (byteAt (policyEntry (m.req.drop 64) p) 0) 0 = false) →
      s.policyFault (m.req.drop 64) = none →
    Completes .policySet s fun t =>
      AnsweredMgmt t m rest 0 0 [] ∧ t.sec.policyApplied = some (m.req.drop 64) ∧ t.sec.lastSeq = some (field m.req 80 8)
        ∧ t.parts = s.parts ∧ t.mem = s.mem)
  ∧ (∀ (s : State) (m : Mbox) (rest : List Mbox), AsksMgmt s m rest 0x12 64 → m.formed (· == 6035) = true →
      s.parts.length = 8 → (∀ p, p < 8 → (s.part p).valid = false) → s.wnd.jobs = [] → s.wnd.serials = [] →
      (∀ x ∈ rest, x.moved = false) → s.policyFault (m.req.drop 64) = none →
    Completes .policySet s fun t =>
      AnsweredMgmt t m rest 0 0 [] ∧ t.sec.policyApplied = some (m.req.drop 64)
        ∧ (∀ p, p < 8 → bitOf (byteAt (policyEntry (m.req.drop 64) p) 0) 0 = true →
            (t.part p).valid = true ∧ (t.part p).policy = policyEntry (m.req.drop 64) p ∧ (t.part p).zeroing = true)
        ∧ (∀ p, p < 8 → bitOf (byteAt (policyEntry (m.req.drop 64) p) 0) 0 = false → t.part p = s.part p))
  ∧ (∀ (s : State) (p : Fin 8), s.running = true → (s.part p).valid = true → (s.part p).zeroing = true →
      0 < (s.part p).capacity → Mem1.wf ramD s.mem.dram = true → p.val < s.parts.length →
    Completes (.partitionZeroingDone p) s fun t =>
      t.part p = { s.part p with zeroing := false }
        ∧ t.dramRead ((s.part p).root + 0x10000) 8 = leBytes 8 ((s.part p).root + 0x2000D)
        ∧ t.cores = s.cores ∧ t.wnd = s.wnd)

/-- R482, R495, R496, R498 to R501: (1) HELLO leaves an offer under a new SESSION_ID, and the active session as it was. CONFIRM (2)
without an offer, (3) for another SESSION_ID or (4) with an envelope that does not open is a failed session; (5) one that opens and
confirms becomes the active session. (6) A tenant command needs a session and (7) an envelope that opens: (8) END_SESSION ends the
session, (9) PARTITION_RESET resets the partition, (10) any other plaintext is MALFORMED. (11) A plaintext IMPORT writes its bytes
where the partition allows it; (12) EXPORT seals the partition's bytes into host memory under the session's next SEQ. -/
def Obligations.TenantSessions : Prop :=
  (∀ (s : State) (m : Mbox) (rest : List Mbox) (k : Fin 4) (f : Fin 8), AsksTenant s m rest k f 0x20 6883 →
      m.formed (· == 1664) = true →
    Completes .sessionHello s fun t =>
      let p := byteAt m.req 2
      (∃ (o : Session) (b : Bytes), (t.part p).offer = some o ∧ o.id.toNat = (s.sec.sessionSerial + 1) % 2 ^ 32
          ∧ AnsweredTenant t m rest k f 0 0 b ∧ field b 0 4 = o.id.toNat ∧ zeroBytes b 4 31 = true)
        ∧ (t.part p).session = (s.part p).session ∧ t.mem = s.mem ∧ t.cores = s.cores)
  ∧ (∀ (s : State) (m : Mbox) (rest : List Mbox) (k : Fin 4) (f : Fin 8), AsksTenant s m rest k f 0x21 64 →
      m.formed (fun n => decide (192 ≤ n)) = true → zeroBytes m.req 68 127 = true → (s.part (byteAt m.req 2)).offer = none →
    Completes .sessionConfirm s fun t => AnsweredTenant t m rest k f 8 0 [] ∧ t.parts = s.parts ∧ t.mem = s.mem)
  ∧ (∀ (s : State) (m : Mbox) (rest : List Mbox) (k : Fin 4) (f : Fin 8) (o : Session), AsksTenant s m rest k f 0x21 64 →
      m.formed (fun n => decide (192 ≤ n)) = true → zeroBytes m.req 68 127 = true →
      (s.part (byteAt m.req 2)).offer = some o → o.id.toNat ≠ field m.req 64 4 →
    Completes .sessionConfirm s fun t => AnsweredTenant t m rest k f 8 0 [] ∧ t.parts = s.parts ∧ t.mem = s.mem)
  ∧ (∀ (s : State) (m : Mbox) (rest : List Mbox) (k : Fin 4) (f : Fin 8) (o : Session), AsksTenant s m rest k f 0x21 64 →
      m.formed (fun n => decide (192 ≤ n)) = true → zeroBytes m.req 68 127 = true →
      (s.part (byteAt m.req 2)).offer = some o → o.openWith (byteAt m.req 2) (m.req.drop 128) = none →
    Completes .sessionConfirm s fun t => AnsweredTenant t m rest k f 8 0 [] ∧ t.parts = s.parts ∧ t.mem = s.mem)
  ∧ (∀ (s : State) (m : Mbox) (rest : List Mbox) (k : Fin 4) (f : Fin 8) (o : Session) (b : Bytes),
      AsksTenant s m rest k f 0x21 64 →
      m.formed (fun n => decide (192 ≤ n)) = true → zeroBytes m.req 68 127 = true →
      let p := byteAt m.req 2
      (s.part p).offer = some o → o.id.toNat = field m.req 64 4 → o.openWith p (m.req.drop 128) = some (0, b) →
      (s.part p).confirms o.hash b = true →
    Completes .sessionConfirm s fun t =>
      AnsweredTenant t m rest k f 0 0 [] ∧ t.part p = { s.part p with session := some (o.accept 0), offer := none }
        ∧ t.mem = s.mem)
  ∧ (∀ (s : State) (m : Mbox) (rest : List Mbox) (k : Fin 4) (f : Fin 8), AsksTenant s m rest k f 0x22 64 →
      m.formed (fun n => decide (128 ≤ n)) = true → (s.part (byteAt m.req 2)).session = none →
    Completes .tenantPartitionReset s fun t => AnsweredTenant t m rest k f 7 0 [] ∧ t.parts = s.parts ∧ t.mem = s.mem)
  ∧ (∀ (s : State) (m : Mbox) (rest : List Mbox) (k : Fin 4) (f : Fin 8) (x : Session), AsksTenant s m rest k f 0x22 64 →
      m.formed (fun n => decide (128 ≤ n)) = true → (s.part (byteAt m.req 2)).session = some x →
      x.openWith (byteAt m.req 2) (m.req.drop 64) = none →
    Completes .tenantPartitionReset s fun t => AnsweredTenant t m rest k f 8 0 [] ∧ t.parts = s.parts ∧ t.mem = s.mem)
  ∧ (∀ (s : State) (m : Mbox) (rest : List Mbox) (k : Fin 4) (f : Fin 8) (x : Session) (q : Nat) (b : Bytes),
      AsksTenant s m rest k f 0x22 64 → m.formed (fun n => decide (128 ≤ n)) = true →
      let p := byteAt m.req 2
      (s.part p).session = some x → x.openWith p (m.req.drop 64) = some (q, b) → tenantCode b = 2 →
    Completes .tenantEndSession s fun t =>
      AnsweredTenant t m rest k f 0 0 [] ∧ t.part p = { s.part p with session := none } ∧ t.mem = s.mem)
  ∧ (∀ (s : State) (m : Mbox) (rest : List Mbox) (k : Fin 4) (f : Fin 8) (x : Session) (q : Nat) (b : Bytes),
      AsksTenant s m rest k f 0x22 64 → m.formed (fun n => decide (128 ≤ n)) = true →
      let p := byteAt m.req 2
      (s.part p).session = some x → x.openWith p (m.req.drop 64) = some (q, b) → tenantCode b = 1 → s.wnd.jobs = [] →
      s.wnd.serials = [] → (s.part p).flag 0 = true → (∀ y ∈ rest, y.moved = false) →
    Completes .tenantPartitionReset s fun t =>
      AnsweredTenant t m rest k f 0 0 [] ∧ (t.part p).zeroing = true ∧ (t.part p).session = none
        ∧ (t.part p).policy = (s.part p).policy)
  ∧ (∀ (s : State) (m : Mbox) (rest : List Mbox) (k : Fin 4) (f : Fin 8) (x : Session) (q : Nat) (b : Bytes),
      AsksTenant s m rest k f 0x22 64 → m.formed (fun n => decide (128 ≤ n)) = true →
      let p := byteAt m.req 2
      (s.part p).session = some x → x.openWith p (m.req.drop 64) = some (q, b) → tenantCode b = 0 →
    Completes .tenantPartitionReset s fun t =>
      AnsweredTenant t m rest k f 1 0 [] ∧ t.part p = { s.part p with session := some (x.accept q) } ∧ t.mem = s.mem)
  ∧ (∀ (s : State) (m : Mbox) (rest : List Mbox) (k : Fin 4) (f : Fin 8) (b : Bytes) (d : Nat),
      AsksTenant s m rest k f 0x30 72 → m.formed (· == 96) = true → field m.req 64 8 % 64 = 0 → field m.req 72 4 = 1 →
      byteAt m.req 76 = 1 → zeroBytes m.req 77 79 = true → (s.part (byteAt m.req 2)).flag 2 = true →
      field m.req 88 4 = b.length →
      s.xlateRangeAgent (byteAt m.req 2) (field m.req 64 8) b.length true = .inl [(d, b.length)] →
      Mem1.wf ramD s.mem.dram = true →
    Completes (.importData [.ok b]) s fun t =>
      AnsweredTenant t m rest k f 0 0 (leBytes 8 1) ∧ t.dramRead d b.length = b ∧ DramOutside s t d b.length
        ∧ t.parts = s.parts ∧ t.cores = s.cores)
  ∧ (∀ (s : State) (m : Mbox) (rest : List Mbox) (k : Fin 4) (f : Fin 8) (x : Session) (d : Nat), AsksTenant s m rest k f 0x31 80 →
      m.formed (· == 88) = true → field m.req 72 4 = 64 → field m.req 76 4 = 64 →
      let p := byteAt m.req 2
      let va := field m.req 64 8
      (s.part p).session = some x → s.xlateRangeAgent p va 64 false = .inl [(d, 64)] →
      ((s.touchWalks p va 64).touchPieces [(d, 64)]).dramPoisoned d 64 = false → field m.req 80 8 + 128 ≤ field m.req 8 8 →
    Completes .exportData s fun t =>
      AnsweredTenant t m rest k f 0 0 (leBytes 8 1 ++ leBytes 8 x.outSeq)
        ∧ Mem1.read ramD (t.link k).hostMem (hostKey f (field m.req 80 8)) 128 = (x.seal p (s.dramRead d 64)).2
        ∧ t.part p = { s.part p with session := some { x with outSeq := x.outSeq + 1 } } ∧ t.mem.dram = s.mem.dram)

/-- R422, R503, R504: (1) an offer names its nodes and is kept for its node. (2) A verified offer is accepted: the accept is returned and
fresh keys for its node are in place, counters at 0; (3) another is refused with its STATUS. (4) A finish without an offer is STALE;
(5) one whose accept verifies installs the keys, (6) another is refused. -/
def Obligations.RelayedLinkKeys : Prop :=
  (∀ (s : State) (m : Mbox) (rest : List Mbox), AsksMgmt s m rest 0x40 13646 → m.formed (fun n => decide (66 ≤ n)) = true →
      s.nodeId < field m.req 64 2 → field m.req 64 2 < 4096 → s.flash.identityPk.length = 2592 →
    Completes .linkOffer s fun t =>
      (∃ o sk : Bytes, AnsweredMgmt t m rest 0 0 o ∧ o.length = 13582 ∧ field o 0 2 = s.nodeId ∧ field o 2 2 = field m.req 64 2
          ∧ field o 4 4 = s.flash.fwVersion.toNat
          ∧ t.lnk.offers = s.lnk.offers.filter (fun x => x.1 != field m.req 64 2) ++ [(field m.req 64 2, o, sk)])
        ∧ t = { s with sec := t.sec, lnk := { s.lnk with offers := t.lnk.offers }, fresh := t.fresh })
  ∧ (∀ (s : State) (m : Mbox) (rest : List Mbox), AsksMgmt s m rest 0x41 13710 → m.formed (fun n => decide (66 ≤ n)) = true →
      let src := field (m.req.drop 64) 0 2
      src < s.nodeId → s.lnk.tx = [] → (∀ x ∈ s.lnk.ports, x.txq = [] ∧ x.replay = []) → s.flash.identityPk.length = 2592 →
      s.linkStatus (m.req.drop 64) src none = 0 →
    Completes .linkAccept s fun t =>
      (∃ a : Bytes, AnsweredMgmt t m rest 0 0 a ∧ a.length = 13646 ∧ field a 0 2 = s.nodeId ∧ field a 2 2 = src)
        ∧ (∃ key : LinkKey, t.lnk.keys = s.lnk.keys.filter (fun x => x.node != src) ++ [key] ∧ key.node = src
            ∧ key.ctrOut = [0, 0, 0, 0] ∧ key.ctrIn = [0, 0, 0, 0] ∧ key.refused = false)
        ∧ t.mem = s.mem ∧ t.cores = s.cores)
  ∧ (∀ (s : State) (m : Mbox) (rest : List Mbox), AsksMgmt s m rest 0x41 13710 → m.formed (fun n => decide (66 ≤ n)) = true →
      let src := field (m.req.drop 64) 0 2
      src < s.nodeId → s.linkStatus (m.req.drop 64) src none ≠ 0 →
    Completes .linkAccept s fun t =>
      AnsweredMgmt t m rest (s.linkStatus (m.req.drop 64) src none) 0 [] ∧ t = { s with sec := t.sec })
  ∧ (∀ (s : State) (m : Mbox) (rest : List Mbox), AsksMgmt s m rest 0x42 64 → m.formed (fun n => decide (66 ≤ n)) = true →
      s.lnk.offers = [] →
    Completes .linkFinish s fun t => AnsweredMgmt t m rest 4 0 [] ∧ t = { s with sec := t.sec })
  ∧ (∀ (s : State) (m : Mbox) (rest : List Mbox) (offer sk : Bytes), AsksMgmt s m rest 0x42 64 →
      m.formed (fun n => decide (66 ≤ n)) = true →
      let src := field (m.req.drop 64) 0 2
      s.lnk.offers = [(src, offer, sk)] → s.lnk.tx = [] → (∀ x ∈ s.lnk.ports, x.txq = [] ∧ x.replay = []) →
      s.linkStatus (m.req.drop 64) src (some (sliceBytes (Config.sha3_512 offer) 0 64)) = 0 →
    Completes .linkFinish s fun t =>
      AnsweredMgmt t m rest 0 0 [] ∧ t.lnk.offers = []
        ∧ (∃ key : LinkKey, t.lnk.keys = s.lnk.keys.filter (fun x => x.node != src) ++ [key] ∧ key.node = src
            ∧ key.ctrOut = [0, 0, 0, 0] ∧ key.ctrIn = [0, 0, 0, 0] ∧ key.refused = false)
        ∧ t.mem = s.mem ∧ t.cores = s.cores)
  ∧ (∀ (s : State) (m : Mbox) (rest : List Mbox) (offer sk : Bytes), AsksMgmt s m rest 0x42 64 →
      m.formed (fun n => decide (66 ≤ n)) = true →
      let src := field (m.req.drop 64) 0 2
      let st := s.linkStatus (m.req.drop 64) src (some (sliceBytes (Config.sha3_512 offer) 0 64))
      s.lnk.offers = [(src, offer, sk)] → st ≠ 0 →
    Completes .linkFinish s fun t => AnsweredMgmt t m rest st 0 [] ∧ t = { s with sec := t.sec })


/-- R12, R103, R106, R107, R112, R543 to R546, R549, R557: (1) a write that is misaligned or meets no register is refused and
counted. (2), (4) An unlocked field takes the written bits and no other bit; (3), (5) a locked one keeps its value and counts a
violation. (6) A 1 written to an event bit clears it. (7) A word of the MSI-X table is written through BAR2, (8) PowerState through
configuration space, which answers in D3hot, (9) where a write to BAR0 reaches nothing. -/
def Obligations.RegisterWrites : Prop :=
  (∀ (s : State) (k : Fin 4) (f : Fin 8) (v : BitVec 64), Reaches s k f →
    Completes (.registerWrite (.func k f) 0x019 8 v) s
        (OnFn s k f { s.fn k f with errCount := min ((s.fn k f).errCount + 1) (2 ^ 32 - 1) })
      ∧ Completes (.registerWrite (.func k f) 0x0F0 8 v) s
        (OnFn s k f { s.fn k f with errCount := min ((s.fn k f).errCount + 1) (2 ^ 32 - 1) }))
  ∧ (∀ (s : State) (k : Fin 4) (f : Fin 8) (v : BitVec 64), Reaches s k f → (s.fn k f).locked = false → (s.fn k f).sq.en = false →
    Completes (.registerWrite (.func k f) 0x020 8 v) s
      (OnFn s k f { s.fn k f with sq := { (s.fn k f).sq with base := v } }))
  ∧ (∀ (s : State) (k : Fin 4) (f : Fin 8) (v : BitVec 64), Reaches s k f → (s.fn k f).locked = true →
    Completes (.registerWrite (.func k f) 0x020 8 v) s
      (OnFn s k f { s.fn k f with lockViol := min ((s.fn k f).lockViol + 1) (2 ^ 32 - 1) }))
  ∧ (∀ (s : State) (v : BitVec 64), Reaches s 0 0 → s.mgt.locked = false →
    exec (.registerWrite (.func 0 0) 0x11008 8 v) s
      = .next { s with mem := { s.mem with retireCfg := (s.mem.retireCfg &&& ~~~0xFF#64) ||| (v &&& 0xFF#64) } })
  ∧ (∀ (s : State) (v : BitVec 64), Reaches s 0 0 → s.mgt.locked = true →
    exec (.registerWrite (.func 0 0) 0x11008 8 v) s
      = .next { s with mem := { s.mem with memcLockViol := min (s.mem.memcLockViol + 1) (2 ^ 32 - 1) } })
  ∧ (∀ (s : State) (v : BitVec 64), s.pwr.phase = .running →
    exec (.registerWrite .mgmt 0x15020 8 v) s
      = .next { s with mgt := { s.mgt with events := s.mgt.events &&& ~~~(v &&& 0x7FF#64) } })
  ∧ (∀ (s : State) (k : Fin 4) (f : Fin 8) (v : BitVec 64), Reaches s k f → (s.fn k f).msixPba = List.replicate 4 false →
      (s.fn k f).msixTable.length = 4 →
    Completes (.registerWrite (.bar2 k f) 0x010 8 v) s
      (OnFn s k f { s.fn k f with msixTable := (s.fn k f).msixTable.set 1 { (s.fn k f).msixTable.getD 1 {} with addr := v } }))
  ∧ (∀ (s : State) (k : Fin 4) (v : BitVec 64), s.linkUp k = true → k.val < s.links.length → 0 < (s.link k).fns.length →
      (s.fn k 0).d3hot = true → (s.fn k 0).msixPba = List.replicate 4 false → v.toNat % 4 = 0 →
    Completes (.registerWrite (.config k 0) 0x044 4 v) s (OnFn s k 0 { s.fn k 0 with d3hot := false }))
  ∧ (∀ (s : State) (k : Fin 4) (f : Fin 8) (o size : Nat) (v : BitVec 64), (s.fn k f).d3hot = true →
    exec (.registerWrite (.func k f) o size v) s = .next s)

/-- R112, R118, R213, R214, R521, R524, R545, R549, R550, R555, R556: (1) enabling a ring that is set up as R112 asks starts it empty,
(2) else it sets the configuration-error bit. (3) Enabling doorbells with an aligned address starts them idle, (4) else it sets
that bit. (5) to (7) A lock, once set, stays. (8) A sample returns the record of the partition's epoch on a core that holds a run,
(9) else the last closed one. (10) SYNC arms an adoption and is not disarmed by writing 0. (11) Enabling a trace takes its region
up from the start. -/
def Obligations.EnablesAndLocks : Prop :=
  (∀ (s : State) (k : Fin 4) (f : Fin 8), Reaches s k f → (s.fn k f).locked = false → (s.fn k f).sq.en = false →
      (s.fn k f).cq.en = true → (s.fn k f).eq.en = true → (s.fnPart k f).isSome = true → (s.fn k f).sq.base.toNat % 4096 = 0 →
      (s.fn k f).sq.size.toNat % 2 ^ 17 ∈ [16, 32, 64, 128, 256, 512, 1024, 2048, 4096, 8192, 16384, 32768, 65536] →
    Completes (.ringEnable k f 1) s
      (OnFn s k f { s.fn k f with sq := { en := true, base := (s.fn k f).sq.base, size := (s.fn k f).sq.size } }))
  ∧ (∀ (s : State) (k : Fin 4) (f : Fin 8), Reaches s k f → (s.fn k f).locked = false → (s.fn k f).sq.en = false →
      (s.fn k f).cq.en = true → (s.fn k f).eq.en = true →
      (s.fnPart k f).isSome = false ∨ (s.fn k f).sq.base.toNat % 4096 ≠ 0
        ∨ (s.fn k f).sq.size.toNat % 2 ^ 17 ∉ [16, 32, 64, 128, 256, 512, 1024, 2048, 4096, 8192, 16384, 32768, 65536] →
    Completes (.ringEnable k f 1) s (OnFn s k f { s.fn k f with configError := true }))
  ∧ (∀ (s : State) (k : Fin 4), Reaches s k 0 → (s.fn k 0).locked = false → (s.link k).dbEn = false →
      (s.link k).dbAddr.toNat % 64 = 0 →
    Completes (.doorbellEnable k 0 1) s fun t =>
      t.link k = { s.link k with dbEn := true, moduleEvents := false, active := false, unchanged := 0, dbErrRun := 0 }
        ∧ (∀ i, i ≠ k.val → t.link i = s.link i) ∧ t = { s with links := t.links })
  ∧ (∀ (s : State) (k : Fin 4), Reaches s k 0 → (s.fn k 0).locked = false → (s.link k).dbEn = false →
      (s.link k).dbAddr.toNat % 64 ≠ 0 →
    Completes (.doorbellEnable k 0 1) s fun t =>
      t.fn k 0 = { s.fn k 0 with configError := true } ∧ (∀ j, j ≠ 0 → t.fn k j = s.fn k j)
        ∧ { t.link k with fns := [] } = { s.link k with
              fns := [], dbEn := false, moduleEvents := false, active := false, unchanged := 0, dbErrRun := 0 }
        ∧ (∀ i, i ≠ k.val → t.link i = s.link i) ∧ t = { s with links := t.links })
  ∧ (∀ (s : State) (k : Fin 4) (f : Fin 8) (v : BitVec 64), Reaches s k f →
    Completes (.functionLock k f v) s (OnFn s k f { s.fn k f with locked := (s.fn k f).locked || v.getLsbD 0 }))
  ∧ (∀ (s : State) (k : Fin 4) (f : Fin 8) (p : Nat) (v : BitVec 64), Reaches s k f → s.fnPart k f = some p → p < s.parts.length →
    Completes (.partitionLock k f v) s (OnPart s p { s.part p with locked := (s.part p).locked || v.getLsbD 0 }))
  ∧ (∀ (s : State) (v : BitVec 64), Reaches s 0 0 →
    exec (.moduleLock (.func 0 0) v) s = .next { s with mgt := { s.mgt with locked := s.mgt.locked || v.getLsbD 0 } })
  ∧ (∀ (s : State) (k : Fin 4) (f : Fin 8) (p : Nat) (n : Fin 192), Reaches s k f → s.fnPart k f = some p →
      p < s.parts.length → (s.core n).phase = .executing →
    Completes (.counterSample k f (BitVec.ofNat 64 n)) s (OnPart s p
      { s.part p with
        sampleCore := ((s.part p).sampleCore &&& ~~~0xFF#64) ||| BitVec.ofNat 64 n,
        sampleRec := (if (s.core n).epoch.part = p then (s.core n).epoch else {}).words }))
  ∧ (∀ (s : State) (k : Fin 4) (f : Fin 8) (p : Nat) (n : Fin 192), Reaches s k f → s.fnPart k f = some p →
      p < s.parts.length → (s.core n).phase = .idle →
    Completes (.counterSample k f (BitVec.ofNat 64 n)) s (OnPart s p
      { s.part p with
        sampleCore := ((s.part p).sampleCore &&& ~~~0xFF#64) ||| BitVec.ofNat 64 n,
        sampleRec := (if (s.core n).frozen.part = p then (s.core n).frozen else {}).words }))
  ∧ (∀ (s : State) (v : BitVec 64), Reaches s 0 0 → s.mgt.locked = false →
    exec (.adoptEnable (.func 0 0) v) s
      = .next { s with time := { s.time with
          sync := (s.time.sync &&& ~~~0x7FF#64) ||| (v &&& 0x7FF#64) ||| (if v.getLsbD 11 then 0x800#64 else 0#64) } })
  ∧ (∀ (s : State) (k : Fin 4) (f : Fin 8) (p : Nat) (v : BitVec 64), Reaches s k f → s.fnPart k f = some p →
      p < s.parts.length → (s.part p).trcCfg.getLsbD 16 = false → v.getLsbD 16 = true →
    Completes (.traceEnable k f v) s fun t =>
      OnPart s p (t.part p) t ∧ (t.part p).trcActiveBase = (s.part p).trcBase
        ∧ (t.part p).trcActiveSize = v.toNat / 2 ^ 32 ∧ (t.part p).trcHead = 0 ∧ (t.part p).trcWrapped = false
        ∧ (t.part p).trcCfg &&& 0xFFFFFFFFFF03FFFF#64 = v &&& 0xFFFFFFFFFF03FFFF#64)

/-- R524, R526, R528, R535 to R538, R541: (1) a buffered trace record goes to the region's head in the partition's memory, (2) or ends
the trace when its address does not translate. (3) The oldest pit log record goes to its flash slot, and only there. (4) A finished
erase leaves the sector erased. (5) Freezing holds the pit log's writes, (7), (8) which then wait, and (6) unfreezing ends that. -/
def Obligations.TraceAndPitLog : Prop :=
  (∀ (s : State) (p : Fin 8) (r : Bytes) (d : Nat), s.running = true → (s.part p).traceOn = true → (s.part p).trcBuf = [r] →
      p.val < s.parts.length → r ≠ [] → (s.part p).trcHead + r.length < (s.part p).trcBytes →
      s.xlateRangeAgent p ((s.part p).trcActiveBase.toNat + (s.part p).trcHead) r.length true = .inl [(d, r.length)] →
      Mem1.wf ramD s.mem.dram = true →
    Completes (.traceBufferWrite p) s fun t =>
      t.dramRead d r.length = r ∧ DramOutside s t d r.length
        ∧ t.part p = { s.part p with trcBuf := [], trcHead := (s.part p).trcHead + r.length })
  ∧ (∀ (s : State) (p : Fin 8) (r : Bytes) (rest : List Bytes) (e : Nat × Nat), s.running = true → (s.part p).traceOn = true →
      (s.part p).trcBuf = r :: rest → p.val < s.parts.length → r ≠ [] →
      (s.part p).trcHead + r.length ≤ (s.part p).trcBytes →
      s.xlateRangeAgent p ((s.part p).trcActiveBase.toNat + (s.part p).trcHead) r.length true = .inr e →
    Completes (.traceStopped p) s fun t =>
      t.part p = { s.part p with trcCfg := (s.part p).trcCfg &&& ~~~0x10000#64, trcBuf := [] } ∧ t.mem = s.mem)
  ∧ (∀ (s : State) (r : Bytes) (rest : List Bytes), s.pwr.phase ≠ .noInput → s.plog.frozen = false → s.plog.erasing = none →
      s.plog.buffer = r :: rest → r.length = 1024 → Mem1.wf flashD s.flash.bytes = true →
    Completes .plogFlashWrite s fun t =>
      t.flashRead (plogSlotAddr (field r 0 8)) 1024 = r ∧ FlashOutside s t (plogSlotAddr (field r 0 8)) 1024
        ∧ t.plog.buffer = rest ∧ t.plog.flashed = field r 0 8 ∧ t.mem = s.mem)
  ∧ (∀ (s : State) (k : Nat), s.pwr.phase ≠ .noInput → s.plog.frozen = false → s.plog.erasing = some k →
      Mem1.wf flashD s.flash.bytes = true →
    Completes .plogSectorErase s fun t =>
      (∀ a, 0x100000 + 65536 * k ≤ a → a < 0x100000 + 65536 * k + 65536 → Mem1.get flashD t.flash.bytes a = 0xFF#8)
        ∧ FlashOutside s t (0x100000 + 65536 * k) 65536 ∧ t.plog = { s.plog with erasing := none })
  ∧ (∀ s : State, s.pwr.phase ≠ .noInput →
    exec (.freeze .mgmt) s = .next { s with plog := { s.plog with frozen := true, unfroze := false } })
  ∧ (∀ s : State, s.pwr.phase ≠ .noInput → s.plog.buffer = [] →
    exec (.unfreeze .mgmt) s = .next { s with plog := { s.plog with frozen := false, unfroze := true } })
  ∧ (∀ s : State, s.plog.frozen = true → exec .plogFlashWrite s = .next s)
  ∧ (∀ s : State, s.plog.frozen = true → exec .plogSectorErase s = .next s)

/-- R60, R97, R466, R543, R566 to R569: what each command of the management transport does without a packet error code, when its bytes
are well formed and the module's state allows it: (1) to (6) the pointer, register and mailbox commands, (7) to (11) the flash ones, a
commit that a flush abandoned among them, (12) a read of flash, (13) a fence's removal, (14), (15) a reserved code. A Block Write
sets CMD_STATUS and a Process Call answers a status byte, its data and their PEC. With a bad packet error code (16) a Block Write and
(17) a Process Call do nothing but answer 0x04. -/
def Obligations.ManagementCommands : Prop :=
  (∀ (s : State) (b : Bytes), s.pwr.phase ≠ .noInput → b.length = 3 →
    exec (.setPointer b none) s
      = .next { s with mgt := { s.mgt with pointer := leNat b, cmdStatus := 0, reply := [], replyPec := none } })
  ∧ (∀ (s : State) (b : Bytes), s.pwr.phase = .running → b.length = 8 → s.mgt.pointer = 0x11008 → s.mgt.locked = false →
    Completes (.mgmtWrite b none) s fun t =>
      t.mem = { s.mem with retireCfg := (s.mem.retireCfg &&& ~~~0xFF#64) ||| (BitVec.ofNat 64 (leNat b) &&& 0xFF#64) }
        ∧ t.mgt = { s.mgt with pointer := 0x11010, cmdStatus := 0, reply := [], replyPec := none } ∧ t = { s with mem := t.mem, mgt := t.mgt })
  ∧ (∀ s : State, s.pwr.phase ≠ .noInput → s.mgt.pointer = 0x15050 →
    Completes (.mgmtRead [8#8] none) s fun t =>
      let answer := 0#8 :: leBytes 8 s.flash.dsn.toNat
      t.mgt = { s.mgt with pointer := 0x15058, reply := answer, replyPec := some (callPec 0x03 [8#8] answer) }
        ∧ t = { s with mgt := t.mgt })
  ∧ (∀ (s : State) (b data : Bytes), s.running = true → s.sec.mgmtBusy = false → b.length = 2 → data.length ≤ 240 →
      leNat b + data.length ≤ 16384 → Mem1.wf ramD s.sec.mgmtBuf = true →
    Completes (.mboxPut (b ++ data) none) s fun t =>
      Mem1.read ramD t.sec.mgmtBuf (leNat b) data.length = data
        ∧ (∀ a, a < leNat b ∨ leNat b + data.length ≤ a → Mem1.get ramD t.sec.mgmtBuf a = Mem1.get ramD s.sec.mgmtBuf a)
        ∧ MgmtStatus s t 0 ∧ t = { s with sec := t.sec, mgt := t.mgt })
  ∧ (∀ s : State, s.running = true → s.sec.mgmtBusy = false →
    Completes (.mboxGo [1#8] none) s fun t =>
      let n := leNat (Mem1.read ramD s.sec.mgmtBuf 4 4)
      t.sec = { s.sec with
          mgmtBusy := true, queue := s.sec.queue ++ [{ win := .mgmt, req := Mem1.read ramD s.sec.mgmtBuf 0 (min n 16384) }] }
        ∧ MgmtStatus s t 0 ∧ t = { s with sec := t.sec, mgt := t.mgt })
  ∧ (∀ (s : State) (b : Bytes) (n : BitVec 8), s.running = true → s.sec.mgmtBusy = false → b.length = 2 → n.toNat ≤ 240 →
      leNat b + n.toNat ≤ 16384 →
    let answer := 0#8 :: Mem1.read ramD s.sec.mgmtBuf (leNat b) n.toNat
    exec (.mboxGet (b ++ [n]) none) s
      = .next { s with mgt := { s.mgt with reply := answer, replyPec := some (callPec 0x12 (b ++ [n]) answer) } })
  ∧ (∀ (s : State) (b data : Bytes), s.running = true → s.flash.commitBusy = none → b.length = 2 → 16 ≤ data.length →
      data.length ≤ 240 → data.length % 16 = 0 → 16 * leNat b + data.length ≤ 65536 → Mem1.wf flashD s.flash.sectorBuf = true →
    Completes (.flashPut (b ++ data) none) s fun t =>
      Mem1.read flashD t.flash.sectorBuf (16 * leNat b) data.length = data ∧ t.flash.bytes = s.flash.bytes
        ∧ MgmtStatus s t 0 ∧ t = { s with flash := t.flash, mgt := t.mgt })
  ∧ (∀ (s : State) (b : Bytes), s.pwr.phase = .running → b.length = 4 → leNat b % 65536 = 0 → leNat b < 0x20000 →
      s.flash.commitBusy = none → s.plog.erasing = none →
    Completes (.flashCommit b none) s fun t =>
      t.flash = { s.flash with commitBusy := some (leNat b), commitAbandoned := false } ∧ MgmtStatus s t 3
        ∧ t = { s with flash := t.flash, mgt := t.mgt })
  ∧ (∀ (s : State) (b : Bytes), s.pwr.phase = .running → b.length = 4 → leNat b % 65536 = 0 →
      inRange (leNat b) 0x20000 0x3FFFFF = true → s.flash.commitBusy = none → s.plog.erasing = none →
    Completes (.flashCommit b none) s fun t => t.flash = s.flash ∧ MgmtStatus s t 2 ∧ t = { s with mgt := t.mgt })
  ∧ (∀ (s : State) (a : Nat), s.pwr.phase ≠ .noInput → s.flash.commitBusy = some a → s.flash.commitAbandoned = false →
      Mem1.wf flashD s.flash.bytes = true →
    Completes .flashCommitDone s fun t =>
      t.flashRead a 65536 = Mem1.read flashD s.flash.sectorBuf 0 65536 ∧ FlashOutside s t a 65536
        ∧ t.flash.commitBusy = none ∧ t.flash.sectorBuf = [] ∧ t.mgt = { s.mgt with cmdStatus := 0 } ∧ t.mem = s.mem)
  ∧ (∀ (s : State) (a : Nat), s.pwr.phase ≠ .noInput → s.flash.commitBusy = some a → s.flash.commitAbandoned = true →
      Mem1.wf flashD s.flash.bytes = true →
    Completes .flashCommitDone s fun t =>
      FlashOutside s t a 65536 ∧ t.flash.commitBusy = none ∧ t.flash.commitAbandoned = false ∧ t.flash.sectorBuf = []
        ∧ t.mgt = { s.mgt with cmdStatus := 6 } ∧ t.mem = s.mem)
  ∧ (∀ (s : State) (b : Bytes), s.pwr.phase ≠ .noInput → b.length = 4 → leNat b + 240 ≤ 0x4000000 →
      s.flash.commitBusy = none → s.plog.erasing = none →
    let answer := 0#8 :: s.flashRead (leNat b) 240
    exec (.flashRead b none) s
      = .next { s with mgt := { s.mgt with reply := answer, replyPec := some (callPec 0x22 b answer) } })
  ∧ (∀ (s : State) (r c : BitVec 8) (e : FenceEntry), s.running = true → 1 ≤ r.toNat → r.toNat ≤ 14 → c.toNat < 16 →
      s.flash.commitBusy = none → s.plog.erasing = none → s.flash.fenceEntries = [e] → e.row = r.toNat → e.column = c.toNat →
    Completes (.fenceClear [r, c] none) s fun t =>
      t.flash.fenceEntries = [] ∧ t.wnd.fenced = s.wnd.fenced ∧ MgmtStatus s t 0 ∧ t = { s with flash := t.flash, mgt := t.mgt })
  ∧ (∀ (s : State) (code : BitVec 8) (pec : Option Bool), s.pwr.phase ≠ .noInput → reservedCode code.toNat = true →
      pec ≠ some false →
    exec (.mgmtReservedCommand code false pec) s
      = .next { s with mgt := { s.mgt with cmdStatus := 1, reply := [], replyPec := none } })
  ∧ (∀ (s : State) (code : BitVec 8) (pec : Option Bool), s.pwr.phase ≠ .noInput → reservedCode code.toNat = true →
      pec ≠ some false →
    exec (.mgmtReservedCommand code true pec) s
      = .next { s with mgt := { s.mgt with reply := [1#8], replyPec := some (callPec code.toNat [] [1#8]) } })
  ∧ (∀ (s : State) (b : Bytes) (c : Instr), s.pwr.phase ≠ .noInput →
      c = .setPointer b (some false) ∨ c = .mgmtWrite b (some false) ∨ c = .mboxPut b (some false) ∨ c = .mboxGo b (some false)
        ∨ c = .flashPut b (some false) ∨ c = .flashCommit b (some false) ∨ c = .fenceClear b (some false) →
    exec c s = .next { s with mgt := { s.mgt with cmdStatus := 4, reply := [], replyPec := none } })
  ∧ (∀ (s : State) (b : Bytes) (c : Instr) (code : Nat), s.pwr.phase ≠ .noInput →
      (c = .mgmtRead b (some false) ∧ code = 0x03) ∨ (c = .mboxGet b (some false) ∧ code = 0x12)
        ∨ (c = .flashRead b (some false) ∧ code = 0x22) →
    exec c s = .next { s with mgt := { s.mgt with reply := [4#8], replyPec := some (callPec code b [4#8]) } })

/-- The block's interface: a step takes the command at the front of the queue and does what `exec` does with the queue's rest. -/
def Obligations.StepRunsFrontCommand : Prop :=
  ∀ (s : State) (c : Instr) (rest : List Instr),
    step { s with pending := c :: rest } = exec c { s with pending := rest }

/-- The model's choice (logs 5, 11 and 35), with R506, R507 and R510: on an empty queue one tick of the timebase passes. (1) While no
power sequence comes to its end the beat, every memory and the rest of the module stay as they are; (2) a sequence that comes to its
end with nothing deferred is over; (3) without input power nothing happens. -/
def Obligations.IdleStepTicks : Prop :=
  (∀ s : State, s.pending = [] → s.housekeeping = true →
      (∀ q, s.pwr.seq = some q → s.time.mgmtTicks + 1 < q.start + 15000000) →
    ∃ t, step s = .next t ∧ t.pending = [] ∧ t.time.beat = s.time.beat ∧ t.time.mgmtTicks = s.time.mgmtTicks + 1
      ∧ (s.time.on = true → t.time.et = min (s.time.et + 1) (2 ^ 24 - 1) ∧ t.time.ticks = s.time.ticks + 1)
      ∧ (∀ n, (t.core n).pc = (s.core n).pc ∧ (t.core n).sp = (s.core n).sp ∧ (t.core n).phase = (s.core n).phase)
      ∧ (∀ k, (t.link k).hostMem = (s.link k).hostMem) ∧ t.parts = s.parts
      ∧ t.mem = s.mem ∧ t.flash = s.flash ∧ t.wnd = s.wnd ∧ t.lnk = s.lnk ∧ t.pwr = s.pwr ∧ t.plog = s.plog ∧ t.sec = s.sec
      ∧ t.mgt = s.mgt)
  ∧ (∀ (s : State) (q : PowerSeq), s.pending = [] → s.housekeeping = true → s.pwr.seq = some q → s.pwr.deferred = [] →
      q.start + 15000000 ≤ s.time.mgmtTicks + 1 →
    ∃ t, step s = .next t ∧ t.pwr = { s.pwr with seq := none } ∧ t.time.mgmtTicks = s.time.mgmtTicks + 1
      ∧ t.mem = s.mem ∧ t.flash = s.flash ∧ t.wnd = s.wnd ∧ t.lnk = s.lnk ∧ t.plog = s.plog)
  ∧ (∀ s : State, s.pending = [] → s.pwr.phase = .noInput → step s = .next s)

/-- No command stops the model: each answers a next state in every state (R4, R5; logs 4 and 6), and changes everything but the queue:
what waits behind it is neither lost nor reordered. -/
def Obligations.EveryCommandAnswers : Prop := ∀ (c : Instr) (s : State), ∃ t, exec c s = .next t ∧ t.pending = s.pending

/-- R56, R78, R515, R524, R533, R552, R557 to R560: the reset values that the spec states. -/
def Obligations.ResetValues : Prop :=
  State.reset.pending = [] ∧ State.reset.wnd.pollCfg = 0x0804#64 ∧ State.reset.mem.scrubCfg = 24 ∧ State.reset.mem.retireCfg = 4
    ∧ State.reset.lnk.cfg = 0x643F#64 ∧ State.reset.time.cadCfg = 0x3E804#64 ∧ (∀ p ∈ State.reset.parts, p.trcCfg = 0x0A020000#64)
    ∧ State.reset.time.beat = 0 ∧ State.reset.time.locked = false ∧ State.reset.mgt.locked = false
    ∧ (∀ l ∈ State.reset.links, ∀ f ∈ l.fns, f.sq.en = false ∧ f.cq.en = false ∧ f.eq.en = false ∧ f.locked = false)
    ∧ State.reset.wnd.jobs = [] ∧ State.reset.wnd.clusters = List.replicate 16 .stopped

/-- R105, R126, R131, R133 to R135, R534, R537: (1) an event written to a function with room in its event ring, whose vector 1 is
held off or closed, leaves the 32 bytes of the entry where the producer index pointed and nowhere else, and moves the index on;
(2) where the vector is open its message, the vector's data at the vector's address, follows the entry. (3) A full ring drops and
counts it. (4) A record taken into the pit log's buffer holds its sequence number twice, its code, its payload and the count of
dropped records, which starts again. -/
def Obligations.EventEntries : Prop :=
  (∀ (s : State) (k : Fin 4) (e : Ev), k.val < s.links.length → 0 < (s.link k).fns.length → (s.fn k 0).eq.en = true →
      (s.fn k 0).eq.full = false → Mem1.wf ramD (s.link k).hostMem = true →
      ((s.fn k 0).holdEnd.getD 1 none).isSome = true ∨ (s.fn k 0).msixOpen 1 = false →
      let a := hostKey 0 ((s.fn k 0).eq.base.toNat + 32 * (s.fn k 0).eq.tail)
      let t := s.eventTo k 0 e none
      Mem1.read ramD (t.link k).hostMem a 32 = eventBytes e (s.fn k 0).eq.phase none s.stamp ∧ HostOutside s t k a 32
        ∧ (t.fn k 0).eq = (s.fn k 0).eq.push ∧ (∀ i, i ≠ k.val → t.link i = s.link i) ∧ t = { s with links := t.links })
  ∧ (∀ (s : State) (k : Fin 4) (e : Ev), k.val < s.links.length → 0 < (s.link k).fns.length → (s.fn k 0).eq.en = true →
      (s.fn k 0).eq.full = false → Mem1.wf ramD (s.link k).hostMem = true →
      (s.fn k 0).holdEnd.getD 1 none = none → (s.fn k 0).msixOpen 1 = true →
      let a := hostKey 0 ((s.fn k 0).eq.base.toNat + 32 * (s.fn k 0).eq.tail)
      let v := (s.fn k 0).msixTable.getD 1 {}
      let b := hostKey 0 v.addr.toNat
      let t := s.eventTo k 0 e none
      b + 4 ≤ a ∨ a + 32 ≤ b →
      Mem1.read ramD (t.link k).hostMem a 32 = eventBytes e (s.fn k 0).eq.phase none s.stamp
        ∧ Mem1.read ramD (t.link k).hostMem b 4 = leBytes 4 v.data.toNat
        ∧ (∀ x, (x < a ∨ a + 32 ≤ x) → (x < b ∨ b + 4 ≤ x) →
            Mem1.get ramD (t.link k).hostMem x = Mem1.get ramD (s.link k).hostMem x)
        ∧ (t.fn k 0).eq = (s.fn k 0).eq.push ∧ (∀ i, i ≠ k.val → t.link i = s.link i) ∧ t = { s with links := t.links })
  ∧ (∀ (s : State) (k : Fin 4) (e : Ev), k.val < s.links.length → 0 < (s.link k).fns.length → (s.fn k 0).eq.en = true →
      (s.fn k 0).eq.full = true →
      let t := s.eventTo k 0 e none
      t.fn k 0 = { s.fn k 0 with dropped := min ((s.fn k 0).dropped + 1) (2 ^ 32 - 1) }
        ∧ (t.link k).hostMem = (s.link k).hostMem ∧ t = { s with links := t.links })
  ∧ (∀ (s : State) (code list payload : Nat) (fl : Bool), s.plog.buffer.length < 64 →
      let t := s.plogTake code list payload fl
      (∃ r : Bytes, t.plog.buffer = s.plog.buffer ++ [r] ∧ r.length = 1024 ∧ r.take 8 = leBytes 8 (s.plog.newest + 1)
          ∧ r.drop 1016 = leBytes 8 (s.plog.newest + 1) ∧ (r.drop 8).take 2 = leBytes 2 code ∧ (r.drop 28).take 8 = leBytes 8 payload
          ∧ (r.drop 36).take 4 = leBytes 4 s.plog.dropped)
        ∧ t.plog.newest = s.plog.newest + 1 ∧ t.plog.flashed = s.plog.flashed ∧ t.plog.dropped = 0
        ∧ t = { s with plog := t.plog })

/-- The counts that the LX-960 is built with (R20, R38, R53, R104, R407) hold at reset, and every memory is in canonical form there. -/
def Obligations.ResetIsSound : Prop := State.reset.Shape ∧ State.reset.Canonical

/-- Every step keeps the counts that the LX-960 is built with: cores, clusters, partitions, host links with their functions, ports
and rails (R20, R38, R53, R104, R407). -/
def Obligations.ShapeKept : Prop := ∀ s t : State, s.Shape → step s = .next t → t.Shape

/-- Every step keeps every memory (flash, DRAM, host memories, scratchpads, the two management buffers) in canonical form, so that
two states with the same bytes are the same state. -/
def Obligations.CanonicalKept : Prop := ∀ s t : State, s.Canonical → step s = .next t → t.Canonical
end

