-- ==== Sys2Proof/Laws/Bytes.lean ====
section
/-! SUPPORT. The laws of byte strings and their little-endian fields. -/

namespace Sys2Proof.Machine

@[simp] theorem length_leBytes : ∀ (n x : Nat), (leBytes n x).length = n
  | 0, _ => rfl
  | n + 1, x => by simp [leBytes, length_leBytes n]

/-- The number that `n` bytes of `x` spell is `x` below 256 ^ n. -/
theorem leNat_leBytes : ∀ (n x : Nat), leNat (leBytes n x) = x % 256 ^ n
  | 0, x => by simp [leBytes, leNat, Nat.mod_one]
  | n + 1, x => by
    simp only [leBytes, leNat, leNat_leBytes n, BitVec.toNat_ofNat]
    have h : x % 256 ^ (n + 1) = x % 256 + 256 * (x / 256 % 256 ^ n) := by
      rw [Nat.pow_succ, Nat.mul_comm (256 ^ n) 256, Nat.mod_mul]
    omega

/-- A byte string spells a number below 256 ^ length. -/
theorem leNat_lt : ∀ b : Bytes, leNat b < 256 ^ b.length
  | [] => by simp [leNat]
  | a :: b => by
    have h := leNat_lt b
    have ha := a.isLt
    simp only [leNat, List.length_cons, Nat.pow_succ]
    omega

/-- The bytes of the number that a byte string spells are that byte string. -/
theorem leBytes_leNat : ∀ b : Bytes, leBytes b.length (leNat b) = b
  | [] => rfl
  | a :: b => by
    have ha : a.toNat < 256 := a.isLt
    have h1 : (a.toNat + 256 * leNat b) / 256 = leNat b := by omega
    have h2 : BitVec.ofNat 8 (a.toNat + 256 * leNat b) = a := by
      apply BitVec.eq_of_toNat_eq
      simp only [BitVec.toNat_ofNat]
      omega
    simp only [List.length_cons, leNat, leBytes, h1, h2, leBytes_leNat b]

@[simp] theorem length_sliceBytes (b : Bytes) (o n : Nat) : (sliceBytes b o n).length = n := by
  simp only [sliceBytes, List.length_append, List.length_replicate, List.length_take, List.length_drop]
  omega

/-- A field that starts where an appended string starts is read from that string. -/
theorem field_append_right (a b : Bytes) (o n : Nat) (h : a.length ≤ o) : field (a ++ b) o n = field b (o - a.length) n := by
  simp [field, List.drop_append, List.drop_of_length_le h]

/-- A field that ends within the first of two strings is read from it. -/
theorem field_append_left (a b : Bytes) (o n : Nat) (h : o + n ≤ a.length) : field (a ++ b) o n = field a o n := by
  simp only [field, List.drop_append, List.take_append, List.length_drop]
  rw [show n - (a.length - o) = 0 by omega]
  simp

end Sys2Proof.Machine
end

