-- ==== Sys2Proof/Laws/Memory.lean ====
section
/-! SUPPORT. The laws of sparse memories: a read after a write, and that every operation keeps the canonical form. -/

namespace Sys2Proof.Machine

theorem Mem1.above_mono {k j : Nat} (h : j ≤ k) : ∀ {m : Memory}, Mem1.above k m = true → Mem1.above j m = true
  | [], _ => rfl
  | (a, _) :: t, hm => by
    simp only [Mem1.above, Bool.and_eq_true, decide_eq_true_eq] at hm ⊢
    exact ⟨by omega, Mem1.above_mono h hm.2⟩

theorem Mem1.get_above (d : Byte) {k j : Nat} (h : j ≤ k) : ∀ {m : Memory}, Mem1.above k m = true → Mem1.get d m j = d
  | [], _ => rfl
  | (a, v) :: t, hm => by
    simp only [Mem1.above, Bool.and_eq_true, decide_eq_true_eq] at hm
    simp [Mem1.get, show j < a by omega]

theorem Mem1.above_set (d : Byte) {k j : Nat} (v : Byte) (h : j < k) :
    ∀ {m : Memory}, Mem1.above j m = true → Mem1.above j (Mem1.set d m k v) = true
  | [], _ => by unfold Mem1.set; split <;> simp [Mem1.above, h]
  | (a, w) :: t, hm => by
    have hm' := hm
    simp only [Mem1.above, Bool.and_eq_true, decide_eq_true_eq] at hm
    have ih := Mem1.above_set d v h hm.2
    unfold Mem1.set
    split
    · split <;> simp [Mem1.above, *]
    · split
      · split <;> simp [Mem1.above, *]
      · simp [Mem1.above, *]

/-- A write keeps the canonical form. -/
theorem Mem1.wf_set (d : Byte) (k : Nat) (v : Byte) :
    ∀ {m : Memory}, Mem1.wf d m = true → Mem1.wf d (Mem1.set d m k v) = true
  | [], _ => by unfold Mem1.set; split <;> simp [Mem1.wf, Mem1.above, *]
  | (a, w) :: t, hm => by
    have hw := hm
    simp only [Mem1.wf, Bool.and_eq_true, bne_iff_ne] at hm
    obtain ⟨⟨ha, hne⟩, ht⟩ := hm
    have ih := Mem1.wf_set d k v ht
    unfold Mem1.set
    split
    · split
      · exact hw
      · have : Mem1.above k t = true := Mem1.above_mono (by omega) ha
        simp [Mem1.wf, Mem1.above, *]
    · split
      · split
        · exact ht
        · simp [Mem1.wf, *]
      · have : Mem1.above a (Mem1.set d t k v) = true := Mem1.above_set d v (by omega) ha
        simp [Mem1.wf, *]

/-- A read after a write: the byte written at its address, the old byte everywhere else. -/
theorem Mem1.get_set (d : Byte) (k : Nat) (v : Byte) (j : Nat) :
    ∀ {m : Memory}, Mem1.wf d m = true → Mem1.get d (Mem1.set d m k v) j = if j = k then v else Mem1.get d m j
  | [], _ => by
    unfold Mem1.set
    split
    · simp [Mem1.get, *]
    · simp only [Mem1.get]
      split_ifs <;> first | rfl | omega
  | (a, w) :: t, hm => by
    simp only [Mem1.wf, Bool.and_eq_true, bne_iff_ne] at hm
    obtain ⟨⟨ha, hne⟩, ht⟩ := hm
    have ih := Mem1.get_set d k v j ht
    unfold Mem1.set
    split
    · split
      · subst_vars
        by_cases hj : j = k
        · subst hj; simp [Mem1.get, *]
        · simp [hj]
      · simp only [Mem1.get]
        split_ifs <;> first | rfl | omega
    · split
      · rename_i h1 h2
        subst h2
        split
        · rename_i hv
          subst hv
          by_cases hj : j ≤ k
          · rw [Mem1.get_above _ hj ha]
            simp only [Mem1.get]
            split_ifs <;> first | rfl | omega
          · simp [Mem1.get, show ¬ j < k by omega, show ¬ j = k by omega]
        · simp only [Mem1.get]
          split_ifs <;> first | rfl | omega
      · simp only [Mem1.get, ih]
        split_ifs <;> first | rfl | omega

/-- A byte string written keeps the canonical form. -/
theorem Mem1.wf_write (d : Byte) : ∀ (bs : Bytes) (m : Memory) (a : Nat),
    Mem1.wf d m = true → Mem1.wf d (Mem1.write d m a bs) = true
  | [], _, _, h => h
  | b :: bs, m, a, h => Mem1.wf_write d bs (Mem1.set d m a b) (a + 1) (Mem1.wf_set d a b h)

/-- A read after a byte string is written. -/
theorem Mem1.get_write (d : Byte) (j : Nat) : ∀ (bs : Bytes) (m : Memory) (a : Nat), Mem1.wf d m = true →
    Mem1.get d (Mem1.write d m a bs) j = if a ≤ j ∧ j < a + bs.length then bs.getD (j - a) d else Mem1.get d m j
  | [], m, a, _ => by
    have : ¬ (a ≤ j ∧ j < a + ([] : Bytes).length) := by simp
    simp only [this, if_false, Mem1.write]
  | b :: bs, m, a, h => by
    rw [Mem1.write, Mem1.get_write d j bs _ _ (Mem1.wf_set d a b h), Mem1.get_set d a b j h]
    by_cases h1 : j = a
    · subst h1; simp
    · by_cases h2 : a + 1 ≤ j ∧ j < a + 1 + bs.length
      · obtain ⟨n, rfl⟩ : ∃ n, j = a + (n + 1) := ⟨j - a - 1, by omega⟩
        have e1 : a + (n + 1) - (a + 1) = n := by omega
        have e2 : a + (n + 1) - a = n + 1 := by omega
        have h3 : a ≤ a + (n + 1) ∧ a + (n + 1) < a + (b :: bs).length := by
          simp only [List.length_cons]; omega
        rw [if_pos h2, if_pos h3, e1, e2, List.getD_cons_succ]
      · have h3 : ¬ (a ≤ j ∧ j < a + (b :: bs).length) := by
          simp only [List.length_cons]; omega
        rw [if_neg h2, if_neg h1, if_neg h3]

/-- What was written is what is read. -/
theorem Mem1.read_write (d : Byte) (bs : Bytes) (m : Memory) (a : Nat) (h : Mem1.wf d m = true) :
    Mem1.read d (Mem1.write d m a bs) a bs.length = bs := by
  apply List.ext_getElem
  · simp [Mem1.read]
  · intro i h1 h2
    simp [Mem1.read, Mem1.get_write d _ bs m a h, h2]

/-- A byte string written changes no byte outside it. -/
theorem Mem1.get_write_outside (d : Byte) (bs : Bytes) (m : Memory) (a j : Nat) (h : Mem1.wf d m = true)
    (hj : j < a ∨ a + bs.length ≤ j) : Mem1.get d (Mem1.write d m a bs) j = Mem1.get d m j := by
  rw [Mem1.get_write d j bs m a h, if_neg (by omega)]

theorem Mem1.above_keep (p : Nat → Bool) (k : Nat) : ∀ {m : Memory}, Mem1.above k m = true →
    Mem1.above k (Mem1.keep p m) = true
  | [], _ => rfl
  | (a, v) :: t, hm => by
    simp only [Mem1.above, Bool.and_eq_true, decide_eq_true_eq] at hm
    have ih := Mem1.above_keep p k hm.2
    unfold Mem1.keep
    split <;> simp [Mem1.above, *]

/-- Dropping cells keeps the canonical form. -/
theorem Mem1.wf_keep (d : Byte) (p : Nat → Bool) : ∀ {m : Memory}, Mem1.wf d m = true → Mem1.wf d (Mem1.keep p m) = true
  | [], _ => rfl
  | (a, v) :: t, hm => by
    simp only [Mem1.wf, Bool.and_eq_true, bne_iff_ne] at hm
    obtain ⟨⟨ha, hne⟩, ht⟩ := hm
    have ih := Mem1.wf_keep d p ht
    have h2 := Mem1.above_keep p a ha
    unfold Mem1.keep
    split <;> simp [Mem1.wf, *]

/-- A kept address reads as before, a dropped one as the default. -/
theorem Mem1.get_keep (d : Byte) (p : Nat → Bool) (j : Nat) : ∀ {m : Memory}, Mem1.wf d m = true →
    Mem1.get d (Mem1.keep p m) j = if p j then Mem1.get d m j else d
  | [], _ => by simp [Mem1.keep, Mem1.get]
  | (a, v) :: t, hm => by
    simp only [Mem1.wf, Bool.and_eq_true, bne_iff_ne] at hm
    obtain ⟨⟨ha, hne⟩, ht⟩ := hm
    have ih := Mem1.get_keep d p j ht
    have h2 := Mem1.above_keep p a ha
    unfold Mem1.keep
    split
    · simp only [Mem1.get, ih]
      split_ifs <;> simp_all
    · by_cases hj : j ≤ a
      · rw [Mem1.get_above d hj h2]
        simp only [Mem1.get]
        split_ifs <;> simp_all
        omega
      · rw [ih]; simp [Mem1.get, show ¬ j < a by omega, show ¬ j = a by omega]

theorem Mem1.length_read (d : Byte) (m : Memory) (a n : Nat) : (Mem1.read d m a n).length = n := by simp [Mem1.read]

/-- The empty memory is canonical. -/
theorem Mem1.wf_nil (d : Byte) : Mem1.wf d [] = true := rfl

end Sys2Proof.Machine
end

