-- ==== Sys2Proof/Laws/State.lean ====
section
/-! SUPPORT. The laws of the state's updates: what each update does to each field, and what the accessors read after it. -/

namespace Sys2Proof.Machine

variable (s : State)


@[simp] theorem State.modCore_pwr (n : Nat) (f : Core → Core) : (s.modCore n f).pwr = s.pwr := rfl
@[simp] theorem State.modCore_flash (n : Nat) (f : Core → Core) : (s.modCore n f).flash = s.flash := rfl
@[simp] theorem State.modCore_links (n : Nat) (f : Core → Core) : (s.modCore n f).links = s.links := rfl
@[simp] theorem State.modCore_wnd (n : Nat) (f : Core → Core) : (s.modCore n f).wnd = s.wnd := rfl
@[simp] theorem State.modCore_cores (n : Nat) (f : Core → Core) : (s.modCore n f).cores = s.cores.modify n f := rfl
@[simp] theorem State.modCore_mem (n : Nat) (f : Core → Core) : (s.modCore n f).mem = s.mem := rfl
@[simp] theorem State.modCore_parts (n : Nat) (f : Core → Core) : (s.modCore n f).parts = s.parts := rfl
@[simp] theorem State.modCore_lnk (n : Nat) (f : Core → Core) : (s.modCore n f).lnk = s.lnk := rfl
@[simp] theorem State.modCore_mesh (n : Nat) (f : Core → Core) : (s.modCore n f).mesh = s.mesh := rfl
@[simp] theorem State.modCore_time (n : Nat) (f : Core → Core) : (s.modCore n f).time = s.time := rfl
@[simp] theorem State.modCore_plog (n : Nat) (f : Core → Core) : (s.modCore n f).plog = s.plog := rfl
@[simp] theorem State.modCore_sec (n : Nat) (f : Core → Core) : (s.modCore n f).sec = s.sec := rfl
@[simp] theorem State.modCore_mgt (n : Nat) (f : Core → Core) : (s.modCore n f).mgt = s.mgt := rfl
@[simp] theorem State.modCore_fresh (n : Nat) (f : Core → Core) : (s.modCore n f).fresh = s.fresh := rfl
@[simp] theorem State.modCore_pending (n : Nat) (f : Core → Core) : (s.modCore n f).pending = s.pending := rfl
@[simp] theorem State.modCore_part_eq (n : Nat) (f : Core → Core) (m : Nat) : (s.modCore n f).part m = s.part m := rfl
@[simp] theorem State.modCore_link_eq (n : Nat) (f : Core → Core) (m : Nat) : (s.modCore n f).link m = s.link m := rfl
@[simp] theorem State.modCore_fn_eq (n : Nat) (f : Core → Core) (m i : Nat) : (s.modCore n f).fn m i = s.fn m i := rfl
@[simp] theorem State.modCore_port_eq (n : Nat) (f : Core → Core) (m : Nat) : (s.modCore n f).port m = s.port m := rfl
@[simp] theorem State.modCore_rail_eq (n : Nat) (f : Core → Core) (m : Nat) : (s.modCore n f).rail m = s.rail m := rfl

@[simp] theorem State.modPart_pwr (p : Nat) (f : Part → Part) : (s.modPart p f).pwr = s.pwr := rfl
@[simp] theorem State.modPart_flash (p : Nat) (f : Part → Part) : (s.modPart p f).flash = s.flash := rfl
@[simp] theorem State.modPart_links (p : Nat) (f : Part → Part) : (s.modPart p f).links = s.links := rfl
@[simp] theorem State.modPart_wnd (p : Nat) (f : Part → Part) : (s.modPart p f).wnd = s.wnd := rfl
@[simp] theorem State.modPart_cores (p : Nat) (f : Part → Part) : (s.modPart p f).cores = s.cores := rfl
@[simp] theorem State.modPart_mem (p : Nat) (f : Part → Part) : (s.modPart p f).mem = s.mem := rfl
@[simp] theorem State.modPart_parts (p : Nat) (f : Part → Part) : (s.modPart p f).parts = s.parts.modify p f := rfl
@[simp] theorem State.modPart_lnk (p : Nat) (f : Part → Part) : (s.modPart p f).lnk = s.lnk := rfl
@[simp] theorem State.modPart_mesh (p : Nat) (f : Part → Part) : (s.modPart p f).mesh = s.mesh := rfl
@[simp] theorem State.modPart_time (p : Nat) (f : Part → Part) : (s.modPart p f).time = s.time := rfl
@[simp] theorem State.modPart_plog (p : Nat) (f : Part → Part) : (s.modPart p f).plog = s.plog := rfl
@[simp] theorem State.modPart_sec (p : Nat) (f : Part → Part) : (s.modPart p f).sec = s.sec := rfl
@[simp] theorem State.modPart_mgt (p : Nat) (f : Part → Part) : (s.modPart p f).mgt = s.mgt := rfl
@[simp] theorem State.modPart_fresh (p : Nat) (f : Part → Part) : (s.modPart p f).fresh = s.fresh := rfl
@[simp] theorem State.modPart_pending (p : Nat) (f : Part → Part) : (s.modPart p f).pending = s.pending := rfl
@[simp] theorem State.modPart_core_eq (p : Nat) (f : Part → Part) (m : Nat) : (s.modPart p f).core m = s.core m := rfl
@[simp] theorem State.modPart_link_eq (p : Nat) (f : Part → Part) (m : Nat) : (s.modPart p f).link m = s.link m := rfl
@[simp] theorem State.modPart_fn_eq (p : Nat) (f : Part → Part) (m i : Nat) : (s.modPart p f).fn m i = s.fn m i := rfl
@[simp] theorem State.modPart_port_eq (p : Nat) (f : Part → Part) (m : Nat) : (s.modPart p f).port m = s.port m := rfl
@[simp] theorem State.modPart_rail_eq (p : Nat) (f : Part → Part) (m : Nat) : (s.modPart p f).rail m = s.rail m := rfl

@[simp] theorem State.modLink_pwr (k : Nat) (f : HostLink → HostLink) : (s.modLink k f).pwr = s.pwr := rfl
@[simp] theorem State.modLink_flash (k : Nat) (f : HostLink → HostLink) : (s.modLink k f).flash = s.flash := rfl
@[simp] theorem State.modLink_links (k : Nat) (f : HostLink → HostLink) : (s.modLink k f).links = s.links.modify k f := rfl
@[simp] theorem State.modLink_wnd (k : Nat) (f : HostLink → HostLink) : (s.modLink k f).wnd = s.wnd := rfl
@[simp] theorem State.modLink_cores (k : Nat) (f : HostLink → HostLink) : (s.modLink k f).cores = s.cores := rfl
@[simp] theorem State.modLink_mem (k : Nat) (f : HostLink → HostLink) : (s.modLink k f).mem = s.mem := rfl
@[simp] theorem State.modLink_parts (k : Nat) (f : HostLink → HostLink) : (s.modLink k f).parts = s.parts := rfl
@[simp] theorem State.modLink_lnk (k : Nat) (f : HostLink → HostLink) : (s.modLink k f).lnk = s.lnk := rfl
@[simp] theorem State.modLink_mesh (k : Nat) (f : HostLink → HostLink) : (s.modLink k f).mesh = s.mesh := rfl
@[simp] theorem State.modLink_time (k : Nat) (f : HostLink → HostLink) : (s.modLink k f).time = s.time := rfl
@[simp] theorem State.modLink_plog (k : Nat) (f : HostLink → HostLink) : (s.modLink k f).plog = s.plog := rfl
@[simp] theorem State.modLink_sec (k : Nat) (f : HostLink → HostLink) : (s.modLink k f).sec = s.sec := rfl
@[simp] theorem State.modLink_mgt (k : Nat) (f : HostLink → HostLink) : (s.modLink k f).mgt = s.mgt := rfl
@[simp] theorem State.modLink_fresh (k : Nat) (f : HostLink → HostLink) : (s.modLink k f).fresh = s.fresh := rfl
@[simp] theorem State.modLink_pending (k : Nat) (f : HostLink → HostLink) : (s.modLink k f).pending = s.pending := rfl
@[simp] theorem State.modLink_core_eq (k : Nat) (f : HostLink → HostLink) (m : Nat) : (s.modLink k f).core m = s.core m := rfl
@[simp] theorem State.modLink_part_eq (k : Nat) (f : HostLink → HostLink) (m : Nat) : (s.modLink k f).part m = s.part m := rfl
@[simp] theorem State.modLink_port_eq (k : Nat) (f : HostLink → HostLink) (m : Nat) : (s.modLink k f).port m = s.port m := rfl
@[simp] theorem State.modLink_rail_eq (k : Nat) (f : HostLink → HostLink) (m : Nat) : (s.modLink k f).rail m = s.rail m := rfl

@[simp] theorem State.modFn_pwr (k j : Nat) (f : Fn → Fn) : (s.modFn k j f).pwr = s.pwr := rfl
@[simp] theorem State.modFn_flash (k j : Nat) (f : Fn → Fn) : (s.modFn k j f).flash = s.flash := rfl
@[simp] theorem State.modFn_links (k j : Nat) (f : Fn → Fn) : (s.modFn k j f).links = s.links.modify k (fun l => { l with fns := l.fns.modify j f }) := rfl
@[simp] theorem State.modFn_wnd (k j : Nat) (f : Fn → Fn) : (s.modFn k j f).wnd = s.wnd := rfl
@[simp] theorem State.modFn_cores (k j : Nat) (f : Fn → Fn) : (s.modFn k j f).cores = s.cores := rfl
@[simp] theorem State.modFn_mem (k j : Nat) (f : Fn → Fn) : (s.modFn k j f).mem = s.mem := rfl
@[simp] theorem State.modFn_parts (k j : Nat) (f : Fn → Fn) : (s.modFn k j f).parts = s.parts := rfl
@[simp] theorem State.modFn_lnk (k j : Nat) (f : Fn → Fn) : (s.modFn k j f).lnk = s.lnk := rfl
@[simp] theorem State.modFn_mesh (k j : Nat) (f : Fn → Fn) : (s.modFn k j f).mesh = s.mesh := rfl
@[simp] theorem State.modFn_time (k j : Nat) (f : Fn → Fn) : (s.modFn k j f).time = s.time := rfl
@[simp] theorem State.modFn_plog (k j : Nat) (f : Fn → Fn) : (s.modFn k j f).plog = s.plog := rfl
@[simp] theorem State.modFn_sec (k j : Nat) (f : Fn → Fn) : (s.modFn k j f).sec = s.sec := rfl
@[simp] theorem State.modFn_mgt (k j : Nat) (f : Fn → Fn) : (s.modFn k j f).mgt = s.mgt := rfl
@[simp] theorem State.modFn_fresh (k j : Nat) (f : Fn → Fn) : (s.modFn k j f).fresh = s.fresh := rfl
@[simp] theorem State.modFn_pending (k j : Nat) (f : Fn → Fn) : (s.modFn k j f).pending = s.pending := rfl
@[simp] theorem State.modFn_core_eq (k j : Nat) (f : Fn → Fn) (m : Nat) : (s.modFn k j f).core m = s.core m := rfl
@[simp] theorem State.modFn_part_eq (k j : Nat) (f : Fn → Fn) (m : Nat) : (s.modFn k j f).part m = s.part m := rfl
@[simp] theorem State.modFn_port_eq (k j : Nat) (f : Fn → Fn) (m : Nat) : (s.modFn k j f).port m = s.port m := rfl
@[simp] theorem State.modFn_rail_eq (k j : Nat) (f : Fn → Fn) (m : Nat) : (s.modFn k j f).rail m = s.rail m := rfl

@[simp] theorem State.modPort_pwr (p : Nat) (f : PortSt → PortSt) : (s.modPort p f).pwr = s.pwr := rfl
@[simp] theorem State.modPort_flash (p : Nat) (f : PortSt → PortSt) : (s.modPort p f).flash = s.flash := rfl
@[simp] theorem State.modPort_links (p : Nat) (f : PortSt → PortSt) : (s.modPort p f).links = s.links := rfl
@[simp] theorem State.modPort_wnd (p : Nat) (f : PortSt → PortSt) : (s.modPort p f).wnd = s.wnd := rfl
@[simp] theorem State.modPort_cores (p : Nat) (f : PortSt → PortSt) : (s.modPort p f).cores = s.cores := rfl
@[simp] theorem State.modPort_mem (p : Nat) (f : PortSt → PortSt) : (s.modPort p f).mem = s.mem := rfl
@[simp] theorem State.modPort_parts (p : Nat) (f : PortSt → PortSt) : (s.modPort p f).parts = s.parts := rfl
@[simp] theorem State.modPort_lnk (p : Nat) (f : PortSt → PortSt) : (s.modPort p f).lnk = { s.lnk with ports := s.lnk.ports.modify p f } := rfl
@[simp] theorem State.modPort_mesh (p : Nat) (f : PortSt → PortSt) : (s.modPort p f).mesh = s.mesh := rfl
@[simp] theorem State.modPort_time (p : Nat) (f : PortSt → PortSt) : (s.modPort p f).time = s.time := rfl
@[simp] theorem State.modPort_plog (p : Nat) (f : PortSt → PortSt) : (s.modPort p f).plog = s.plog := rfl
@[simp] theorem State.modPort_sec (p : Nat) (f : PortSt → PortSt) : (s.modPort p f).sec = s.sec := rfl
@[simp] theorem State.modPort_mgt (p : Nat) (f : PortSt → PortSt) : (s.modPort p f).mgt = s.mgt := rfl
@[simp] theorem State.modPort_fresh (p : Nat) (f : PortSt → PortSt) : (s.modPort p f).fresh = s.fresh := rfl
@[simp] theorem State.modPort_pending (p : Nat) (f : PortSt → PortSt) : (s.modPort p f).pending = s.pending := rfl
@[simp] theorem State.modPort_core_eq (p : Nat) (f : PortSt → PortSt) (m : Nat) : (s.modPort p f).core m = s.core m := rfl
@[simp] theorem State.modPort_part_eq (p : Nat) (f : PortSt → PortSt) (m : Nat) : (s.modPort p f).part m = s.part m := rfl
@[simp] theorem State.modPort_link_eq (p : Nat) (f : PortSt → PortSt) (m : Nat) : (s.modPort p f).link m = s.link m := rfl
@[simp] theorem State.modPort_fn_eq (p : Nat) (f : PortSt → PortSt) (m i : Nat) : (s.modPort p f).fn m i = s.fn m i := rfl
@[simp] theorem State.modPort_rail_eq (p : Nat) (f : PortSt → PortSt) (m : Nat) : (s.modPort p f).rail m = s.rail m := rfl

@[simp] theorem State.modRail_pwr (r : Nat) (f : Rail → Rail) : (s.modRail r f).pwr = { s.pwr with rails := s.pwr.rails.modify r f } := rfl
@[simp] theorem State.modRail_flash (r : Nat) (f : Rail → Rail) : (s.modRail r f).flash = s.flash := rfl
@[simp] theorem State.modRail_links (r : Nat) (f : Rail → Rail) : (s.modRail r f).links = s.links := rfl
@[simp] theorem State.modRail_wnd (r : Nat) (f : Rail → Rail) : (s.modRail r f).wnd = s.wnd := rfl
@[simp] theorem State.modRail_cores (r : Nat) (f : Rail → Rail) : (s.modRail r f).cores = s.cores := rfl
@[simp] theorem State.modRail_mem (r : Nat) (f : Rail → Rail) : (s.modRail r f).mem = s.mem := rfl
@[simp] theorem State.modRail_parts (r : Nat) (f : Rail → Rail) : (s.modRail r f).parts = s.parts := rfl
@[simp] theorem State.modRail_lnk (r : Nat) (f : Rail → Rail) : (s.modRail r f).lnk = s.lnk := rfl
@[simp] theorem State.modRail_mesh (r : Nat) (f : Rail → Rail) : (s.modRail r f).mesh = s.mesh := rfl
@[simp] theorem State.modRail_time (r : Nat) (f : Rail → Rail) : (s.modRail r f).time = s.time := rfl
@[simp] theorem State.modRail_plog (r : Nat) (f : Rail → Rail) : (s.modRail r f).plog = s.plog := rfl
@[simp] theorem State.modRail_sec (r : Nat) (f : Rail → Rail) : (s.modRail r f).sec = s.sec := rfl
@[simp] theorem State.modRail_mgt (r : Nat) (f : Rail → Rail) : (s.modRail r f).mgt = s.mgt := rfl
@[simp] theorem State.modRail_fresh (r : Nat) (f : Rail → Rail) : (s.modRail r f).fresh = s.fresh := rfl
@[simp] theorem State.modRail_pending (r : Nat) (f : Rail → Rail) : (s.modRail r f).pending = s.pending := rfl
@[simp] theorem State.modRail_core_eq (r : Nat) (f : Rail → Rail) (m : Nat) : (s.modRail r f).core m = s.core m := rfl
@[simp] theorem State.modRail_part_eq (r : Nat) (f : Rail → Rail) (m : Nat) : (s.modRail r f).part m = s.part m := rfl
@[simp] theorem State.modRail_link_eq (r : Nat) (f : Rail → Rail) (m : Nat) : (s.modRail r f).link m = s.link m := rfl
@[simp] theorem State.modRail_fn_eq (r : Nat) (f : Rail → Rail) (m i : Nat) : (s.modRail r f).fn m i = s.fn m i := rfl
@[simp] theorem State.modRail_port_eq (r : Nat) (f : Rail → Rail) (m : Nat) : (s.modRail r f).port m = s.port m := rfl

@[simp] theorem State.modPwr_pwr (f : Pwr → Pwr) : (s.modPwr f).pwr = f s.pwr := rfl
@[simp] theorem State.modPwr_flash (f : Pwr → Pwr) : (s.modPwr f).flash = s.flash := rfl
@[simp] theorem State.modPwr_links (f : Pwr → Pwr) : (s.modPwr f).links = s.links := rfl
@[simp] theorem State.modPwr_wnd (f : Pwr → Pwr) : (s.modPwr f).wnd = s.wnd := rfl
@[simp] theorem State.modPwr_cores (f : Pwr → Pwr) : (s.modPwr f).cores = s.cores := rfl
@[simp] theorem State.modPwr_mem (f : Pwr → Pwr) : (s.modPwr f).mem = s.mem := rfl
@[simp] theorem State.modPwr_parts (f : Pwr → Pwr) : (s.modPwr f).parts = s.parts := rfl
@[simp] theorem State.modPwr_lnk (f : Pwr → Pwr) : (s.modPwr f).lnk = s.lnk := rfl
@[simp] theorem State.modPwr_mesh (f : Pwr → Pwr) : (s.modPwr f).mesh = s.mesh := rfl
@[simp] theorem State.modPwr_time (f : Pwr → Pwr) : (s.modPwr f).time = s.time := rfl
@[simp] theorem State.modPwr_plog (f : Pwr → Pwr) : (s.modPwr f).plog = s.plog := rfl
@[simp] theorem State.modPwr_sec (f : Pwr → Pwr) : (s.modPwr f).sec = s.sec := rfl
@[simp] theorem State.modPwr_mgt (f : Pwr → Pwr) : (s.modPwr f).mgt = s.mgt := rfl
@[simp] theorem State.modPwr_fresh (f : Pwr → Pwr) : (s.modPwr f).fresh = s.fresh := rfl
@[simp] theorem State.modPwr_pending (f : Pwr → Pwr) : (s.modPwr f).pending = s.pending := rfl
@[simp] theorem State.modPwr_core_eq (f : Pwr → Pwr) (m : Nat) : (s.modPwr f).core m = s.core m := rfl
@[simp] theorem State.modPwr_part_eq (f : Pwr → Pwr) (m : Nat) : (s.modPwr f).part m = s.part m := rfl
@[simp] theorem State.modPwr_link_eq (f : Pwr → Pwr) (m : Nat) : (s.modPwr f).link m = s.link m := rfl
@[simp] theorem State.modPwr_fn_eq (f : Pwr → Pwr) (m i : Nat) : (s.modPwr f).fn m i = s.fn m i := rfl
@[simp] theorem State.modPwr_port_eq (f : Pwr → Pwr) (m : Nat) : (s.modPwr f).port m = s.port m := rfl

@[simp] theorem State.modFlash_pwr (f : Flash → Flash) : (s.modFlash f).pwr = s.pwr := rfl
@[simp] theorem State.modFlash_flash (f : Flash → Flash) : (s.modFlash f).flash = f s.flash := rfl
@[simp] theorem State.modFlash_links (f : Flash → Flash) : (s.modFlash f).links = s.links := rfl
@[simp] theorem State.modFlash_wnd (f : Flash → Flash) : (s.modFlash f).wnd = s.wnd := rfl
@[simp] theorem State.modFlash_cores (f : Flash → Flash) : (s.modFlash f).cores = s.cores := rfl
@[simp] theorem State.modFlash_mem (f : Flash → Flash) : (s.modFlash f).mem = s.mem := rfl
@[simp] theorem State.modFlash_parts (f : Flash → Flash) : (s.modFlash f).parts = s.parts := rfl
@[simp] theorem State.modFlash_lnk (f : Flash → Flash) : (s.modFlash f).lnk = s.lnk := rfl
@[simp] theorem State.modFlash_mesh (f : Flash → Flash) : (s.modFlash f).mesh = s.mesh := rfl
@[simp] theorem State.modFlash_time (f : Flash → Flash) : (s.modFlash f).time = s.time := rfl
@[simp] theorem State.modFlash_plog (f : Flash → Flash) : (s.modFlash f).plog = s.plog := rfl
@[simp] theorem State.modFlash_sec (f : Flash → Flash) : (s.modFlash f).sec = s.sec := rfl
@[simp] theorem State.modFlash_mgt (f : Flash → Flash) : (s.modFlash f).mgt = s.mgt := rfl
@[simp] theorem State.modFlash_fresh (f : Flash → Flash) : (s.modFlash f).fresh = s.fresh := rfl
@[simp] theorem State.modFlash_pending (f : Flash → Flash) : (s.modFlash f).pending = s.pending := rfl
@[simp] theorem State.modFlash_core_eq (f : Flash → Flash) (m : Nat) : (s.modFlash f).core m = s.core m := rfl
@[simp] theorem State.modFlash_part_eq (f : Flash → Flash) (m : Nat) : (s.modFlash f).part m = s.part m := rfl
@[simp] theorem State.modFlash_link_eq (f : Flash → Flash) (m : Nat) : (s.modFlash f).link m = s.link m := rfl
@[simp] theorem State.modFlash_fn_eq (f : Flash → Flash) (m i : Nat) : (s.modFlash f).fn m i = s.fn m i := rfl
@[simp] theorem State.modFlash_port_eq (f : Flash → Flash) (m : Nat) : (s.modFlash f).port m = s.port m := rfl
@[simp] theorem State.modFlash_rail_eq (f : Flash → Flash) (m : Nat) : (s.modFlash f).rail m = s.rail m := rfl

@[simp] theorem State.modWnd_pwr (f : Wnd → Wnd) : (s.modWnd f).pwr = s.pwr := rfl
@[simp] theorem State.modWnd_flash (f : Wnd → Wnd) : (s.modWnd f).flash = s.flash := rfl
@[simp] theorem State.modWnd_links (f : Wnd → Wnd) : (s.modWnd f).links = s.links := rfl
@[simp] theorem State.modWnd_wnd (f : Wnd → Wnd) : (s.modWnd f).wnd = f s.wnd := rfl
@[simp] theorem State.modWnd_cores (f : Wnd → Wnd) : (s.modWnd f).cores = s.cores := rfl
@[simp] theorem State.modWnd_mem (f : Wnd → Wnd) : (s.modWnd f).mem = s.mem := rfl
@[simp] theorem State.modWnd_parts (f : Wnd → Wnd) : (s.modWnd f).parts = s.parts := rfl
@[simp] theorem State.modWnd_lnk (f : Wnd → Wnd) : (s.modWnd f).lnk = s.lnk := rfl
@[simp] theorem State.modWnd_mesh (f : Wnd → Wnd) : (s.modWnd f).mesh = s.mesh := rfl
@[simp] theorem State.modWnd_time (f : Wnd → Wnd) : (s.modWnd f).time = s.time := rfl
@[simp] theorem State.modWnd_plog (f : Wnd → Wnd) : (s.modWnd f).plog = s.plog := rfl
@[simp] theorem State.modWnd_sec (f : Wnd → Wnd) : (s.modWnd f).sec = s.sec := rfl
@[simp] theorem State.modWnd_mgt (f : Wnd → Wnd) : (s.modWnd f).mgt = s.mgt := rfl
@[simp] theorem State.modWnd_fresh (f : Wnd → Wnd) : (s.modWnd f).fresh = s.fresh := rfl
@[simp] theorem State.modWnd_pending (f : Wnd → Wnd) : (s.modWnd f).pending = s.pending := rfl
@[simp] theorem State.modWnd_core_eq (f : Wnd → Wnd) (m : Nat) : (s.modWnd f).core m = s.core m := rfl
@[simp] theorem State.modWnd_part_eq (f : Wnd → Wnd) (m : Nat) : (s.modWnd f).part m = s.part m := rfl
@[simp] theorem State.modWnd_link_eq (f : Wnd → Wnd) (m : Nat) : (s.modWnd f).link m = s.link m := rfl
@[simp] theorem State.modWnd_fn_eq (f : Wnd → Wnd) (m i : Nat) : (s.modWnd f).fn m i = s.fn m i := rfl
@[simp] theorem State.modWnd_port_eq (f : Wnd → Wnd) (m : Nat) : (s.modWnd f).port m = s.port m := rfl
@[simp] theorem State.modWnd_rail_eq (f : Wnd → Wnd) (m : Nat) : (s.modWnd f).rail m = s.rail m := rfl

@[simp] theorem State.modMem_pwr (f : Mem → Mem) : (s.modMem f).pwr = s.pwr := rfl
@[simp] theorem State.modMem_flash (f : Mem → Mem) : (s.modMem f).flash = s.flash := rfl
@[simp] theorem State.modMem_links (f : Mem → Mem) : (s.modMem f).links = s.links := rfl
@[simp] theorem State.modMem_wnd (f : Mem → Mem) : (s.modMem f).wnd = s.wnd := rfl
@[simp] theorem State.modMem_cores (f : Mem → Mem) : (s.modMem f).cores = s.cores := rfl
@[simp] theorem State.modMem_mem (f : Mem → Mem) : (s.modMem f).mem = f s.mem := rfl
@[simp] theorem State.modMem_parts (f : Mem → Mem) : (s.modMem f).parts = s.parts := rfl
@[simp] theorem State.modMem_lnk (f : Mem → Mem) : (s.modMem f).lnk = s.lnk := rfl
@[simp] theorem State.modMem_mesh (f : Mem → Mem) : (s.modMem f).mesh = s.mesh := rfl
@[simp] theorem State.modMem_time (f : Mem → Mem) : (s.modMem f).time = s.time := rfl
@[simp] theorem State.modMem_plog (f : Mem → Mem) : (s.modMem f).plog = s.plog := rfl
@[simp] theorem State.modMem_sec (f : Mem → Mem) : (s.modMem f).sec = s.sec := rfl
@[simp] theorem State.modMem_mgt (f : Mem → Mem) : (s.modMem f).mgt = s.mgt := rfl
@[simp] theorem State.modMem_fresh (f : Mem → Mem) : (s.modMem f).fresh = s.fresh := rfl
@[simp] theorem State.modMem_pending (f : Mem → Mem) : (s.modMem f).pending = s.pending := rfl
@[simp] theorem State.modMem_core_eq (f : Mem → Mem) (m : Nat) : (s.modMem f).core m = s.core m := rfl
@[simp] theorem State.modMem_part_eq (f : Mem → Mem) (m : Nat) : (s.modMem f).part m = s.part m := rfl
@[simp] theorem State.modMem_link_eq (f : Mem → Mem) (m : Nat) : (s.modMem f).link m = s.link m := rfl
@[simp] theorem State.modMem_fn_eq (f : Mem → Mem) (m i : Nat) : (s.modMem f).fn m i = s.fn m i := rfl
@[simp] theorem State.modMem_port_eq (f : Mem → Mem) (m : Nat) : (s.modMem f).port m = s.port m := rfl
@[simp] theorem State.modMem_rail_eq (f : Mem → Mem) (m : Nat) : (s.modMem f).rail m = s.rail m := rfl

@[simp] theorem State.modLnk_pwr (f : Lnk → Lnk) : (s.modLnk f).pwr = s.pwr := rfl
@[simp] theorem State.modLnk_flash (f : Lnk → Lnk) : (s.modLnk f).flash = s.flash := rfl
@[simp] theorem State.modLnk_links (f : Lnk → Lnk) : (s.modLnk f).links = s.links := rfl
@[simp] theorem State.modLnk_wnd (f : Lnk → Lnk) : (s.modLnk f).wnd = s.wnd := rfl
@[simp] theorem State.modLnk_cores (f : Lnk → Lnk) : (s.modLnk f).cores = s.cores := rfl
@[simp] theorem State.modLnk_mem (f : Lnk → Lnk) : (s.modLnk f).mem = s.mem := rfl
@[simp] theorem State.modLnk_parts (f : Lnk → Lnk) : (s.modLnk f).parts = s.parts := rfl
@[simp] theorem State.modLnk_lnk (f : Lnk → Lnk) : (s.modLnk f).lnk = f s.lnk := rfl
@[simp] theorem State.modLnk_mesh (f : Lnk → Lnk) : (s.modLnk f).mesh = s.mesh := rfl
@[simp] theorem State.modLnk_time (f : Lnk → Lnk) : (s.modLnk f).time = s.time := rfl
@[simp] theorem State.modLnk_plog (f : Lnk → Lnk) : (s.modLnk f).plog = s.plog := rfl
@[simp] theorem State.modLnk_sec (f : Lnk → Lnk) : (s.modLnk f).sec = s.sec := rfl
@[simp] theorem State.modLnk_mgt (f : Lnk → Lnk) : (s.modLnk f).mgt = s.mgt := rfl
@[simp] theorem State.modLnk_fresh (f : Lnk → Lnk) : (s.modLnk f).fresh = s.fresh := rfl
@[simp] theorem State.modLnk_pending (f : Lnk → Lnk) : (s.modLnk f).pending = s.pending := rfl
@[simp] theorem State.modLnk_core_eq (f : Lnk → Lnk) (m : Nat) : (s.modLnk f).core m = s.core m := rfl
@[simp] theorem State.modLnk_part_eq (f : Lnk → Lnk) (m : Nat) : (s.modLnk f).part m = s.part m := rfl
@[simp] theorem State.modLnk_link_eq (f : Lnk → Lnk) (m : Nat) : (s.modLnk f).link m = s.link m := rfl
@[simp] theorem State.modLnk_fn_eq (f : Lnk → Lnk) (m i : Nat) : (s.modLnk f).fn m i = s.fn m i := rfl
@[simp] theorem State.modLnk_rail_eq (f : Lnk → Lnk) (m : Nat) : (s.modLnk f).rail m = s.rail m := rfl

@[simp] theorem State.modTime_pwr (f : TimeSt → TimeSt) : (s.modTime f).pwr = s.pwr := rfl
@[simp] theorem State.modTime_flash (f : TimeSt → TimeSt) : (s.modTime f).flash = s.flash := rfl
@[simp] theorem State.modTime_links (f : TimeSt → TimeSt) : (s.modTime f).links = s.links := rfl
@[simp] theorem State.modTime_wnd (f : TimeSt → TimeSt) : (s.modTime f).wnd = s.wnd := rfl
@[simp] theorem State.modTime_cores (f : TimeSt → TimeSt) : (s.modTime f).cores = s.cores := rfl
@[simp] theorem State.modTime_mem (f : TimeSt → TimeSt) : (s.modTime f).mem = s.mem := rfl
@[simp] theorem State.modTime_parts (f : TimeSt → TimeSt) : (s.modTime f).parts = s.parts := rfl
@[simp] theorem State.modTime_lnk (f : TimeSt → TimeSt) : (s.modTime f).lnk = s.lnk := rfl
@[simp] theorem State.modTime_mesh (f : TimeSt → TimeSt) : (s.modTime f).mesh = s.mesh := rfl
@[simp] theorem State.modTime_time (f : TimeSt → TimeSt) : (s.modTime f).time = f s.time := rfl
@[simp] theorem State.modTime_plog (f : TimeSt → TimeSt) : (s.modTime f).plog = s.plog := rfl
@[simp] theorem State.modTime_sec (f : TimeSt → TimeSt) : (s.modTime f).sec = s.sec := rfl
@[simp] theorem State.modTime_mgt (f : TimeSt → TimeSt) : (s.modTime f).mgt = s.mgt := rfl
@[simp] theorem State.modTime_fresh (f : TimeSt → TimeSt) : (s.modTime f).fresh = s.fresh := rfl
@[simp] theorem State.modTime_pending (f : TimeSt → TimeSt) : (s.modTime f).pending = s.pending := rfl
@[simp] theorem State.modTime_core_eq (f : TimeSt → TimeSt) (m : Nat) : (s.modTime f).core m = s.core m := rfl
@[simp] theorem State.modTime_part_eq (f : TimeSt → TimeSt) (m : Nat) : (s.modTime f).part m = s.part m := rfl
@[simp] theorem State.modTime_link_eq (f : TimeSt → TimeSt) (m : Nat) : (s.modTime f).link m = s.link m := rfl
@[simp] theorem State.modTime_fn_eq (f : TimeSt → TimeSt) (m i : Nat) : (s.modTime f).fn m i = s.fn m i := rfl
@[simp] theorem State.modTime_port_eq (f : TimeSt → TimeSt) (m : Nat) : (s.modTime f).port m = s.port m := rfl
@[simp] theorem State.modTime_rail_eq (f : TimeSt → TimeSt) (m : Nat) : (s.modTime f).rail m = s.rail m := rfl

@[simp] theorem State.modPlog_pwr (f : Plog → Plog) : (s.modPlog f).pwr = s.pwr := rfl
@[simp] theorem State.modPlog_flash (f : Plog → Plog) : (s.modPlog f).flash = s.flash := rfl
@[simp] theorem State.modPlog_links (f : Plog → Plog) : (s.modPlog f).links = s.links := rfl
@[simp] theorem State.modPlog_wnd (f : Plog → Plog) : (s.modPlog f).wnd = s.wnd := rfl
@[simp] theorem State.modPlog_cores (f : Plog → Plog) : (s.modPlog f).cores = s.cores := rfl
@[simp] theorem State.modPlog_mem (f : Plog → Plog) : (s.modPlog f).mem = s.mem := rfl
@[simp] theorem State.modPlog_parts (f : Plog → Plog) : (s.modPlog f).parts = s.parts := rfl
@[simp] theorem State.modPlog_lnk (f : Plog → Plog) : (s.modPlog f).lnk = s.lnk := rfl
@[simp] theorem State.modPlog_mesh (f : Plog → Plog) : (s.modPlog f).mesh = s.mesh := rfl
@[simp] theorem State.modPlog_time (f : Plog → Plog) : (s.modPlog f).time = s.time := rfl
@[simp] theorem State.modPlog_plog (f : Plog → Plog) : (s.modPlog f).plog = f s.plog := rfl
@[simp] theorem State.modPlog_sec (f : Plog → Plog) : (s.modPlog f).sec = s.sec := rfl
@[simp] theorem State.modPlog_mgt (f : Plog → Plog) : (s.modPlog f).mgt = s.mgt := rfl
@[simp] theorem State.modPlog_fresh (f : Plog → Plog) : (s.modPlog f).fresh = s.fresh := rfl
@[simp] theorem State.modPlog_pending (f : Plog → Plog) : (s.modPlog f).pending = s.pending := rfl
@[simp] theorem State.modPlog_core_eq (f : Plog → Plog) (m : Nat) : (s.modPlog f).core m = s.core m := rfl
@[simp] theorem State.modPlog_part_eq (f : Plog → Plog) (m : Nat) : (s.modPlog f).part m = s.part m := rfl
@[simp] theorem State.modPlog_link_eq (f : Plog → Plog) (m : Nat) : (s.modPlog f).link m = s.link m := rfl
@[simp] theorem State.modPlog_fn_eq (f : Plog → Plog) (m i : Nat) : (s.modPlog f).fn m i = s.fn m i := rfl
@[simp] theorem State.modPlog_port_eq (f : Plog → Plog) (m : Nat) : (s.modPlog f).port m = s.port m := rfl
@[simp] theorem State.modPlog_rail_eq (f : Plog → Plog) (m : Nat) : (s.modPlog f).rail m = s.rail m := rfl

@[simp] theorem State.modSec_pwr (f : Sec → Sec) : (s.modSec f).pwr = s.pwr := rfl
@[simp] theorem State.modSec_flash (f : Sec → Sec) : (s.modSec f).flash = s.flash := rfl
@[simp] theorem State.modSec_links (f : Sec → Sec) : (s.modSec f).links = s.links := rfl
@[simp] theorem State.modSec_wnd (f : Sec → Sec) : (s.modSec f).wnd = s.wnd := rfl
@[simp] theorem State.modSec_cores (f : Sec → Sec) : (s.modSec f).cores = s.cores := rfl
@[simp] theorem State.modSec_mem (f : Sec → Sec) : (s.modSec f).mem = s.mem := rfl
@[simp] theorem State.modSec_parts (f : Sec → Sec) : (s.modSec f).parts = s.parts := rfl
@[simp] theorem State.modSec_lnk (f : Sec → Sec) : (s.modSec f).lnk = s.lnk := rfl
@[simp] theorem State.modSec_mesh (f : Sec → Sec) : (s.modSec f).mesh = s.mesh := rfl
@[simp] theorem State.modSec_time (f : Sec → Sec) : (s.modSec f).time = s.time := rfl
@[simp] theorem State.modSec_plog (f : Sec → Sec) : (s.modSec f).plog = s.plog := rfl
@[simp] theorem State.modSec_sec (f : Sec → Sec) : (s.modSec f).sec = f s.sec := rfl
@[simp] theorem State.modSec_mgt (f : Sec → Sec) : (s.modSec f).mgt = s.mgt := rfl
@[simp] theorem State.modSec_fresh (f : Sec → Sec) : (s.modSec f).fresh = s.fresh := rfl
@[simp] theorem State.modSec_pending (f : Sec → Sec) : (s.modSec f).pending = s.pending := rfl
@[simp] theorem State.modSec_core_eq (f : Sec → Sec) (m : Nat) : (s.modSec f).core m = s.core m := rfl
@[simp] theorem State.modSec_part_eq (f : Sec → Sec) (m : Nat) : (s.modSec f).part m = s.part m := rfl
@[simp] theorem State.modSec_link_eq (f : Sec → Sec) (m : Nat) : (s.modSec f).link m = s.link m := rfl
@[simp] theorem State.modSec_fn_eq (f : Sec → Sec) (m i : Nat) : (s.modSec f).fn m i = s.fn m i := rfl
@[simp] theorem State.modSec_port_eq (f : Sec → Sec) (m : Nat) : (s.modSec f).port m = s.port m := rfl
@[simp] theorem State.modSec_rail_eq (f : Sec → Sec) (m : Nat) : (s.modSec f).rail m = s.rail m := rfl

@[simp] theorem State.modMgt_pwr (f : Mgt → Mgt) : (s.modMgt f).pwr = s.pwr := rfl
@[simp] theorem State.modMgt_flash (f : Mgt → Mgt) : (s.modMgt f).flash = s.flash := rfl
@[simp] theorem State.modMgt_links (f : Mgt → Mgt) : (s.modMgt f).links = s.links := rfl
@[simp] theorem State.modMgt_wnd (f : Mgt → Mgt) : (s.modMgt f).wnd = s.wnd := rfl
@[simp] theorem State.modMgt_cores (f : Mgt → Mgt) : (s.modMgt f).cores = s.cores := rfl
@[simp] theorem State.modMgt_mem (f : Mgt → Mgt) : (s.modMgt f).mem = s.mem := rfl
@[simp] theorem State.modMgt_parts (f : Mgt → Mgt) : (s.modMgt f).parts = s.parts := rfl
@[simp] theorem State.modMgt_lnk (f : Mgt → Mgt) : (s.modMgt f).lnk = s.lnk := rfl
@[simp] theorem State.modMgt_mesh (f : Mgt → Mgt) : (s.modMgt f).mesh = s.mesh := rfl
@[simp] theorem State.modMgt_time (f : Mgt → Mgt) : (s.modMgt f).time = s.time := rfl
@[simp] theorem State.modMgt_plog (f : Mgt → Mgt) : (s.modMgt f).plog = s.plog := rfl
@[simp] theorem State.modMgt_sec (f : Mgt → Mgt) : (s.modMgt f).sec = s.sec := rfl
@[simp] theorem State.modMgt_mgt (f : Mgt → Mgt) : (s.modMgt f).mgt = f s.mgt := rfl
@[simp] theorem State.modMgt_fresh (f : Mgt → Mgt) : (s.modMgt f).fresh = s.fresh := rfl
@[simp] theorem State.modMgt_pending (f : Mgt → Mgt) : (s.modMgt f).pending = s.pending := rfl
@[simp] theorem State.modMgt_core_eq (f : Mgt → Mgt) (m : Nat) : (s.modMgt f).core m = s.core m := rfl
@[simp] theorem State.modMgt_part_eq (f : Mgt → Mgt) (m : Nat) : (s.modMgt f).part m = s.part m := rfl
@[simp] theorem State.modMgt_link_eq (f : Mgt → Mgt) (m : Nat) : (s.modMgt f).link m = s.link m := rfl
@[simp] theorem State.modMgt_fn_eq (f : Mgt → Mgt) (m i : Nat) : (s.modMgt f).fn m i = s.fn m i := rfl
@[simp] theorem State.modMgt_port_eq (f : Mgt → Mgt) (m : Nat) : (s.modMgt f).port m = s.port m := rfl
@[simp] theorem State.modMgt_rail_eq (f : Mgt → Mgt) (m : Nat) : (s.modMgt f).rail m = s.rail m := rfl

@[simp] theorem State.modMesh_pwr (f : Mesh → Mesh) : (s.modMesh f).pwr = s.pwr := rfl
@[simp] theorem State.modMesh_flash (f : Mesh → Mesh) : (s.modMesh f).flash = s.flash := rfl
@[simp] theorem State.modMesh_links (f : Mesh → Mesh) : (s.modMesh f).links = s.links := rfl
@[simp] theorem State.modMesh_wnd (f : Mesh → Mesh) : (s.modMesh f).wnd = s.wnd := rfl
@[simp] theorem State.modMesh_cores (f : Mesh → Mesh) : (s.modMesh f).cores = s.cores := rfl
@[simp] theorem State.modMesh_mem (f : Mesh → Mesh) : (s.modMesh f).mem = s.mem := rfl
@[simp] theorem State.modMesh_parts (f : Mesh → Mesh) : (s.modMesh f).parts = s.parts := rfl
@[simp] theorem State.modMesh_lnk (f : Mesh → Mesh) : (s.modMesh f).lnk = s.lnk := rfl
@[simp] theorem State.modMesh_mesh (f : Mesh → Mesh) : (s.modMesh f).mesh = f s.mesh := rfl
@[simp] theorem State.modMesh_time (f : Mesh → Mesh) : (s.modMesh f).time = s.time := rfl
@[simp] theorem State.modMesh_plog (f : Mesh → Mesh) : (s.modMesh f).plog = s.plog := rfl
@[simp] theorem State.modMesh_sec (f : Mesh → Mesh) : (s.modMesh f).sec = s.sec := rfl
@[simp] theorem State.modMesh_mgt (f : Mesh → Mesh) : (s.modMesh f).mgt = s.mgt := rfl
@[simp] theorem State.modMesh_fresh (f : Mesh → Mesh) : (s.modMesh f).fresh = s.fresh := rfl
@[simp] theorem State.modMesh_pending (f : Mesh → Mesh) : (s.modMesh f).pending = s.pending := rfl
@[simp] theorem State.modMesh_core_eq (f : Mesh → Mesh) (m : Nat) : (s.modMesh f).core m = s.core m := rfl
@[simp] theorem State.modMesh_part_eq (f : Mesh → Mesh) (m : Nat) : (s.modMesh f).part m = s.part m := rfl
@[simp] theorem State.modMesh_link_eq (f : Mesh → Mesh) (m : Nat) : (s.modMesh f).link m = s.link m := rfl
@[simp] theorem State.modMesh_fn_eq (f : Mesh → Mesh) (m i : Nat) : (s.modMesh f).fn m i = s.fn m i := rfl
@[simp] theorem State.modMesh_port_eq (f : Mesh → Mesh) (m : Nat) : (s.modMesh f).port m = s.port m := rfl
@[simp] theorem State.modMesh_rail_eq (f : Mesh → Mesh) (m : Nat) : (s.modMesh f).rail m = s.rail m := rfl

@[simp] theorem State.flashWrite_pwr (a : Nat) (b : Bytes) : (s.flashWrite a b).pwr = s.pwr := rfl
@[simp] theorem State.flashWrite_flash (a : Nat) (b : Bytes) : (s.flashWrite a b).flash = { s.flash with bytes := Mem1.write flashD s.flash.bytes a b } := rfl
@[simp] theorem State.flashWrite_links (a : Nat) (b : Bytes) : (s.flashWrite a b).links = s.links := rfl
@[simp] theorem State.flashWrite_wnd (a : Nat) (b : Bytes) : (s.flashWrite a b).wnd = s.wnd := rfl
@[simp] theorem State.flashWrite_cores (a : Nat) (b : Bytes) : (s.flashWrite a b).cores = s.cores := rfl
@[simp] theorem State.flashWrite_mem (a : Nat) (b : Bytes) : (s.flashWrite a b).mem = s.mem := rfl
@[simp] theorem State.flashWrite_parts (a : Nat) (b : Bytes) : (s.flashWrite a b).parts = s.parts := rfl
@[simp] theorem State.flashWrite_lnk (a : Nat) (b : Bytes) : (s.flashWrite a b).lnk = s.lnk := rfl
@[simp] theorem State.flashWrite_mesh (a : Nat) (b : Bytes) : (s.flashWrite a b).mesh = s.mesh := rfl
@[simp] theorem State.flashWrite_time (a : Nat) (b : Bytes) : (s.flashWrite a b).time = s.time := rfl
@[simp] theorem State.flashWrite_plog (a : Nat) (b : Bytes) : (s.flashWrite a b).plog = s.plog := rfl
@[simp] theorem State.flashWrite_sec (a : Nat) (b : Bytes) : (s.flashWrite a b).sec = s.sec := rfl
@[simp] theorem State.flashWrite_mgt (a : Nat) (b : Bytes) : (s.flashWrite a b).mgt = s.mgt := rfl
@[simp] theorem State.flashWrite_fresh (a : Nat) (b : Bytes) : (s.flashWrite a b).fresh = s.fresh := rfl
@[simp] theorem State.flashWrite_pending (a : Nat) (b : Bytes) : (s.flashWrite a b).pending = s.pending := rfl
@[simp] theorem State.flashWrite_core_eq (a : Nat) (b : Bytes) (m : Nat) : (s.flashWrite a b).core m = s.core m := rfl
@[simp] theorem State.flashWrite_part_eq (a : Nat) (b : Bytes) (m : Nat) : (s.flashWrite a b).part m = s.part m := rfl
@[simp] theorem State.flashWrite_link_eq (a : Nat) (b : Bytes) (m : Nat) : (s.flashWrite a b).link m = s.link m := rfl
@[simp] theorem State.flashWrite_fn_eq (a : Nat) (b : Bytes) (m i : Nat) : (s.flashWrite a b).fn m i = s.fn m i := rfl
@[simp] theorem State.flashWrite_port_eq (a : Nat) (b : Bytes) (m : Nat) : (s.flashWrite a b).port m = s.port m := rfl
@[simp] theorem State.flashWrite_rail_eq (a : Nat) (b : Bytes) (m : Nat) : (s.flashWrite a b).rail m = s.rail m := rfl

@[simp] theorem State.hostWrite_pwr (k j a : Nat) (b : Bytes) : (s.hostWrite k j a b).pwr = s.pwr := rfl
@[simp] theorem State.hostWrite_flash (k j a : Nat) (b : Bytes) : (s.hostWrite k j a b).flash = s.flash := rfl
@[simp] theorem State.hostWrite_links (k j a : Nat) (b : Bytes) : (s.hostWrite k j a b).links = s.links.modify k (fun l => { l with hostMem := Mem1.write ramD l.hostMem (hostKey j a) b }) := rfl
@[simp] theorem State.hostWrite_wnd (k j a : Nat) (b : Bytes) : (s.hostWrite k j a b).wnd = s.wnd := rfl
@[simp] theorem State.hostWrite_cores (k j a : Nat) (b : Bytes) : (s.hostWrite k j a b).cores = s.cores := rfl
@[simp] theorem State.hostWrite_mem (k j a : Nat) (b : Bytes) : (s.hostWrite k j a b).mem = s.mem := rfl
@[simp] theorem State.hostWrite_parts (k j a : Nat) (b : Bytes) : (s.hostWrite k j a b).parts = s.parts := rfl
@[simp] theorem State.hostWrite_lnk (k j a : Nat) (b : Bytes) : (s.hostWrite k j a b).lnk = s.lnk := rfl
@[simp] theorem State.hostWrite_mesh (k j a : Nat) (b : Bytes) : (s.hostWrite k j a b).mesh = s.mesh := rfl
@[simp] theorem State.hostWrite_time (k j a : Nat) (b : Bytes) : (s.hostWrite k j a b).time = s.time := rfl
@[simp] theorem State.hostWrite_plog (k j a : Nat) (b : Bytes) : (s.hostWrite k j a b).plog = s.plog := rfl
@[simp] theorem State.hostWrite_sec (k j a : Nat) (b : Bytes) : (s.hostWrite k j a b).sec = s.sec := rfl
@[simp] theorem State.hostWrite_mgt (k j a : Nat) (b : Bytes) : (s.hostWrite k j a b).mgt = s.mgt := rfl
@[simp] theorem State.hostWrite_fresh (k j a : Nat) (b : Bytes) : (s.hostWrite k j a b).fresh = s.fresh := rfl
@[simp] theorem State.hostWrite_pending (k j a : Nat) (b : Bytes) : (s.hostWrite k j a b).pending = s.pending := rfl
@[simp] theorem State.hostWrite_core_eq (k j a : Nat) (b : Bytes) (m : Nat) : (s.hostWrite k j a b).core m = s.core m := rfl
@[simp] theorem State.hostWrite_part_eq (k j a : Nat) (b : Bytes) (m : Nat) : (s.hostWrite k j a b).part m = s.part m := rfl
@[simp] theorem State.hostWrite_port_eq (k j a : Nat) (b : Bytes) (m : Nat) : (s.hostWrite k j a b).port m = s.port m := rfl
@[simp] theorem State.hostWrite_rail_eq (k j a : Nat) (b : Bytes) (m : Nat) : (s.hostWrite k j a b).rail m = s.rail m := rfl

/-- Reading an entry of a list after one entry was modified. -/
theorem getD_modify {α : Type} (l : List α) (n m : Nat) (f : α → α) (d : α) :
    (l.modify n f).getD m d = if n = m ∧ m < l.length then f (l.getD m d) else l.getD m d := by
  rw [List.getD_eq_getElem?_getD, List.getD_eq_getElem?_getD, List.getElem?_modify]
  by_cases h : m < l.length
  · by_cases e : n = m <;> simp [h, e]
  · rw [List.getElem?_eq_none (by omega)]
    simp [h]

/-- The core read after a core was changed: changed itself when it is that one of the cores there are, and as it was otherwise. -/
theorem State.core_modCore (n m : Nat) (f : Core → Core) :
    (s.modCore n f).core m = if n = m ∧ m < s.cores.length then f (s.core m) else s.core m := getD_modify _ _ _ _ _

theorem State.core_modCore_self {n : Nat} (h : n < s.cores.length) (f : Core → Core) : (s.modCore n f).core n = f (s.core n) := by
  simp [State.core_modCore, h]

theorem State.core_modCore_ne {n m : Nat} (h : n ≠ m) (f : Core → Core) : (s.modCore n f).core m = s.core m := by
  simp [State.core_modCore, h]

/-- The partition read after a partition was changed. -/
theorem State.part_modPart (p q : Nat) (f : Part → Part) :
    (s.modPart p f).part q = if p = q ∧ q < s.parts.length then f (s.part q) else s.part q := getD_modify _ _ _ _ _

theorem State.part_modPart_self {p : Nat} (h : p < s.parts.length) (f : Part → Part) : (s.modPart p f).part p = f (s.part p) := by
  simp [State.part_modPart, h]

theorem State.part_modPart_ne {p q : Nat} (h : p ≠ q) (f : Part → Part) : (s.modPart p f).part q = s.part q := by
  simp [State.part_modPart, h]

/-- The host link read after a host link was changed. -/
theorem State.link_modLink (k m : Nat) (f : HostLink → HostLink) :
    (s.modLink k f).link m = if k = m ∧ m < s.links.length then f (s.link m) else s.link m := getD_modify _ _ _ _ _

theorem State.link_modFn (k j m : Nat) (f : Fn → Fn) :
    (s.modFn k j f).link m
      = if k = m ∧ m < s.links.length then { s.link m with fns := (s.link m).fns.modify j f } else s.link m :=
  getD_modify _ _ _ _ _

/-- The function read after a function was changed. -/
theorem State.fn_modFn (k j m i : Nat) (f : Fn → Fn) :
    (s.modFn k j f).fn m i
      = if (k = m ∧ m < s.links.length) ∧ j = i ∧ i < (s.link m).fns.length then f (s.fn m i) else s.fn m i := by
  simp only [State.fn, State.link_modFn]
  split
  · rename_i h
    simp only [h, and_self, true_and, getD_modify]
  · rename_i h
    simp [h]

/-- The port read after a port was changed. -/
theorem State.port_modPort (p q : Nat) (f : PortSt → PortSt) :
    (s.modPort p f).port q = if p = q ∧ q < s.lnk.ports.length then f (s.port q) else s.port q := getD_modify _ _ _ _ _

/-- The regulator read after a regulator was changed. -/
theorem State.rail_modRail (r q : Nat) (f : Rail → Rail) :
    (s.modRail r f).rail q = if r = q ∧ q < s.pwr.rails.length then f (s.rail q) else s.rail q := getD_modify _ _ _ _ _

/-- No update changes how many cores, partitions, links, ports and regulators there are. -/
theorem State.modCore_length (n : Nat) (f : Core → Core) : (s.modCore n f).cores.length = s.cores.length := by simp
theorem State.modPart_length (p : Nat) (f : Part → Part) : (s.modPart p f).parts.length = s.parts.length := by simp
theorem State.modLink_length (k : Nat) (f : HostLink → HostLink) : (s.modLink k f).links.length = s.links.length := by simp
theorem State.modPort_length (p : Nat) (f : PortSt → PortSt) : (s.modPort p f).lnk.ports.length = s.lnk.ports.length := by simp
theorem State.modRail_length (r : Nat) (f : Rail → Rail) : (s.modRail r f).pwr.rails.length = s.pwr.rails.length := by simp

/-- A free value is the counter's, and drawing it changes nothing but the counter (log 6). -/
@[simp] theorem State.draw_value : s.draw.1 = s.fresh := rfl
@[simp] theorem State.draw_state : s.draw.2 = { s with fresh := s.fresh + 1 } := rfl

end Sys2Proof.Machine
end

