-- ==== Sys2Proof/Laws/Keeps.lean ====
section
/-! SUPPORT. What every shared operation keeps: the queue of commands, the counts that the LX-960 is built with, and the canonical
form of every memory. -/

namespace Sys2Proof.Machine

/-- `t` has the queue of `s`, its counts when they are right, and its memories in canonical form when they are so. -/
structure Keeps (s t : State) : Prop where
  pending : t.pending = s.pending
  shape : s.Shape → t.Shape
  canonical : s.Canonical → t.Canonical

theorem Keeps.refl (s : State) : Keeps s s := ⟨rfl, id, id⟩

theorem Keeps.trans {s t u : State} (h : Keeps s t) (k : Keeps t u) : Keeps s u :=
  ⟨k.pending.trans h.pending, k.shape ∘ h.shape, k.canonical ∘ h.canonical⟩

/-- A fold keeps what each of its steps keeps. -/
theorem Keeps.foldl {α : Type} {r s : State} {l : List α} {f : State → α → State} (h : Keeps r s)
    (hf : ∀ t x, Keeps r t → Keeps r (f t x)) : Keeps r (l.foldl f s) := by
  induction l generalizing s with
  | nil => exact h
  | cons a l ih => exact ih (hf _ _ h)

theorem mem_modify {α : Type} {l : List α} {n : Nat} {f : α → α} {x : α} (h : x ∈ l.modify n f) : x ∈ l ∨ ∃ y ∈ l, x = f y := by
  rw [List.mem_iff_getElem?] at h
  obtain ⟨i, hi⟩ := h
  rw [List.getElem?_modify] at hi
  cases hx : l[i]? with
  | none => simp [hx] at hi
  | some y =>
    have hy : y ∈ l := List.mem_of_getElem? hx
    by_cases e : n = i
    · simp [hx, e] at hi
      exact .inr ⟨y, hy, hi.symm⟩
    · simp [hx, e] at hi
      exact .inl (hi ▸ hy)

section
variable {r s : State}

theorem Keeps.modCore (h : Keeps r s) {n : Nat} {f : Core → Core} (hf : ∀ c, Mem1.wf ramD c.sp = true → Mem1.wf ramD (f c).sp = true) :
    Keeps r (s.modCore n f) where
  pending := h.pending
  shape k := by simpa [State.Shape] using h.shape k
  canonical k := by
    obtain ⟨a, b, c, d, e⟩ := h.canonical k
    refine ⟨a, b, c, ?_, e⟩
    intro x hx
    rcases mem_modify hx with hx | ⟨y, hy, rfl⟩
    · exact d x hx
    · exact hf y (d y hy)

theorem Keeps.modPart (h : Keeps r s) {p : Nat} {f : Part → Part} : Keeps r (s.modPart p f) where
  pending := h.pending
  shape k := by simpa [State.Shape] using h.shape k
  canonical k := h.canonical k

theorem Keeps.modLink (h : Keeps r s) {n : Nat} {f : HostLink → HostLink} (hl : ∀ l, l.fns.length = 8 → (f l).fns.length = 8)
    (hf : ∀ l, Mem1.wf ramD l.hostMem = true → Mem1.wf ramD (f l).hostMem = true) : Keeps r (s.modLink n f) where
  pending := h.pending
  shape k := by
    obtain ⟨a, b, c, d, e, g⟩ := h.shape k
    refine ⟨a, b, c, by simpa using d, ?_, g⟩
    intro x hx
    rcases mem_modify hx with hx | ⟨y, hy, rfl⟩
    · exact e x hx
    · exact hl y (e y hy)
  canonical k := by
    obtain ⟨a, b, c, d⟩ := h.canonical k
    refine ⟨a, b, ?_, d⟩
    intro x hx
    rcases mem_modify hx with hx | ⟨y, hy, rfl⟩
    · exact c x hx
    · exact hf y (c y hy)

theorem Keeps.modFn (h : Keeps r s) {k j : Nat} {f : Fn → Fn} : Keeps r (s.modFn k j f) :=
  h.modLink (fun _ k => by simpa using k) (fun _ h => h)

theorem Keeps.modPort (h : Keeps r s) {p : Nat} {f : PortSt → PortSt} : Keeps r (s.modPort p f) where
  pending := h.pending
  shape k := by simpa [State.Shape] using h.shape k
  canonical k := h.canonical k

theorem Keeps.modRail (h : Keeps r s) {p : Nat} {f : Rail → Rail} : Keeps r (s.modRail p f) where
  pending := h.pending
  shape k := by simpa [State.Shape] using h.shape k
  canonical k := h.canonical k

theorem Keeps.modPwr (h : Keeps r s) {f : Pwr → Pwr} (hf : ∀ p, p.rails.length = 8 → (f p).rails.length = 8) : Keeps r (s.modPwr f) where
  pending := h.pending
  shape k := by
    obtain ⟨a, b, c, d, e, g, x⟩ := h.shape k
    exact ⟨a, b, c, d, e, g, hf _ x⟩
  canonical k := h.canonical k

theorem Keeps.modFlash (h : Keeps r s) {f : Flash → Flash}
    (hf : ∀ x, Mem1.wf flashD x.bytes = true → Mem1.wf flashD (f x).bytes = true)
    (hb : ∀ x, Mem1.wf flashD x.sectorBuf = true → Mem1.wf flashD (f x).sectorBuf = true)
    (hh : ∀ x, Mem1.wf flashD x.bytes = true → Mem1.wf flashD x.harvestArea = true → Mem1.wf flashD (f x).harvestArea = true) :
    Keeps r (s.modFlash f) where
  pending := h.pending
  shape k := h.shape k
  canonical k := by
    obtain ⟨a, b, c, d, e, g⟩ := h.canonical k
    exact ⟨hf _ a, b, c, d, hb _ e, g.1, hh _ a g.2⟩

theorem Keeps.modWnd (h : Keeps r s) {f : Wnd → Wnd} (hf : ∀ w, w.clusters.length = 16 → (f w).clusters.length = 16) : Keeps r (s.modWnd f) where
  pending := h.pending
  shape k := by
    obtain ⟨a, b, c⟩ := h.shape k
    exact ⟨a, hf _ b, c⟩
  canonical k := h.canonical k

theorem Keeps.modMem (h : Keeps r s) {f : Mem → Mem} (hf : ∀ m, Mem1.wf ramD m.dram = true → Mem1.wf ramD (f m).dram = true) :
    Keeps r (s.modMem f) where
  pending := h.pending
  shape k := h.shape k
  canonical k := by
    obtain ⟨a, b, c, d, e, g⟩ := h.canonical k
    exact ⟨a, hf _ b, c, d, e, g⟩

theorem Keeps.modLnk (h : Keeps r s) {f : Lnk → Lnk} (hf : ∀ l, l.ports.length = 6 → (f l).ports.length = 6) : Keeps r (s.modLnk f) where
  pending := h.pending
  shape k := by
    obtain ⟨a, b, c, d, e, g, x⟩ := h.shape k
    exact ⟨a, b, c, d, e, hf _ g, x⟩
  canonical k := h.canonical k

theorem Keeps.modTime (h : Keeps r s) {f : TimeSt → TimeSt} : Keeps r (s.modTime f) := ⟨h.pending, h.shape, h.canonical⟩
theorem Keeps.modPlog (h : Keeps r s) {f : Plog → Plog} : Keeps r (s.modPlog f) := ⟨h.pending, h.shape, h.canonical⟩
theorem Keeps.modMgt (h : Keeps r s) {f : Mgt → Mgt} : Keeps r (s.modMgt f) := ⟨h.pending, h.shape, h.canonical⟩
theorem Keeps.modMesh (h : Keeps r s) {f : Mesh → Mesh} : Keeps r (s.modMesh f) := ⟨h.pending, h.shape, h.canonical⟩
theorem Keeps.draw (h : Keeps r s) : Keeps r s.draw.2 := ⟨h.pending, h.shape, h.canonical⟩

theorem Keeps.modSec (h : Keeps r s) {f : Sec → Sec} (hf : ∀ m, Mem1.wf ramD m.mgmtBuf = true → Mem1.wf ramD (f m).mgmtBuf = true) :
    Keeps r (s.modSec f) where
  pending := h.pending
  shape k := h.shape k
  canonical k := by
    obtain ⟨a, b, c, d, e, g⟩ := h.canonical k
    exact ⟨a, b, c, d, e, hf _ g.1, g.2⟩

theorem Keeps.flashWrite (h : Keeps r s) {a : Nat} {b : Bytes} : Keeps r (s.flashWrite a b) :=
  h.modFlash (fun _ => Mem1.wf_write _ _ _ _) (fun _ h => h) (fun _ _ h => h)
theorem Keeps.flashErase (h : Keeps r s) {a : Nat} : Keeps r (s.flashErase a) := 
  h.modFlash (fun _ => Mem1.wf_keep _ _) (fun _ h => h) (fun _ _ h => h)
theorem Keeps.hostWrite (h : Keeps r s) {k j a : Nat} {b : Bytes} : Keeps r (s.hostWrite k j a b) :=
  h.modLink (fun _ k => k) (fun _ => Mem1.wf_write _ _ _ _)
end

theorem Keeps.of_fst {α : Type} {r t : State} {p : State × α} {a : α} (h : Keeps r p.1) (e : p = (t, a)) : Keeps r t := by
  subst e; exact h

theorem Keeps.of_snd {α : Type} {r t : State} {p : α × State} {a : α} (h : Keeps r p.2) (e : p = (a, t)) : Keeps r t := by
  subst e; exact h

theorem sp_wf_foldl {α : Type} {l : List α} {c : Core} {f : Core → α → Core} (h : Mem1.wf ramD c.sp = true)
    (hf : ∀ d x, Mem1.wf ramD d.sp = true → Mem1.wf ramD (f d x).sp = true) : Mem1.wf ramD (l.foldl f c).sp = true := by
  induction l generalizing c with
  | nil => exact h
  | cons a l ih => exact ih (hf _ _ h)

theorem Keeps.foldl_fst {α β : Type} {r : State} {l : List α} {f : State × β → α → State × β} {p : State × β} (h : Keeps r p.1)
    (hf : ∀ q x, Keeps r q.1 → Keeps r (f q x).1) : Keeps r (l.foldl f p).1 := by
  induction l generalizing p with
  | nil => exact h
  | cons a l ih => exact ih (hf _ _ h)

theorem Keeps.foldl_snd {α β : Type} {r : State} {l : List α} {f : β × State → α → β × State} {p : β × State} (h : Keeps r p.2)
    (hf : ∀ q x, Keeps r q.2 → Keeps r (f q x).2) : Keeps r (l.foldl f p).2 := by
  induction l generalizing p with
  | nil => exact h
  | cons a l ih => exact ih (hf _ _ h)

theorem Keeps.setCores {r s : State} {cs : List Core} (h : Keeps r s) (hl : s.cores.length = 192 → cs.length = 192)
    (hc : (∀ c ∈ s.cores, Mem1.wf ramD c.sp = true) → ∀ c ∈ cs, Mem1.wf ramD c.sp = true) : Keeps r { s with cores := cs } where
  pending := h.pending
  shape k := by
    obtain ⟨a, b⟩ := h.shape k
    exact ⟨hl a, b⟩
  canonical k := by
    obtain ⟨a, b, c, d, e⟩ := h.canonical k
    exact ⟨a, b, c, hc d, e⟩

theorem Keeps.mapCores {r s : State} {g : Core → Core} (h : Keeps r s) (hg : ∀ c, Mem1.wf ramD c.sp = true → Mem1.wf ramD (g c).sp = true) :
    Keeps r { s with cores := s.cores.map g } :=
  h.setCores (fun k => (List.length_map _).trans k) (fun k x hx => by obtain ⟨y, hy, rfl⟩ := List.mem_map.1 hx; exact hg y (k y hy))

theorem Keeps.setLinks {r s : State} {cs : List HostLink} (h : Keeps r s) (hl : s.links.length = 4 → cs.length = 4)
    (hf : (∀ c ∈ s.links, c.fns.length = 8) → ∀ c ∈ cs, c.fns.length = 8)
    (hc : (∀ c ∈ s.links, Mem1.wf ramD c.hostMem = true) → ∀ c ∈ cs, Mem1.wf ramD c.hostMem = true) : Keeps r { s with links := cs } where
  pending := h.pending
  shape k := by
    obtain ⟨a, b, c, d, e, f⟩ := h.shape k
    exact ⟨a, b, c, hl d, hf e, f⟩
  canonical k := by
    obtain ⟨a, b, c, d⟩ := h.canonical k
    exact ⟨a, b, hc c, d⟩

theorem Keeps.modCoreAt {r s : State} (h : Keeps r s) {n : Nat} {c : Core}
    (hf : Mem1.wf ramD (s.core n).sp = true → Mem1.wf ramD c.sp = true) : Keeps r (s.modCore n (fun _ => c)) where
  pending := h.pending
  shape k := by simpa [State.Shape] using h.shape k
  canonical k := by
    obtain ⟨a, b, e, d, g⟩ := h.canonical k
    refine ⟨a, b, e, ?_, g⟩
    intro x hx
    by_cases hn : n < s.cores.length
    · rcases mem_modify hx with hx | ⟨y, hy, rfl⟩
      · exact d x hx
      · refine hf (d _ ?_)
        simp [State.core, List.getD_eq_getElem?_getD, hn]
    · have : s.cores.modify n (fun _ => c) = s.cores := List.modify_eq_self (by omega)
      simp only [State.modCore, this] at hx
      exact d x hx

theorem Keeps.mapLinks {r s : State} {g : HostLink → HostLink} (h : Keeps r s) (hf : ∀ l, l.fns.length = 8 → (g l).fns.length = 8)
    (hc : ∀ l, Mem1.wf ramD l.hostMem = true → Mem1.wf ramD (g l).hostMem = true) : Keeps r { s with links := s.links.map g } :=
  h.setLinks (fun k => (List.length_map _).trans k) (fun k x hx => by obtain ⟨y, hy, rfl⟩ := List.mem_map.1 hx; exact hf y (k y hy))
    (fun k x hx => by obtain ⟨y, hy, rfl⟩ := List.mem_map.1 hx; exact hc y (k y hy))

theorem Keeps.ite {r a b : State} {c : Prop} [Decidable c] (ha : Keeps r a) (hb : Keeps r b) : Keeps r (if c then a else b) := by
  split
  · exact ha
  · exact hb

theorem Keeps.setMgt {r s : State} {m : Mgt} (h : Keeps r s) : Keeps r { s with mgt := m } := ⟨h.pending, h.shape, h.canonical⟩

theorem forall_mem_map {α β : Type} {g : β → α} {P : α → Prop} {L : List β} (hg : ∀ y ∈ L, P (g y)) : ∀ x ∈ L.map g, P x := by
  intro x hx; obtain ⟨y, hy, rfl⟩ := List.mem_map.1 hx; exact hg y hy

/-- A core that may be there has its scratchpad in canonical form. -/
structure SomeWf (o : Option Core) : Prop where
  ok : ∀ c, o = some c → Mem1.wf ramD c.sp = true
/-- A core that an operation answers has its scratchpad in canonical form. -/
structure InlWf {α : Type} (o : Core ⊕ α) : Prop where
  ok : ∀ c, o = .inl c → Mem1.wf ramD c.sp = true

theorem SomeWf.none : SomeWf none := ⟨fun _ h => nomatch h⟩
theorem SomeWf.some {c : Core} (h : Mem1.wf ramD c.sp = true) : SomeWf (some c) := ⟨fun _ e => by cases e; exact h⟩
theorem SomeWf.map {α : Type} {o : Option α} {f : α → Core} (h : ∀ x, Mem1.wf ramD (f x).sp = true) : SomeWf (o.map f) := by
  cases o with
  | none => exact SomeWf.none
  | some x => exact SomeWf.some (h x)
theorem SomeWf.bind {α : Type} {o : Option α} {f : α → Option Core} (h : ∀ x, SomeWf (f x)) : SomeWf (o.bind f) := by
  cases o with
  | none => exact SomeWf.none
  | some x => exact h x
theorem SomeWf.wf {o : Option Core} {c : Core} (h : SomeWf o) (e : o = .some c) : Mem1.wf ramD c.sp = true := h.ok c e
theorem InlWf.inl {α : Type} {c : Core} (h : Mem1.wf ramD c.sp = true) : InlWf (.inl c : Core ⊕ α) := ⟨fun _ e => by cases e; exact h⟩
theorem InlWf.inr {α : Type} {x : α} : InlWf (.inr x : Core ⊕ α) := ⟨fun _ h => nomatch h⟩
theorem InlWf.wf {α : Type} {o : Core ⊕ α} {c : Core} (h : InlWf o) (e : o = .inl c) : Mem1.wf ramD c.sp = true := h.ok c e
theorem InlWf.foldl {α β : Type} {l : List β} {f : Core ⊕ α → β → Core ⊕ α} {o : Core ⊕ α} (h : InlWf o) (hf : ∀ o x, InlWf o → InlWf (f o x)) :
    InlWf (l.foldl f o) := by
  induction l generalizing o with
  | nil => exact h
  | cons a l ih => exact ih (hf _ _ h)

end Sys2Proof.Machine
end

