-- ==== Sys2Proof/Laws/KeepsRuns.lean ====
section
/-! SUPPORT. What the shared operations of the queue, the runs, the deliveries and the collectives keep. -/

namespace Sys2Proof.Machine

variable {s₀ s : State}

theorem sp_wf_spWrite {c : Core} {a : Nat} {bs : Bytes} (hwf : Mem1.wf ramD c.sp = true) : Mem1.wf ramD (Core.spWrite c a
    bs).sp = true := by
  unfold Core.spWrite
  repeat' first
    | with_reducible assumption | (with_reducible refine Mem1.wf_write _ _ _ _ ?_)

theorem sp_wf_setReg {c : Core} {r : Nat} {v : BitVec 64} (hwf : Mem1.wf ramD c.sp = true) : Mem1.wf ramD (Core.setReg c r
    v).sp = true := by
  unfold Core.setReg
  repeat' first
    | with_reducible assumption | split

theorem sp_wf_setPred {c : Core} {r : Nat} {v : Bool} (hwf : Mem1.wf ramD c.sp = true) : Mem1.wf ramD (Core.setPred c r v).sp =
    true := by
  unfold Core.setPred
  repeat' first
    | with_reducible assumption | split

theorem sp_wf_modQueue {c : Core} {q : Nat} {f : EQueue → EQueue} (hwf : Mem1.wf ramD c.sp = true) : Mem1.wf ramD
    (Core.modQueue c q f).sp = true := by
  unfold Core.modQueue
  with_reducible assumption

theorem sp_wf_modTally {c : Core} {t : Nat} {f : Tally → Tally} (hwf : Mem1.wf ramD c.sp = true) : Mem1.wf ramD (Core.modTally
    c t f).sp = true := by
  unfold Core.modTally
  with_reducible assumption

theorem sp_wf_count {c : Core} {k : Nat} {n : Nat} (hwf : Mem1.wf ramD c.sp = true) : Mem1.wf ramD (Core.count c k n).sp = true
    := by
  unfold Core.count
  with_reducible assumption

theorem sp_wf_countRel {c : Core} {k : Nat} (hwf : Mem1.wf ramD c.sp = true) : Mem1.wf ramD (Core.countRel c k).sp = true := by
  unfold Core.countRel
  with_reducible assumption

theorem Keeps.dramWrite (hK : Keeps s₀ s) {a : Nat} {bs : Bytes} : Keeps s₀ (s.dramWrite a bs) := by
  unfold State.dramWrite
  repeat' first
    | with_reducible assumption | with_reducible apply Keeps.modMem | (intro _)
    | (with_reducible refine Mem1.wf_write _ _ _ _ ?_)

theorem Keeps.dramPoison (hK : Keeps s₀ s) {x : Nat} : Keeps s₀ (s.dramPoison x) := by
  unfold State.dramPoison
  repeat' first
    | with_reducible assumption | with_reducible apply Keeps.modMem | exact fun _ h => h

theorem Keeps.modJob (hK : Keeps s₀ s) {ser : Nat} {f : Job → Job} : Keeps s₀ (s.modJob ser f) := by
  unfold State.modJob
  repeat' first
    | with_reducible assumption | with_reducible apply Keeps.modWnd | exact fun _ h => h | split

theorem Keeps.dropJob (hK : Keeps s₀ s) {ser : Nat} : Keeps s₀ (s.dropJob ser) := by
  unfold State.dropJob
  repeat' first
    | with_reducible assumption | with_reducible apply Keeps.modWnd | exact fun _ h => h | split

theorem Keeps.modTask (hK : Keeps s₀ s) {ser : Nat} {t : Nat} {f : TaskSt → TaskSt} : Keeps s₀ (s.modTask ser t f) := by
  unfold State.modTask
  repeat' first
    | with_reducible assumption | with_reducible apply Keeps.modJob

theorem Keeps.mgtEvent (hK : Keeps s₀ s) {b : Nat} : Keeps s₀ (s.mgtEvent b) := by
  unfold State.mgtEvent
  repeat' first
    | with_reducible assumption | with_reducible apply Keeps.modMgt

theorem Keeps.msixOut (hK : Keeps s₀ s) {k : Nat} {f : Nat} {v : Nat} : Keeps s₀ (s.msixOut k f v) := by
  unfold State.msixOut
  dsimp only
  repeat' first
    | with_reducible assumption | with_reducible apply Keeps.modFn | with_reducible apply Keeps.hostWrite | split

theorem Keeps.msixRelease (hK : Keeps s₀ s) {k : Nat} {f : Nat} : Keeps s₀ (s.msixRelease k f) := by
  unfold State.msixRelease
  repeat' first
    | with_reducible assumption | with_reducible apply Keeps.msixOut | (with_reducible refine Keeps.foldl ?_ ?_) | (intro _)
    | with_reducible apply Keeps.ite | (intro _)

theorem Keeps.msix (hK : Keeps s₀ s) {k : Nat} {f : Nat} {v : Nat} : Keeps s₀ (s.msix k f v) := by
  unfold State.msix
  repeat' first
    | with_reducible assumption | with_reducible apply Keeps.modFn | with_reducible apply Keeps.msixOut
    | with_reducible apply Keeps.ite

theorem Keeps.complete (hK : Keeps s₀ s) {k : Nat} {f : Nat} {job : BitVec 32} {kind : Nat} {status : BitVec 16} {detail :
    BitVec 32} {tag : BitVec 64} {irq : Bool} : Keeps s₀ (s.complete k f job kind status detail tag irq) := by
  unfold State.complete
  dsimp only
  repeat' first
    | with_reducible assumption | with_reducible apply Keeps.modFn | with_reducible apply Keeps.hostWrite
    | with_reducible apply Keeps.msix | split

theorem Keeps.eventTo (hK : Keeps s₀ s) {k : Nat} {f : Nat} {e : Ev} {job : Option (BitVec 32)} : Keeps s₀ (s.eventTo k f e
    job) := by
  unfold State.eventTo
  dsimp only
  repeat' first
    | with_reducible assumption | with_reducible apply Keeps.modFn | with_reducible apply Keeps.hostWrite
    | with_reducible apply Keeps.msix | split

theorem Keeps.eventPfs (hK : Keeps s₀ s) {e : Ev} : Keeps s₀ (s.eventPfs e) := by
  unfold State.eventPfs
  repeat' first
    | with_reducible assumption | with_reducible apply Keeps.eventTo | (with_reducible refine Keeps.foldl ?_ ?_) | (intro _)
    | split

theorem Keeps.plogWriteOne (hK : Keeps s₀ s) : Keeps s₀ (s.plogWriteOne) := by
  unfold State.plogWriteOne
  repeat' first
    | with_reducible assumption | with_reducible apply Keeps.modPlog | with_reducible apply Keeps.flashWrite | split

theorem Keeps.plogDrain (hK : Keeps s₀ s) {n : Nat} {force : Bool} : Keeps s₀ (State.plogDrain n force s) := by
  induction n generalizing s with
  | zero => exact hK
  | succ n ih =>
    unfold State.plogDrain
    split
    · exact hK
    · exact ih hK.plogWriteOne

theorem Keeps.plogFlush (hK : Keeps s₀ s) {force : Bool} : Keeps s₀ (s.plogFlush force) := by
  unfold State.plogFlush
  repeat' first
    | with_reducible assumption | with_reducible apply Keeps.modFlash | with_reducible apply Keeps.plogDrain
    | exact fun _ h => h | exact fun _ _ h => h | split

theorem Keeps.plogTake (hK : Keeps s₀ s) {code : Nat} {list : Nat} {payload : Nat} {flush : Bool} : Keeps s₀ (s.plogTake code
    list payload flush) := by
  unfold State.plogTake
  repeat' first
    | with_reducible assumption | with_reducible apply Keeps.modPlog | with_reducible apply Keeps.mgtEvent
    | with_reducible apply Keeps.eventPfs | split

theorem Keeps.plogFixed (hK : Keeps s₀ s) {code : Nat} {payload : Nat} : Keeps s₀ (s.plogFixed code payload) := by
  unfold State.plogFixed
  repeat' first
    | with_reducible assumption | with_reducible apply Keeps.plogTake

theorem Keeps.plogFixedFlush (hK : Keeps s₀ s) {code : Nat} {payload : Nat} : Keeps s₀ (s.plogFixedFlush code payload) := by
  unfold State.plogFixedFlush
  repeat' first
    | with_reducible assumption | with_reducible apply Keeps.plogFlush | with_reducible apply Keeps.plogTake

theorem Keeps.plogEvent (hK : Keeps s₀ s) {e : Ev} : Keeps s₀ (s.plogEvent e) := by
  unfold State.plogEvent
  dsimp only
  repeat' first
    | with_reducible assumption | with_reducible apply Keeps.plogFlush | with_reducible apply Keeps.plogTake
    | with_reducible apply Keeps.plogFixed | with_reducible apply Keeps.plogFixedFlush | split

theorem Keeps.eventModule (hK : Keeps s₀ s) {e : Ev} : Keeps s₀ (s.eventModule e) := by
  unfold State.eventModule
  repeat' first
    | with_reducible assumption | with_reducible apply Keeps.eventPfs | with_reducible apply Keeps.plogEvent

theorem Keeps.eventFn (hK : Keeps s₀ s) {k : Nat} {f : Nat} {e : Ev} : Keeps s₀ (s.eventFn k f e) := by
  unfold State.eventFn
  repeat' first
    | with_reducible assumption | with_reducible apply Keeps.eventTo | with_reducible apply Keeps.plogEvent

theorem Keeps.eventPart (hK : Keeps s₀ s) {p : Nat} {e : Ev} : Keeps s₀ (s.eventPart p e) := by
  unfold State.eventPart
  repeat' first
    | with_reducible assumption | with_reducible apply Keeps.eventTo | with_reducible apply Keeps.plogEvent
    | (with_reducible refine Keeps.foldl ?_ ?_) | (intro _)

theorem Keeps.eventPartModule (hK : Keeps s₀ s) {p : Nat} {e : Ev} : Keeps s₀ (s.eventPartModule p e) := by
  unfold State.eventPartModule
  repeat' first
    | with_reducible assumption | with_reducible apply Keeps.eventTo | with_reducible apply Keeps.eventPfs
    | with_reducible apply Keeps.plogEvent | (with_reducible refine Keeps.foldl ?_ ?_) | (intro _)

theorem Keeps.eventJob (hK : Keeps s₀ s) {ser : Nat} {e : Ev} : Keeps s₀ (s.eventJob ser e) := by
  unfold State.eventJob
  repeat' first
    | with_reducible assumption | with_reducible apply Keeps.eventTo | with_reducible apply Keeps.plogEvent | split

theorem Keeps.tracePush (hK : Keeps s₀ s) {p : Nat} {stamp : Nat} {kind : Nat} {source : BitVec 16} {units : Nat} {body :
    Bytes} : Keeps s₀ (s.tracePush p stamp kind source units body) := by
  unfold State.tracePush
  repeat' first
    | with_reducible assumption | with_reducible apply Keeps.modPart

theorem Keeps.trace (hK : Keeps s₀ s) {p : Nat} {kind : Nat} {source : BitVec 16} {units : Nat} {body : Bytes} : Keeps s₀
    (s.trace p kind source units body) := by
  unfold State.trace
  dsimp only
  repeat' first
    | with_reducible assumption | with_reducible apply Keeps.modPart | with_reducible apply Keeps.tracePush | split

theorem Keeps.upsetBursts (hK : Keeps s₀ s) {block : Nat} {errors : List (Fin 8 × BurstError)} : Keeps s₀ (s.upsetBursts block
    errors) := by
  unfold State.upsetBursts
  repeat' first
    | with_reducible assumption | with_reducible apply Keeps.modMem | (with_reducible refine Keeps.foldl ?_ ?_) | (intro _)
    | split

theorem Keeps.askRetire (hK : Keeps s₀ s) {page : Nat} {reason : Nat} {group : Nat} : Keeps s₀ (s.askRetire page reason group)
    := by
  unfold State.askRetire
  repeat' first
    | with_reducible assumption | with_reducible apply Keeps.modMem | exact fun _ h => h | split

theorem Keeps.readBlock (hK : Keeps s₀ s) {block : Nat} {at_ : Nat} {scrub : Bool} : Keeps s₀ (s.readBlock block at_ scrub) :=
    by
  unfold State.readBlock
  dsimp only
  repeat' first
    | with_reducible assumption | with_reducible apply Keeps.modMem | with_reducible apply Keeps.eventModule
    | with_reducible apply Keeps.askRetire | exact fun _ h => h | split

theorem Keeps.mscHit (hK : Keeps s₀ s) {block : Nat} {write : Bool} : Keeps s₀ (s.mscHit block write) := by
  unfold State.mscHit
  repeat' first
    | with_reducible assumption | with_reducible apply Keeps.modMem | exact fun _ h => h

theorem Keeps.writeBursts (hK : Keeps s₀ s) {sectors : List Nat} : Keeps s₀ (s.writeBursts sectors) := by
  unfold State.writeBursts
  repeat' first
    | with_reducible assumption | with_reducible apply Keeps.modMem | exact fun _ h => h

theorem Keeps.poisonAll (hK : Keeps s₀ s) {xs : List Nat} : Keeps s₀ (s.poisonAll xs) := by
  unfold State.poisonAll
  repeat' first
    | with_reducible assumption | with_reducible apply Keeps.dramPoison | (with_reducible refine Keeps.foldl ?_ ?_)
    | (intro _) | (intro _)

theorem Keeps.evict (hK : Keeps s₀ s) {l : MscLine} : Keeps s₀ (s.evict l) := by
  unfold State.evict
  repeat' first
    | with_reducible assumption | with_reducible apply Keeps.modMem | with_reducible apply Keeps.writeBursts
    | with_reducible apply Keeps.poisonAll | exact fun _ h => h

theorem Keeps.mscFill (hK : Keeps s₀ s) {block : Nat} {write : Bool} : Keeps s₀ (s.mscFill block write) := by
  unfold State.mscFill
  repeat' first
    | with_reducible assumption | with_reducible apply Keeps.modMem | with_reducible apply Keeps.writeBursts
    | with_reducible apply Keeps.poisonAll | with_reducible apply Keeps.evict | exact fun _ h => h | split

theorem Keeps.access (hK : Keeps s₀ s) {block : Nat} {write : Bool} {whole : Bool} : Keeps s₀ (s.access block write whole) := by
  unfold State.access
  repeat' first
    | with_reducible assumption | with_reducible apply Keeps.modMem | with_reducible apply Keeps.readBlock
    | with_reducible apply Keeps.mscHit | with_reducible apply Keeps.mscFill | exact fun _ h => h | split

theorem Keeps.touch (hK : Keeps s₀ s) {a : Nat} {n : Nat} {write : Bool} : Keeps s₀ (s.touch a n write) := by
  unfold State.touch
  repeat' first
    | with_reducible assumption | with_reducible apply Keeps.access | (with_reducible refine Keeps.foldl ?_ ?_) | (intro _)
    | (intro _)

theorem Keeps.memWrite (hK : Keeps s₀ s) {a : Nat} {bs : Bytes} : Keeps s₀ (s.memWrite a bs) := by
  unfold State.memWrite
  repeat' first
    | with_reducible assumption | with_reducible apply Keeps.dramWrite | with_reducible apply Keeps.touch

theorem Keeps.pinWay (hK : Keeps s₀ s) {part : Nat} {block : Nat} {reorder : Bool} : Keeps s₀ (s.pinWay part block reorder) :=
    by
  unfold State.pinWay
  repeat' first
    | with_reducible assumption | with_reducible apply Keeps.modMem | with_reducible apply Keeps.evict | exact fun _ h => h
    | split

theorem Keeps.unpinLine (hK : Keeps s₀ s) {block : Nat} : Keeps s₀ (s.unpinLine block) := by
  unfold State.unpinLine
  repeat' first
    | with_reducible assumption | with_reducible apply Keeps.modMem | (intro _) | (intro _)

theorem Keeps.mendLine (hK : Keeps s₀ s) {block : Nat} : Keeps s₀ (s.mendLine block) := by
  unfold State.mendLine
  repeat' first
    | with_reducible assumption | with_reducible apply Keeps.modMem | (intro _) | (intro _)

theorem Keeps.dropReorder (hK : Keeps s₀ s) {block : Nat} : Keeps s₀ (s.dropReorder block) := by
  unfold State.dropReorder
  repeat' first
    | with_reducible assumption | with_reducible apply Keeps.modMem | (intro _) | (intro _)

theorem Keeps.modBank (hK : Keeps s₀ s) {ch : Nat} {b : Nat} {f : Bank → Bank} : Keeps s₀ (s.modBank ch b f) := by
  unfold State.modBank
  repeat' first
    | with_reducible assumption | with_reducible apply Keeps.modMem | exact fun _ h => h

theorem Keeps.touchTables (hK : Keeps s₀ s) {ds : List Nat} : Keeps s₀ (s.touchTables ds) := by
  unfold State.touchTables
  repeat' first
    | with_reducible assumption | with_reducible apply Keeps.touch | (with_reducible refine Keeps.foldl ?_ ?_) | (intro _)
    | (intro _)

theorem Keeps.walkHold (hK : Keeps s₀ s) {half : Nat} {p : Nat} {level : Nat} {index : Nat} {e : Nat} : Keeps s₀ (s.walkHold
    half p level index e) := by
  unfold State.walkHold
  repeat' first
    | with_reducible assumption | with_reducible apply Keeps.modMem | exact fun _ h => h | split

theorem Keeps.walk (hK : Keeps s₀ s) {half : Nat} {p : Nat} {va : Nat} : Keeps s₀ (s.walk half p va).1 := by
  unfold State.walk
  dsimp only
  repeat' first
    | with_reducible assumption | with_reducible apply Keeps.modMem | with_reducible apply Keeps.touchTables
    | with_reducible apply Keeps.walkHold | exact fun _ h => h | split

theorem Keeps.xlate (hK : Keeps s₀ s) {n : Nat} {p : Nat} {va : Nat} {write : Bool} {fetch : Bool} : Keeps s₀ (s.xlate n p va
    write fetch).1 := by
  unfold State.xlate
  dsimp only
  repeat' first
    | with_reducible assumption | with_reducible apply Keeps.modCore | with_reducible apply Keeps.walk | exact fun _ h => h
    | split

theorem Keeps.xlateRange (hK : Keeps s₀ s) {n : Nat} {p : Nat} {va : Nat} {len : Nat} {write : Bool} : Keeps s₀ (s.xlateRange
    n p va len write).1 := by
  unfold State.xlateRange
  repeat' first
    | with_reducible assumption | with_reducible apply Keeps.xlate | (with_reducible refine Keeps.foldl_fst ?_ ?_) | (intro _)
    | (with_reducible refine Keeps.of_fst ?_ (by assumption)) | split

theorem Keeps.writePieces (hK : Keeps s₀ s) {ps : List (Nat × Nat)} {bs : Bytes} : Keeps s₀ (s.writePieces ps bs) := by
  induction ps generalizing s bs with
  | nil => exact hK
  | cons p ps ih => exact ih hK.memWrite

theorem Keeps.touchPieces (hK : Keeps s₀ s) {ps : List (Nat × Nat)} : Keeps s₀ (s.touchPieces ps) := by
  unfold State.touchPieces
  repeat' first
    | with_reducible assumption | with_reducible apply Keeps.touch | (with_reducible refine Keeps.foldl ?_ ?_) | (intro _)
    | (intro _)

theorem Keeps.touchWalks (hK : Keeps s₀ s) {p : Nat} {va : Nat} {n : Nat} : Keeps s₀ (s.touchWalks p va n) := by
  unfold State.touchWalks
  repeat' first
    | with_reducible assumption | with_reducible apply Keeps.touchTables | (with_reducible refine Keeps.foldl ?_ ?_)
    | (intro _) | (intro _)

theorem Keeps.touchVa (hK : Keeps s₀ s) {p : Nat} {va : Nat} {n : Nat} : Keeps s₀ (s.touchVa p va n) := by
  unfold State.touchVa
  repeat' first
    | with_reducible assumption | with_reducible apply Keeps.touchPieces | with_reducible apply Keeps.touchWalks | split

theorem Keeps.invalidatePart (hK : Keeps s₀ s) {p : Nat} : Keeps s₀ (s.invalidatePart p) := by
  unfold State.invalidatePart
  refine Keeps.setCores (hK.modMem (fun _ h => h)) (fun h => by simpa [State.modMem] using h) (fun h => ?_)
  apply forall_mem_map
  intro nc hn
  have := h nc.2 (List.of_mem_zip hn).2
  split <;> exact this

theorem Keeps.chargeCore (hK : Keeps s₀ s) {n : Nat} : Keeps s₀ (s.chargeCore n) := by
  unfold State.chargeCore
  repeat' first
    | with_reducible assumption | with_reducible apply Keeps.modCore | with_reducible apply Keeps.modPart | exact fun _ h => h
    | split

theorem Keeps.unchargeCore (hK : Keeps s₀ s) {n : Nat} : Keeps s₀ (s.unchargeCore n) := by
  unfold State.unchargeCore
  repeat' first
    | with_reducible assumption | with_reducible apply Keeps.modCore | with_reducible apply Keeps.modPart | exact fun _ h => h
    | split

theorem Keeps.traceStart (hK : Keeps s₀ s) {n : Nat} : Keeps s₀ (s.traceStart n) := by
  unfold State.traceStart
  repeat' first
    | with_reducible assumption | with_reducible apply Keeps.trace

theorem Keeps.traceEnd (hK : Keeps s₀ s) {n : Nat} {committed : Bool} {status : Nat} : Keeps s₀ (s.traceEnd n committed
    status) := by
  unfold State.traceEnd
  repeat' first
    | with_reducible assumption | with_reducible apply Keeps.trace

theorem Keeps.clusterStop (hK : Keeps s₀ s) {c : Nat} : Keeps s₀ (s.clusterStop c) := by
  unfold State.clusterStop
  repeat' first
    | with_reducible assumption | with_reducible apply Keeps.modWnd | with_reducible apply Keeps.trace
    | (with_reducible refine Keeps.foldl ?_ ?_) | (intro _) | with_reducible apply Keeps.ite | (intro _)
    | (simp only [List.length_set, List.length_map, List.length_modify]; assumption)

theorem Keeps.clusterRun (hK : Keeps s₀ s) {c : Nat} : Keeps s₀ (s.clusterRun c) := by
  unfold State.clusterRun
  repeat' first
    | with_reducible assumption | with_reducible apply Keeps.modWnd | with_reducible apply Keeps.trace
    | (with_reducible refine Keeps.foldl ?_ ?_) | (intro _) | (intro _)
    | (simp only [List.length_set, List.length_map, List.length_modify]; assumption)

theorem sp_wf_afterRun {c : Core} {st : Nat} (hwf : Mem1.wf ramD c.sp = true) : Mem1.wf ramD (Core.afterRun c st).sp = true := by
  unfold Core.afterRun
  with_reducible assumption

theorem Keeps.closeRunKeep (hK : Keeps s₀ s) {n : Nat} {st : Nat} {status : Nat} {charged : Bool} : Keeps s₀ (s.closeRunKeep n st status charged) := by
  unfold State.closeRunKeep
  split
  · exact hK
  · dsimp only
    refine Keeps.modCore ?_ ?_
    · repeat' first | assumption | with_reducible apply Keeps.chargeCore | with_reducible apply Keeps.unchargeCore | with_reducible apply Keeps.traceEnd | split
    · intro c h
      split
      · exact sp_wf_afterRun (st := c.epoch.state) h
      · exact sp_wf_afterRun h

theorem Keeps.closeRun (hK : Keeps s₀ s) {n : Nat} {st : Nat} {status : Nat} {charged : Bool} : Keeps s₀ (s.closeRun n st
    status charged) := by
  unfold State.closeRun
  repeat' first
    | with_reducible assumption | with_reducible apply Keeps.clusterStop | with_reducible apply Keeps.closeRunKeep | split

theorem sp_wf_clear {c : Core} (hwf : Mem1.wf ramD c.sp = true) : Mem1.wf ramD (Core.clear c).sp = true := by
  unfold Core.clear
  repeat' first
    | with_reducible assumption | (with_reducible refine Mem1.wf_keep _ _ ?_)

theorem sp_wf_zeroRange {c : Core} {a : Nat} {n : Nat} (hwf : Mem1.wf ramD c.sp = true) : Mem1.wf ramD (Core.zeroRange c a
    n).sp = true := by
  unfold Core.zeroRange
  repeat' first
    | with_reducible assumption | (with_reducible refine Mem1.wf_keep _ _ ?_)

theorem sp_wf_endPillars {c : Core} {p : Pillar → Bool} (hwf : Mem1.wf ramD c.sp = true) : Mem1.wf ramD (Core.endPillars c
    p).sp = true := by
  unfold Core.endPillars
  repeat' first
    | with_reducible assumption | with_reducible apply sp_wf_zeroRange | with_reducible apply sp_wf_foldl | (intro _)

theorem sp_wf_openEpoch {c : Core} {jobId : BitVec 32} (hwf : Mem1.wf ramD c.sp = true) : Mem1.wf ramD (Core.openEpoch c
    jobId).sp = true := by
  unfold Core.openEpoch
  with_reducible assumption

theorem Keeps.touchEffect (hK : Keeps s₀ s) {part : Nat} {e : Effect} : Keeps s₀ (s.touchEffect part e) := by
  unfold State.touchEffect
  repeat' first
    | with_reducible assumption | with_reducible apply Keeps.touchVa | split

theorem Keeps.raiseService (hK : Keeps s₀ s) {p : Nat} : Keeps s₀ (s.raiseService p) := by
  unfold State.raiseService
  dsimp only
  repeat' first
    | with_reducible assumption | with_reducible apply Keeps.modPart | split

theorem Keeps.setTask (hK : Keeps s₀ s) {ser : Nat} {t : Nat} {f : TaskSt → TaskSt} : Keeps s₀ (s.setTask ser t f) := by
  unfold State.setTask
  dsimp only
  repeat' first
    | with_reducible assumption | with_reducible apply Keeps.modTask | with_reducible apply Keeps.raiseService | split

theorem Keeps.discardRuns (hK : Keeps s₀ s) {ser : Nat} {t : Nat} {status : Nat} {charged : Bool} : Keeps s₀ (s.discardRuns
    ser t status charged) := by
  unfold State.discardRuns
  repeat' first
    | with_reducible assumption | with_reducible apply Keeps.closeRun | (with_reducible refine Keeps.foldl ?_ ?_) | (intro _)

theorem Keeps.dropTask (hK : Keeps s₀ s) {ser : Nat} {t : Nat} {status : Nat} : Keeps s₀ (s.dropTask ser t status) := by
  unfold State.dropTask
  repeat' first
    | with_reducible assumption | with_reducible apply Keeps.modTask | with_reducible apply Keeps.discardRuns

theorem Keeps.endJob (hK : Keeps s₀ s) {ser : Nat} : Keeps s₀ (s.endJob ser) := by
  unfold State.endJob
  repeat' first
    | with_reducible assumption | with_reducible apply Keeps.dropJob | with_reducible apply Keeps.complete
    | (with_reducible refine Keeps.foldl ?_ ?_) | (intro _) | split

theorem Keeps.failJob (hK : Keeps s₀ s) {ser : Nat} {status : Nat} {detail : BitVec 32} : Keeps s₀ (s.failJob ser status
    detail) := by
  unfold State.failJob
  repeat' first
    | with_reducible assumption | with_reducible apply Keeps.modJob | with_reducible apply Keeps.dropTask
    | with_reducible apply Keeps.endJob | (with_reducible refine Keeps.foldl ?_ ?_) | (intro _) | split

theorem Keeps.failTask (hK : Keeps s₀ s) {ser : Nat} {t : Nat} {status : Nat} {sub : Nat} {core : Nat} : Keeps s₀ (s.failTask
    ser t status sub core) := by
  unfold State.failTask
  repeat' first
    | with_reducible assumption | with_reducible apply Keeps.dropTask | with_reducible apply Keeps.failJob

theorem Keeps.replayTask (hK : Keeps s₀ s) {ser : Nat} {t : Nat} {core : Nat} {status : Nat} {sub : Nat} {counted : Bool} {f :
    TaskSt → TaskSt} : Keeps s₀ (s.replayTask ser t core status sub counted f) := by
  unfold State.replayTask
  dsimp only
  repeat' first
    | with_reducible assumption | with_reducible apply Keeps.modTask | with_reducible apply Keeps.setTask
    | with_reducible apply Keeps.failTask | split

theorem Keeps.causeEffect (hK : Keeps s₀ s) {ser : Nat} {t : Nat} {core : Nat} {c : Cause} : Keeps s₀ (s.causeEffect ser t
    core c) := by
  unfold State.causeEffect
  repeat' first
    | with_reducible assumption | with_reducible apply Keeps.modTask | with_reducible apply Keeps.eventJob
    | with_reducible apply Keeps.failTask | with_reducible apply Keeps.replayTask | split

theorem Keeps.becomeStaged (hK : Keeps s₀ s) {ser : Nat} {t : Nat} : Keeps s₀ (s.becomeStaged ser t) := by
  unfold State.becomeStaged
  dsimp only
  repeat' first
    | with_reducible assumption | with_reducible apply Keeps.modTask | with_reducible apply Keeps.closeRun
    | with_reducible apply Keeps.touchEffect | with_reducible apply Keeps.causeEffect
    | (with_reducible refine Keeps.foldl ?_ ?_) | (intro _) | split

theorem Keeps.stageRunning (hK : Keeps s₀ s) {ser : Nat} {t : Nat} : Keeps s₀ (s.stageRunning ser t) := by
  unfold State.stageRunning
  repeat' first
    | with_reducible assumption | with_reducible apply Keeps.becomeStaged | split

theorem Keeps.settleOne (hK : Keeps s₀ s) {ser : Nat} {i : Nat} : Keeps s₀ (s.settleOne ser i).1 := by
  unfold State.settleOne
  repeat' first
    | with_reducible assumption | with_reducible apply Keeps.modJob | with_reducible apply Keeps.modTask
    | with_reducible apply Keeps.setTask | with_reducible apply Keeps.dropTask | with_reducible apply Keeps.failTask
    | with_reducible apply Keeps.becomeStaged | split

theorem Keeps.settle (hK : Keeps s₀ s) {k ser : Nat} : Keeps s₀ (State.settle k s ser) := by
  induction k generalizing s with
  | zero => exact hK.endJob
  | succ k ih =>
    unfold State.settle
    split
    · exact hK
    · split
      · exact hK.endJob
      · have h : ∀ (l : List Nat) (p : State × Bool), Keeps s₀ p.1 →
            Keeps s₀ (l.foldl (fun a i => let b := a.1.settleOne ser i; (b.1, a.2 || b.2)) p).1 := by
          intro l p h
          exact Keeps.foldl_fst h (fun q x h => h.settleOne)
        dsimp only
        split
        · exact ih (h _ _ hK.modJob)
        · exact (h _ _ hK.modJob).endJob

theorem Keeps.settleJob (hK : Keeps s₀ s) {ser : Nat} : Keeps s₀ (s.settleJob ser) := by
  unfold State.settleJob
  repeat' first
    | with_reducible assumption | with_reducible apply Keeps.settle | split

theorem Keeps.settleAll (hK : Keeps s₀ s) : Keeps s₀ (s.settleAll) := by
  unfold State.settleAll
  repeat' first
    | with_reducible assumption | with_reducible apply Keeps.settleJob | (with_reducible refine Keeps.foldl ?_ ?_) | (intro _)

theorem Keeps.applyCause (hK : Keeps s₀ s) {ser : Nat} {t : Nat} {core : Nat} {c : Cause} : Keeps s₀ (s.applyCause ser t core
    c) := by
  unfold State.applyCause
  repeat' first
    | with_reducible assumption | with_reducible apply Keeps.causeEffect | with_reducible apply Keeps.settleJob | split

theorem Keeps.endRun (hK : Keeps s₀ s) {n : Nat} {c : Cause} : Keeps s₀ (s.endRun n c) := by
  unfold State.endRun
  dsimp only
  repeat' first
    | with_reducible assumption | with_reducible apply Keeps.modCore | with_reducible apply Keeps.closeRun
    | with_reducible apply Keeps.applyCause | exact fun _ h => h | split

theorem inl_wf_tallyOp {c : Core} {t : Nat} {drain : Bool} {n : Nat} {actor : Nat} (hwf : Mem1.wf ramD c.sp = true) : InlWf
    (Core.tallyOp c t drain n actor) := by
  unfold Core.tallyOp
  dsimp only
  repeat' first
    | with_reducible assumption | with_reducible apply sp_wf_modTally | with_reducible exact InlWf.inr
    | with_reducible apply InlWf.inl | split

theorem Keeps.applySignal (hK : Keeps s₀ s) {n : Nat} {g : Signal} : Keeps s₀ (s.applySignal n g) := by
  unfold State.applySignal
  repeat' first
    | with_reducible assumption | with_reducible apply Keeps.modCoreAt | with_reducible apply Keeps.endRun
    | with_reducible apply inl_wf_tallyOp | (with_reducible refine InlWf.wf ?_ (by assumption)) | (intro _) | split | (intro _)

theorem Keeps.begin (hK : Keeps s₀ s) {n : Nat} : Keeps s₀ (s.begin n) := by
  unfold State.begin
  dsimp only
  repeat' first
    | with_reducible assumption | with_reducible apply Keeps.modCore | with_reducible apply Keeps.endRun
    | with_reducible apply Keeps.applySignal | (with_reducible refine Keeps.foldl ?_ ?_) | (intro _) | split

theorem Keeps.startOnCore (hK : Keeps s₀ s) {n : Nat} : Keeps s₀ (s.startOnCore n) := by
  unfold State.startOnCore
  dsimp only
  repeat' first
    | with_reducible assumption | with_reducible apply Keeps.modCore | with_reducible apply Keeps.traceStart
    | with_reducible apply Keeps.begin | exact fun _ h => h | split

theorem Keeps.startRun (hK : Keeps s₀ s) {n : Nat} {ser : Nat} {t : Nat} {kind : RunKind} : Keeps s₀ (s.startRun n ser t kind)
    := by
  unfold State.startRun
  dsimp only
  repeat' first
    | with_reducible assumption | with_reducible apply Keeps.modCore | with_reducible apply Keeps.modWnd
    | with_reducible apply Keeps.modJob | with_reducible apply Keeps.modTask | with_reducible apply Keeps.invalidatePart
    | with_reducible apply Keeps.startOnCore | (intro _) | split | (intro _)
    | (simp only [List.length_set, List.length_map, List.length_modify]; assumption)

theorem Keeps.placeTask (hK : Keeps s₀ s) {ser : Nat} {i : Nat} : Keeps s₀ (s.placeTask ser i) := by
  unfold State.placeTask
  repeat' first
    | with_reducible assumption | with_reducible apply Keeps.modPart | with_reducible apply Keeps.modTask
    | with_reducible apply Keeps.failTask | with_reducible apply Keeps.startRun | split

theorem Keeps.endPillarless (hK : Keeps s₀ s) : Keeps s₀ (s.endPillarless) := by
  unfold State.endPillarless
  repeat' first
    | with_reducible assumption | with_reducible apply Keeps.failTask | (with_reducible refine Keeps.foldl ?_ ?_) | (intro _)
    | split

theorem Keeps.displace (hK : Keeps s₀ s) {n : Nat} : Keeps s₀ (s.displace n) := by
  unfold State.displace
  dsimp only
  repeat' first
    | with_reducible assumption | with_reducible apply Keeps.closeRun | with_reducible apply Keeps.replayTask | split

theorem Keeps.signalDropped (hK : Keeps s₀ s) {g : Signal} : Keeps s₀ (s.signalDropped g) := by
  unfold State.signalDropped
  repeat' first
    | with_reducible assumption | with_reducible apply Keeps.eventTo | with_reducible apply Keeps.plogEvent

theorem Keeps.deliverSignal (hK : Keeps s₀ s) {g : Signal} : Keeps s₀ (s.deliverSignal g) := by
  unfold State.deliverSignal
  repeat' first
    | with_reducible assumption | with_reducible apply Keeps.modTask | with_reducible apply Keeps.applySignal
    | with_reducible apply Keeps.signalDropped | (with_reducible refine Keeps.foldl ?_ ?_) | (intro _) | split

theorem Keeps.putForwarded (hK : Keeps s₀ s) {port : Nat} {v : Nat} : Keeps s₀ (s.putForwarded port v) := by
  unfold State.putForwarded
  repeat' first
    | with_reducible assumption | with_reducible apply Keeps.modPort | split

theorem Keeps.putOwn (hK : Keeps s₀ s) {port : Nat} {v : Nat} : Keeps s₀ (s.putOwn port v) := by
  unfold State.putOwn
  dsimp only
  repeat' first
    | with_reducible assumption | with_reducible apply Keeps.modPort | with_reducible apply Keeps.modLnk | exact fun _ h => h
    | split

theorem Keeps.pumpData (hK : Keeps s₀ s) {n port : Nat} : Keeps s₀ (State.pumpData n s port) := by
  induction n generalizing s with
  | zero => exact hK
  | succ n ih =>
    unfold State.pumpData
    split
    · exact hK
    · split
      · exact hK
      · apply ih
        split
        · exact hK.putForwarded
        · exact hK.putOwn

theorem Keeps.pump (hK : Keeps s₀ s) {port : Nat} : Keeps s₀ (s.pump port) := by
  unfold State.pump
  dsimp only
  split
  · exact (hK.pumpData.modPort).modPort
  · exact hK.pumpData.modPort

theorem Keeps.emit (hK : Keeps s₀ s) {port : Nat} {p : Packet} : Keeps s₀ (s.emit port p) := by
  unfold State.emit
  repeat' first
    | with_reducible assumption | with_reducible apply Keeps.modPort | with_reducible apply Keeps.pump

theorem Keeps.sendData (hK : Keeps s₀ s) {port : Nat} {core : Option Nat} {p : Packet} : Keeps s₀ (s.sendData port core p) := by
  unfold State.sendData
  repeat' first
    | with_reducible assumption | with_reducible apply Keeps.modLnk | with_reducible apply Keeps.emit | exact fun _ h => h

theorem Keeps.sendCtl (hK : Keeps s₀ s) {port : Nat} {p : Packet} : Keeps s₀ (s.sendCtl port p) := by
  unfold State.sendCtl
  repeat' first
    | with_reducible assumption | with_reducible apply Keeps.modLnk | with_reducible apply Keeps.emit | exact fun _ h => h

theorem Keeps.resend (hK : Keeps s₀ s) {t : TxPacket} : Keeps s₀ (s.resend t) := by
  unfold State.resend
  repeat' first
    | with_reducible assumption | with_reducible apply Keeps.emit

theorem Keeps.answer (hK : Keeps s₀ s) {msg : BitVec 8} {p : Packet} : Keeps s₀ (s.answer msg p) := by
  unfold State.answer
  repeat' first
    | with_reducible assumption | with_reducible apply Keeps.sendCtl

theorem Keeps.moduleFatal (hK : Keeps s₀ s) {kind : Nat} {row : Nat} {column : Nat} {source : BitVec 16} : Keeps s₀
    (s.moduleFatal kind row column source) := by
  unfold State.moduleFatal
  repeat' first
    | with_reducible assumption | with_reducible apply Keeps.modPwr | with_reducible apply Keeps.modMgt
    | with_reducible apply Keeps.mgtEvent | with_reducible apply Keeps.eventModule | with_reducible apply Keeps.failJob
    | (with_reducible refine Keeps.foldl ?_ ?_) | (intro _) | split

theorem Keeps.modColl (hK : Keeps s₀ s) {i : Nat} {f : Coll → Coll} : Keeps s₀ (s.modColl i f) := by
  unfold State.modColl
  repeat' first
    | with_reducible assumption | with_reducible apply Keeps.modLnk | exact fun _ h => h

theorem Keeps.modBucket (hK : Keeps s₀ s) {i : Nat} {b : Nat} {f : Bucket → Bucket} : Keeps s₀ (s.modBucket i b f) := by
  unfold State.modBucket
  repeat' first
    | with_reducible assumption | with_reducible apply Keeps.modColl

theorem Keeps.pinLine (hK : Keeps s₀ s) {part : Nat} {block : Nat} {x : LineSt} {y : LineSt} : Keeps s₀ (s.pinLine part block
    x y) := by
  unfold State.pinLine
  repeat' first
    | with_reducible assumption | with_reducible apply Keeps.pinWay | with_reducible apply Keeps.dropReorder
    | (with_reducible refine Keeps.foldl ?_ ?_) | (intro _) | split

theorem Keeps.writeResult (hK : Keeps s₀ s) {i : Nat} {b : Nat} {l : Nat} {line : Line} {status : BitVec 8} {poison : List
    Nat} : Keeps s₀ (s.writeResult i b l line status poison) := by
  unfold State.writeResult
  dsimp only
  repeat' first
    | with_reducible assumption | with_reducible apply Keeps.dramPoison | with_reducible apply Keeps.memWrite
    | with_reducible apply Keeps.unpinLine | with_reducible apply Keeps.touchWalks | with_reducible apply Keeps.modBucket
    | (with_reducible refine Keeps.foldl ?_ ?_) | (intro _) | split

theorem Keeps.sendFinished (hK : Keeps s₀ s) {i : Nat} {b : Nat} {t : Nat} {done : List (Nat × LineSt)} : Keeps s₀
    (s.sendFinished i b t done) := by
  unfold State.sendFinished
  dsimp only
  repeat' first
    | with_reducible assumption | with_reducible apply Keeps.sendData | with_reducible apply Keeps.writeResult
    | (with_reducible refine Keeps.foldl ?_ ?_) | (intro _) | split

theorem Keeps.wakeTile (hK : Keeps s₀ s) {i : Nat} {b : Nat} {t : Nat} {who : Nat → Bool} : Keeps s₀ (s.wakeTile i b t who) :=
    by
  unfold State.wakeTile
  repeat' first
    | with_reducible assumption | with_reducible apply Keeps.modLnk | with_reducible apply Keeps.sendCtl
    | with_reducible apply Keeps.modBucket | (with_reducible refine Keeps.foldl ?_ ?_) | (intro _) | split

theorem Keeps.wakePart (hK : Keeps s₀ s) {part : Nat} : Keeps s₀ (s.wakePart part) := by
  unfold State.wakePart
  repeat' first
    | with_reducible assumption | with_reducible apply Keeps.wakeTile | (with_reducible refine Keeps.foldl ?_ ?_) | (intro _)
    | with_reducible apply Keeps.ite | (intro _)

theorem Keeps.contribRefused (hK : Keeps s₀ s) {i : Nat} {b : Nat} {src : Nat} {reason : Nat} : Keeps s₀ (s.contribRefused i b
    src reason) := by
  unfold State.contribRefused
  repeat' first
    | with_reducible assumption | with_reducible apply Keeps.eventPart

theorem Keeps.addWaiter (hK : Keeps s₀ s) {i : Nat} {b : Nat} {t : Nat} {node : Nat} : Keeps s₀ (s.addWaiter i b t node) := by
  unfold State.addWaiter
  repeat' first
    | with_reducible assumption | with_reducible apply Keeps.modBucket

theorem Keeps.offerLine (hK : Keeps s₀ s) {i : Nat} {b : Nat} {t : Nat} {term : Nat} {p : Packet} {o : Offered} {k : Nat} :
    Keeps s₀ (s.offerLine i b t term p o k).1 := by
  unfold State.offerLine
  dsimp only
  repeat' first
    | with_reducible assumption | with_reducible apply Keeps.mendLine | with_reducible apply Keeps.pinLine | split

theorem Keeps.offerLines (hK : Keeps s₀ s) {i : Nat} {b : Nat} {t : Nat} {term : Nat} {p : Packet} : Keeps s₀ (s.offerLines i
    b t term p).1 := by
  unfold State.offerLines
  repeat' first
    | with_reducible assumption | with_reducible apply Keeps.offerLine | (with_reducible refine Keeps.foldl_fst ?_ ?_)
    | (intro _) | (intro _)

theorem Keeps.contribute (hK : Keeps s₀ s) {i : Nat} {p : Packet} {term : Nat} : Keeps s₀ (s.contribute i p term).1 := by
  unfold State.contribute
  dsimp only
  repeat' first
    | with_reducible assumption | with_reducible apply Keeps.modBucket | with_reducible apply Keeps.sendFinished
    | with_reducible apply Keeps.wakeTile | with_reducible apply Keeps.wakePart | with_reducible apply Keeps.contribRefused
    | with_reducible apply Keeps.addWaiter | with_reducible apply Keeps.offerLines | split

theorem Keeps.retryLocal (hK : Keeps s₀ s) {n : Nat} : Keeps s₀ (State.retryLocal n s) := by
  induction n generalizing s with
  | zero => exact hK
  | succ n ih =>
    unfold State.retryLocal
    split
    · exact hK
    · dsimp only
      split
      · exact ih (hK.modLnk (fun _ k => k))
      · split
        · exact ih ((Keeps.of_fst hK.contribute (by assumption)).modLnk (fun _ k => k))
        · exact ih ((Keeps.of_fst hK.contribute (by assumption)).modLnk (fun _ k => k))

theorem Keeps.offerLocal (hK : Keeps s₀ s) : Keeps s₀ (s.offerLocal) := by
  unfold State.offerLocal
  repeat' first
    | with_reducible assumption | with_reducible apply Keeps.retryLocal

theorem Keeps.openBucket (hK : Keeps s₀ s) {i : Nat} {b : Nat} : Keeps s₀ (s.openBucket i b) := by
  unfold State.openBucket
  repeat' first
    | with_reducible assumption | with_reducible apply Keeps.modLnk | with_reducible apply Keeps.sendCtl
    | with_reducible apply Keeps.modBucket | with_reducible apply Keeps.wakeTile | with_reducible apply Keeps.offerLocal
    | (with_reducible refine Keeps.foldl ?_ ?_) | (intro _)

theorem Keeps.linkSignal (hK : Keeps s₀ s) {part : Nat} {g : LinkSignal} : Keeps s₀ (s.linkSignal part g).1 := by
  unfold State.linkSignal
  repeat' first
    | with_reducible assumption | with_reducible apply Keeps.modPart | with_reducible apply Keeps.deliverSignal | split

theorem Keeps.applySignals (hK : Keeps s₀ s) {part : Nat} {l : List LinkSignal} : Keeps s₀ (s.applySignals part l).1 := by
  unfold State.applySignals
  repeat' first
    | with_reducible assumption | with_reducible apply Keeps.linkSignal | (with_reducible refine Keeps.foldl_fst ?_ ?_)
    | (intro _) | (with_reducible refine Keeps.of_fst ?_ (by assumption)) | split

theorem Keeps.wakeSenders (hK : Keeps s₀ s) {part : Nat} : Keeps s₀ (s.wakeSenders part) := by
  unfold State.wakeSenders
  repeat' first
    | with_reducible assumption | with_reducible apply Keeps.modPart | with_reducible apply Keeps.modLnk
    | with_reducible apply Keeps.sendCtl | (with_reducible refine Keeps.foldl ?_ ?_) | (intro _) | split

theorem Keeps.takeWaiting (hK : Keeps s₀ s) {ser : Nat} : Keeps s₀ (s.takeWaiting ser) := by
  unfold State.takeWaiting
  dsimp only
  repeat' first
    | with_reducible assumption | with_reducible apply Keeps.modPart | with_reducible apply Keeps.linkSignal
    | with_reducible apply Keeps.wakeSenders | (with_reducible refine Keeps.foldl ?_ ?_) | (intro _) | split

theorem some_wf_stage {c : Core} {e : Effect} {key : List Nat} {data : Bytes} (hwf : Mem1.wf ramD c.sp = true) : SomeWf (Core.stage c
    e key data) := by
  unfold Core.stage
  dsimp only
  repeat' first
    | with_reducible assumption | with_reducible apply sp_wf_spWrite | with_reducible exact SomeWf.none
    | with_reducible apply SomeWf.some | split

theorem Keeps.finishRun (hK : Keeps s₀ s) {n : Nat} : Keeps s₀ (s.finishRun n) := by
  unfold State.finishRun
  repeat' first
    | with_reducible assumption | with_reducible apply Keeps.modCore | with_reducible apply Keeps.stageRunning
    | with_reducible apply Keeps.settleJob | exact fun _ h => h | split

theorem sp_wf_modPillar {c : Core} {part : Nat} {index : Nat} {f : Pillar → Pillar} (hwf : Mem1.wf ramD c.sp = true) : Mem1.wf
    ramD (Core.modPillar c part index f).sp = true := by
  unfold Core.modPillar
  with_reducible assumption

theorem sp_wf_applyHeld {c : Core} {h : Held} (k : Mem1.wf ramD c.sp = true) : Mem1.wf ramD (c.applyHeld h).sp = true := by
  unfold Core.applyHeld
  split
  · exact k
  · exact sp_wf_endPillars k
  all_goals exact k

theorem Keeps.watchCopy (hK : Keeps s₀ s) {n : Nat} {va : Nat} {data : Bytes} : Keeps s₀ (s.watchCopy n va data) := by
  unfold State.watchCopy
  dsimp only
  repeat' first
    | with_reducible assumption | with_reducible apply Keeps.trace | with_reducible apply Keeps.writePieces
    | with_reducible apply Keeps.touchWalks | (with_reducible refine Keeps.foldl ?_ ?_) | (intro _) | split

theorem Keeps.barrierCheck (hK : Keeps s₀ s) {i : Nat} : Keeps s₀ (s.barrierCheck i) := by
  unfold State.barrierCheck
  dsimp only
  repeat' first
    | with_reducible assumption | with_reducible apply Keeps.sendCtl | with_reducible apply Keeps.modColl
    | with_reducible apply Keeps.applySignals | (with_reducible refine Keeps.foldl ?_ ?_) | (intro _) | split

theorem Keeps.barrierArrive (hK : Keeps s₀ s) {part : Nat} {num : Nat} {sg : Option LinkSignal} : Keeps s₀ (s.barrierArrive
    part num sg) := by
  unfold State.barrierArrive
  dsimp only
  repeat' first
    | with_reducible assumption | with_reducible apply Keeps.sendCtl | with_reducible apply Keeps.modColl
    | with_reducible apply Keeps.barrierCheck | split

theorem Keeps.sendSelf (hK : Keeps s₀ s) {core : Option Nat} {p : Packet} : Keeps s₀ (s.sendSelf core p) := by
  unfold State.sendSelf
  repeat' first
    | with_reducible assumption | with_reducible apply Keeps.modLnk | exact fun _ h => h

theorem sp_wf_countFlips {c : Core} {ws : List Nat} (hwf : Mem1.wf ramD c.sp = true) : Mem1.wf ramD (c.countFlips ws).sp = true :=
  sp_wf_foldl hwf (fun _ _ h => h)

theorem Keeps.deliver (hK : Keeps s₀ s) {n : Nat} {off : Nat} {e : Effect} : Keeps s₀ (s.deliver n off e) := by
  unfold State.deliver
  dsimp only
  repeat' first
    | with_reducible assumption | with_reducible apply Keeps.modCore | with_reducible apply Keeps.modLnk
    | with_reducible apply Keeps.dramPoison | with_reducible apply Keeps.writePieces | with_reducible apply Keeps.sendData
    | with_reducible apply Keeps.offerLocal | with_reducible apply Keeps.watchCopy | with_reducible apply Keeps.barrierArrive
    | with_reducible apply Keeps.sendSelf | (with_reducible refine Keeps.foldl ?_ ?_) | with_reducible apply sp_wf_countFlips
    | (intro _) | split

theorem Keeps.deliverAll (hK : Keeps s₀ s) {n off : Nat} {l : List Effect} : Keeps s₀ (s.deliverAll n off l) := by
  induction l generalizing s off with
  | nil => exact hK
  | cons p ps ih => exact ih hK.deliver

theorem Keeps.grant (hK : Keeps s₀ s) {n : Nat} : Keeps s₀ (s.grant n) := by
  unfold State.grant
  repeat' first
    | with_reducible assumption | with_reducible apply Keeps.modCore | with_reducible apply Keeps.modPart
    | with_reducible apply Keeps.modTask | with_reducible apply Keeps.eventJob | with_reducible apply Keeps.deliverAll
    | with_reducible apply sp_wf_applyHeld | (intro _) | split | with_reducible apply sp_wf_foldl

theorem Keeps.sendSignals (hK : Keeps s₀ s) {n : Nat} : Keeps s₀ (s.sendSignals n) := by
  unfold State.sendSignals
  dsimp only
  repeat' first
    | with_reducible assumption | with_reducible apply Keeps.modCore | with_reducible apply Keeps.modWnd
    | with_reducible apply Keeps.modJob | with_reducible apply Keeps.settleJob | exact fun _ h => h | split

theorem Keeps.deliveryDone (hK : Keeps s₀ s) {n : Nat} : Keeps s₀ (s.deliveryDone n) := by
  unfold State.deliveryDone
  repeat' first
    | with_reducible assumption | with_reducible apply Keeps.modTask | with_reducible apply Keeps.closeRun
    | with_reducible apply Keeps.failJob | with_reducible apply Keeps.settleJob | split

theorem Keeps.killJob (hK : Keeps s₀ s) {ser : Nat} {pillarsToo : Bool} : Keeps s₀ (s.killJob ser pillarsToo) := by
  unfold State.killJob
  repeat' first
    | with_reducible assumption | with_reducible apply Keeps.modLnk | with_reducible apply Keeps.dropJob
    | with_reducible apply Keeps.closeRun | (with_reducible refine Keeps.foldl ?_ ?_) | with_reducible apply sp_wf_endPillars
    | (intro _) | split | with_reducible apply Keeps.mapCores

theorem Keeps.hwNoted (hK : Keeps s₀ s) {n : Nat} {ser : Nat} {t : Nat} {part : Nat} {kind : Nat} {pos : Nat} : Keeps s₀
    (s.hwNoted n ser t part kind pos) := by
  unfold State.hwNoted
  repeat' first
    | with_reducible assumption | with_reducible apply Keeps.modPart | with_reducible apply Keeps.eventJob

theorem Keeps.hwReplay (hK : Keeps s₀ s) {n : Nat} {ser : Nat} {t : Nat} {kind : Nat} {pos : Nat} {again : Bool} : Keeps s₀
    (s.hwReplay n ser t kind pos again) := by
  unfold State.hwReplay
  repeat' first
    | with_reducible assumption | with_reducible apply Keeps.replayTask | with_reducible apply Keeps.settleJob
    | with_reducible apply Keeps.startRun | with_reducible apply Keeps.hwNoted | split

theorem Keeps.hardwareError (hK : Keeps s₀ s) {n : Nat} {k : HwKind} {pos : Nat} : Keeps s₀ (s.hardwareError n k pos) := by
  unfold State.hardwareError
  dsimp only
  repeat' first
    | with_reducible assumption | with_reducible apply Keeps.modCore | with_reducible apply Keeps.clusterStop
    | with_reducible apply Keeps.closeRunKeep | with_reducible apply Keeps.hwReplay | exact fun _ h => h | split

theorem Keeps.poisonPillarWord (hK : Keeps s₀ s) {n : Nat} {w : Nat} : Keeps s₀ (s.poisonPillarWord n w) := by
  unfold State.poisonPillarWord
  dsimp only
  repeat' first
    | with_reducible assumption | with_reducible apply Keeps.modCore | with_reducible apply Keeps.eventPart
    | exact fun _ h => h | split

theorem Keeps.meet (hK : Keeps s₀ s) {n : Nat} {pos : Nat} {errors : List Bool} : Keeps s₀ (s.meet n pos errors).1 := by
  unfold State.meet
  repeat' first
    | with_reducible assumption | with_reducible apply Keeps.modCore | with_reducible apply Keeps.hardwareError
    | with_reducible apply sp_wf_countRel | (intro _) | split | with_reducible apply sp_wf_foldl

theorem sp_wf_takeUpset {c : Core} {u : SramUpset} (hwf : Mem1.wf ramD c.sp = true) : Mem1.wf ramD (Core.takeUpset c u).sp =
    true := by
  unfold Core.takeUpset
  repeat' first
    | with_reducible assumption | with_reducible apply sp_wf_modQueue | split

theorem Keeps.consume (hK : Keeps s₀ s) {n : Nat} {ws : List Nat} {pos : Nat} : Keeps s₀ (s.consume n ws pos).1 := by
  unfold State.consume
  dsimp only
  repeat' first
    | with_reducible assumption | with_reducible apply Keeps.modCore | with_reducible apply Keeps.endRun
    | with_reducible apply Keeps.hardwareError | with_reducible apply Keeps.poisonPillarWord
    | (with_reducible refine Keeps.foldl ?_ ?_) | with_reducible apply sp_wf_countFlips | (intro _) | split

end Sys2Proof.Machine
end

