-- ==== Sys2Proof/Laws/KeepsUnits.lean ====
section
/-! SUPPORT. What the shared operations of the control processor and the engines keep. -/

namespace Sys2Proof.Machine

/-- What an instruction's outcome keeps. -/
def KeepsL (r : State) : Lci → Prop
  | .done s | .jump s _ | .wait s _ | .cause s _ | .ended s => Keeps r s
  | .raise _ _ => True
theorem KeepsL.done {r s : State} (h : Keeps r s) : KeepsL r (.done s) := h
theorem KeepsL.jump {r s : State} {p : BitVec 64} (h : Keeps r s) : KeepsL r (.jump s p) := h
theorem KeepsL.wait {r s : State} {p : Stall} (h : Keeps r s) : KeepsL r (.wait s p) := h
theorem KeepsL.cause {r s : State} {p : Cause} (h : Keeps r s) : KeepsL r (.cause s p) := h
theorem KeepsL.ended {r s : State} (h : Keeps r s) : KeepsL r (.ended s) := h
theorem KeepsL.raise {r : State} {a b : Nat} : KeepsL r (.raise a b) := trivial
theorem KeepsL.ofCore {r s : State} {n : Nat} {o : Option Core} (h : Keeps r s) (ho : Mem1.wf ramD (s.core n).sp = true → SomeWf o) :
    KeepsL r (Lci.ofCore s n o) := by
  cases o with
  | none => trivial
  | some c => exact h.modCoreAt (fun k => (ho k).ok c rfl)

variable {s₀ s : State}

theorem sp_wf_icacheRead {c : Core} {l : List (Nat × Bool)} {ic : List Nat} (h : Mem1.wf ramD c.sp = true) :
    Mem1.wf ramD ({ l.foldl (fun (c : Core) _ => c.countRel 2) c with icache := ic } : Core).sp = true :=
  sp_wf_foldl (f := fun (c : Core) _ => c.countRel 2) h (fun _ _ h => h)

theorem Keeps.fetchAt (hK : Keeps s₀ s) {n : Nat} : Keeps s₀ (s.fetchAt n).1 := by
  unfold State.fetchAt
  dsimp only
  split
  · with_reducible apply Keeps.modCore hK
    exact fun _ h => sp_wf_icacheRead h
  · split
    · exact Keeps.of_fst hK.xlate (by assumption)
    · have h := Keeps.of_fst (hK.xlate (n := n)) (by assumption)
      have k := h.modCore (n := n) (f := fun c => c.count 15 1) (fun _ h => h)
      split
      · exact k.touch
      · split
        · exact k.touch
        · exact k.touch.modCore (fun _ h => h)

theorem Keeps.raise (hK : Keeps s₀ s) {n : Nat} {num : Nat} {code : Nat} : Keeps s₀ (s.raise n num code) := by
  unfold State.raise
  repeat' first
    | with_reducible assumption | with_reducible apply Keeps.endRun

theorem Keeps.lciEnd (hK : Keeps s₀ s) {n : Nat} {l : Lci} (hl : KeepsL s₀ l) : Keeps s₀ (s.lciEnd n l) := by
  cases l with
  | done t => exact Keeps.modCore hl (fun _ h => h)
  | jump t pc => exact Keeps.modCore hl (fun _ h => h)
  | wait t st => exact Keeps.modCore hl (fun _ h => h)
  | raise a b => exact hK.raise
  | cause t c => exact Keeps.endRun hl
  | ended t => exact hl

theorem Keeps.lci (hK : Keeps s₀ s) {n : Nat} {guard : BitVec 4} {resume : Stall → Bool} {body : State → Lci}
    (hb : ∀ t, Keeps s₀ t → KeepsL s₀ (body t)) : Keeps s₀ (s.lci n guard resume body) := by
  unfold State.lci
  repeat' first | with_reducible assumption | with_reducible apply Keeps.raise | with_reducible apply Keeps.hardwareError | with_reducible apply Keeps.endRun | with_reducible apply Keeps.fetchAt | with_reducible apply Keeps.lciEnd | with_reducible apply hb | with_reducible apply Keeps.modCore | (with_reducible refine Keeps.of_fst ?_ (by assumption)) | split | exact fun _ h => h

theorem Keeps.immediate (hK : Keeps s₀ s) {core : Nat} {f : FmtI} {op : BitVec 64 → Option (BitVec 64)} : Keeps s₀
    (s.immediate core f op) := by
  unfold State.immediate
  repeat' first
    | with_reducible assumption | with_reducible apply Keeps.lci | with_reducible apply KeepsL.ofCore
    | with_reducible apply sp_wf_setReg | with_reducible apply SomeWf.map | (intro _) | (intro _)

theorem Keeps.wide (hK : Keeps s₀ s) {core : Nat} {f : FmtW} {op : BitVec 64 → BitVec 64} : Keeps s₀ (s.wide core f op) := by
  unfold State.wide
  repeat' first
    | with_reducible assumption | with_reducible apply Keeps.lci | with_reducible apply KeepsL.ofCore
    | with_reducible apply sp_wf_setReg | with_reducible exact SomeWf.none | with_reducible apply SomeWf.some | (intro _) | split
    | (intro _)

theorem Keeps.compare (hK : Keeps s₀ s) {core : Nat} {f : FmtC} {low : Bool} {cond : Nat} {b : Core → BitVec 64} : Keeps s₀
    (s.compare core f low cond b) := by
  unfold State.compare
  repeat' first
    | with_reducible assumption | with_reducible apply Keeps.lci | with_reducible apply KeepsL.ofCore
    | with_reducible apply sp_wf_setPred | with_reducible apply SomeWf.map | with_reducible apply SomeWf.bind
    | with_reducible exact SomeWf.none | (intro _) | split | (intro _)

theorem KeepsL.ldvDirect (hK : Keeps s₀ s) {core : Nat} {f : FmtL} {a : Nat} {size : Nat} {signed : Bool} : KeepsL s₀
    (s.ldvDirect core f a size signed) := by
  unfold State.ldvDirect
  dsimp only
  repeat' first
    | with_reducible assumption | with_reducible apply Keeps.modCore | with_reducible apply Keeps.touch
    | with_reducible apply Keeps.xlate | with_reducible apply KeepsL.done | with_reducible apply KeepsL.cause
    | with_reducible apply KeepsL.ended | with_reducible apply sp_wf_setReg | with_reducible apply sp_wf_count | (intro _)
    | (with_reducible refine Keeps.of_fst ?_ (by assumption)) | split

theorem KeepsL.ldvCached (hK : Keeps s₀ s) {core : Nat} {f : FmtL} {a : Nat} {size : Nat} {signed : Bool} : KeepsL s₀
    (s.ldvCached core f a size signed) := by
  unfold State.ldvCached
  dsimp only
  repeat' first
    | with_reducible assumption | with_reducible apply Keeps.modCore | with_reducible apply Keeps.xlate
    | with_reducible apply Keeps.consume | with_reducible apply KeepsL.done | with_reducible apply KeepsL.wait
    | with_reducible apply KeepsL.cause | with_reducible apply KeepsL.ended | with_reducible apply sp_wf_setReg
    | with_reducible apply sp_wf_count | (intro _) | (with_reducible refine Keeps.of_fst ?_ (by assumption)) | split

theorem sp_wf_push {c : Core} {q : Nat} {b : Bytes} (hwf : Mem1.wf ramD c.sp = true) : Mem1.wf ramD (Core.push c q b).sp = true
    := by
  unfold Core.push
  repeat' first
    | with_reducible assumption | with_reducible apply sp_wf_modQueue

theorem KeepsL.issueCopy (hK : Keeps s₀ s) {core : Nat} {q : Nat} {a : Nat} {units : Nat} {rd : Nat} : KeepsL s₀ (s.issueCopy
    core q a units rd) := by
  unfold State.issueCopy
  dsimp only
  repeat' first
    | with_reducible assumption | with_reducible apply Keeps.modCore | with_reducible apply Keeps.consume
    | with_reducible apply KeepsL.done | with_reducible apply KeepsL.cause | with_reducible apply KeepsL.ended
    | with_reducible apply sp_wf_setReg | with_reducible apply sp_wf_count | with_reducible apply sp_wf_push | (intro _)
    | (with_reducible refine Keeps.of_fst ?_ (by assumption)) | split

theorem KeepsL.mark (hK : Keeps s₀ s) {core : Nat} {f : FmtT} {drain : Bool} : KeepsL s₀ (s.mark core f drain) := by
  unfold State.mark
  dsimp only
  repeat' first
    | with_reducible assumption | with_reducible apply Keeps.modCoreAt | with_reducible exact KeepsL.raise
    | with_reducible apply KeepsL.done | with_reducible apply KeepsL.wait | with_reducible apply KeepsL.cause
    | with_reducible apply inl_wf_tallyOp | (with_reducible refine InlWf.wf ?_ (by assumption)) | (intro _) | split | (intro _)

theorem inl_wf_gatePass {c : Core} {b : Nat} {k : Nat} {actor : Nat} {drain : Bool} (hwf : Mem1.wf ramD c.sp = true) : InlWf
    (Core.gatePass c b k actor drain) := by
  unfold Core.gatePass
  repeat' first
    | with_reducible assumption | with_reducible apply inl_wf_tallyOp | with_reducible apply InlWf.inl | split

theorem Keeps.engineRaise (hK : Keeps s₀ s) {n : Nat} {x : QCmd} {num : Nat} : Keeps s₀ (s.engineRaise n x num) := by
  unfold State.engineRaise
  repeat' first
    | with_reducible assumption | with_reducible apply Keeps.endRun

theorem Keeps.tendCheck (hK : Keeps s₀ s) {n : Nat} : Keeps s₀ (s.tendCheck n) := by
  unfold State.tendCheck
  repeat' first
    | with_reducible assumption | with_reducible apply Keeps.finishRun | split

theorem Keeps.finishCmd (hK : Keeps s₀ s) {n : Nat} {q : Nat} : Keeps s₀ (s.finishCmd n q) := by
  unfold State.finishCmd
  repeat' first
    | with_reducible assumption | with_reducible apply Keeps.modCore | with_reducible apply Keeps.tendCheck
    | exact fun _ h => h

theorem Keeps.clashes (hK : Keeps s₀ s) {n : Nat} {clash : Option Clash} : Keeps s₀ (s.clashes n clash).1 := by
  unfold State.clashes
  repeat' first
    | with_reducible assumption | with_reducible apply Keeps.modCore | exact fun _ h => h | split

theorem Keeps.readCmd (hK : Keeps s₀ s) {n : Nat} {q : Nat} {i : Nat} : Keeps s₀ (s.readCmd n q i).1 := by
  unfold State.readCmd
  repeat' first
    | with_reducible assumption | with_reducible apply Keeps.modCore | with_reducible apply Keeps.meet | exact fun _ h => h

theorem Keeps.engine (hK : Keeps s₀ s) {n q : Nat} {reserved mine : Bytes → Bool} {clash : Option Clash} {body : State → QCmd → State}
    (hb : ∀ t x, Keeps s₀ t → Keeps s₀ (body t x)) : Keeps s₀ (s.engine n q reserved mine clash body) := by
  unfold State.engine
  dsimp only
  repeat' first | with_reducible assumption | with_reducible apply Keeps.engineRaise | with_reducible apply Keeps.endRun | with_reducible apply Keeps.readCmd | with_reducible apply Keeps.clashes | with_reducible apply hb | (with_reducible refine Keeps.of_fst ?_ (by assumption)) | split

theorem Keeps.engineReads (hK : Keeps s₀ s) {n : Nat} {q : Nat} {ranges : List (Nat × Nat)} : Keeps s₀ (s.engineReads n q
    ranges).1 := by
  unfold State.engineReads
  repeat' first
    | with_reducible assumption | with_reducible apply Keeps.consume

theorem sp_wf_countWide {c : Core} {k : Nat} (hwf : Mem1.wf ramD c.sp = true) : Mem1.wf ramD (Core.countWide c k).sp = true := by
  unfold Core.countWide
  repeat' first
    | with_reducible assumption | with_reducible apply sp_wf_count

theorem sp_wf_driftAdvance {k : Nat} {c : Core} (h : Mem1.wf ramD c.sp = true) : Mem1.wf ramD (Core.driftAdvance k c).sp = true := by
  induction k generalizing c with
  | zero => exact h
  | succ k ih =>
    unfold Core.driftAdvance
    dsimp only
    split
    · exact ih h
    · exact h

theorem Keeps.driftFinish (hK : Keeps s₀ s) {n : Nat} {serial : BitVec 32} : Keeps s₀ (s.driftFinish n serial) := by
  unfold State.driftFinish
  repeat' first
    | with_reducible assumption | with_reducible apply Keeps.modCore | with_reducible apply Keeps.tendCheck
    | with_reducible apply sp_wf_driftAdvance | (intro _)

theorem sp_wf_driftTake {c : Core} (hwf : Mem1.wf ramD c.sp = true) : Mem1.wf ramD (Core.driftTake c).sp = true := by
  unfold Core.driftTake
  repeat' first
    | with_reducible assumption | with_reducible apply sp_wf_modQueue

theorem Keeps.drift (hK : Keeps s₀ s) {n op : Nat} {body : State → QCmd → BitVec 32 → State}
    (hb : ∀ t x k, Keeps s₀ t → Keeps s₀ (body t x k)) : Keeps s₀ (s.drift n op body) := by
  unfold State.drift
  split
  · exact hK
  · exact hK.engine (fun t x h => hb _ _ _ h)

theorem inl_wf_sizeTally {c : Core} {t : Nat} {sz : Nat} (hwf : Mem1.wf ramD c.sp = true) : InlWf (Core.sizeTally c t sz) := by
  unfold Core.sizeTally
  repeat' first
    | with_reducible assumption | with_reducible apply sp_wf_modTally | with_reducible exact InlWf.inr
    | with_reducible apply InlWf.inl | split

theorem Keeps.freeBytes (hK : Keeps s₀ s) {n : Nat} : Keeps s₀ (s.freeBytes n).2 := by
  unfold State.freeBytes
  repeat' first
    | with_reducible assumption | with_reducible apply Keeps.draw

theorem Keeps.markMissing (hK : Keeps s₀ s) {core : Nat} {a : Nat} {n : Nat} {va : Nat} {sub : Nat} : Keeps s₀ (s.markMissing
    core a n va sub) := by
  unfold State.markMissing
  repeat' first
    | with_reducible assumption | with_reducible apply Keeps.modCore | with_reducible apply Keeps.freeBytes
    | with_reducible apply sp_wf_spWrite | (intro _)

theorem Keeps.fillWords (hK : Keeps s₀ s) {core : Nat} {a : Nat} {d : Nat} {n : Nat} : Keeps s₀ (s.fillWords core a d n) := by
  unfold State.fillWords
  repeat' first
    | with_reducible assumption | with_reducible apply Keeps.modCore | with_reducible apply Keeps.freeBytes
    | (with_reducible refine Keeps.foldl ?_ ?_) | with_reducible apply sp_wf_spWrite | (intro _)

theorem Keeps.streamWrite (hK : Keeps s₀ s) {core : Nat} {d : StreamCmd} {pos : Nat} {n : Nat} : Keeps s₀ (s.streamWrite core
    d pos n) := by
  unfold State.streamWrite
  dsimp only
  repeat' first
    | with_reducible apply Keeps.modCore | with_reducible apply Keeps.touch | with_reducible apply Keeps.xlate
    | with_reducible apply Keeps.markMissing | with_reducible apply Keeps.fillWords | (intro _)
    | (with_reducible refine Keeps.of_fst ?_ (by assumption)) | split | assumption

theorem inl_wf_gateIf {c : Core} {w : Bool} {b k actor : Nat} {drain : Bool} (h : Mem1.wf ramD c.sp = true) :
    InlWf (if w = true then c.gatePass b k actor drain else .inl c) := by
  cases w
  · exact InlWf.inl h
  · exact inl_wf_gatePass h

theorem Keeps.streamAdvance (hK : Keeps s₀ s) {core i : Nat} {d : StreamCmd} {pos : Nat} {serial : BitVec 32} :
    Keeps s₀ (s.streamAdvance core i d pos serial) := by
  unfold State.streamAdvance
  dsimp only
  split
  · with_reducible apply Keeps.endRun
    with_reducible apply Keeps.modCore hK
    exact fun _ h => h
  · rename_i dd e
    have hd : Mem1.wf ramD ((s.modCore core fun c => { c with streams := c.streams.modify i (fun x =>
        { x with pos := pos, filled := if (pos % d.slotBytes == 0 || pos == d.total) = true then x.filled + 1 else x.filled }) }).core core).sp = true → Mem1.wf ramD dd.sp = true := by
      exact fun h => InlWf.wf (inl_wf_gateIf h) e
    split
    · with_reducible apply Keeps.driftFinish
      with_reducible apply Keeps.modCore
      · with_reducible apply Keeps.modCoreAt
        · with_reducible apply Keeps.modCore hK
          exact fun _ h => h
        · exact hd
      · exact fun _ h => h
    · with_reducible apply Keeps.modCoreAt
      · with_reducible apply Keeps.modCore hK
        exact fun _ h => h
      · exact hd

theorem sp_wf_setSlot {c : Core} {k : Nat} {t : TileSlot} (hwf : Mem1.wf ramD c.sp = true) : Mem1.wf ramD (Core.setSlot c k
    t).sp = true := by
  unfold Core.setSlot
  repeat' first
    | with_reducible assumption | split

theorem sp_wf_takeMatrix {c : Core} {i : Nat} (hwf : Mem1.wf ramD c.sp = true) : Mem1.wf ramD (Core.takeMatrix c i).sp = true
    := by
  unfold Core.takeMatrix
  repeat' first
    | with_reducible assumption | with_reducible apply sp_wf_modQueue

theorem sp_wf_retireMatrix {k : Nat} {c : Core} (h : Mem1.wf ramD c.sp = true) : Mem1.wf ramD (Core.retireMatrix k c).sp = true := by
  induction k generalizing c with
  | zero => exact h
  | succ k ih =>
    unfold Core.retireMatrix
    split
    · split
      · exact ih h
      · exact h
    · exact h

theorem Keeps.finishMatrix (hK : Keeps s₀ s) {n : Nat} {i : Nat} : Keeps s₀ (s.finishMatrix n i) := by
  unfold State.finishMatrix
  repeat' first
    | with_reducible assumption | with_reducible apply Keeps.modCore | with_reducible apply Keeps.tendCheck
    | with_reducible apply sp_wf_modQueue | with_reducible apply sp_wf_retireMatrix | (intro _)

theorem Keeps.matrixFrame (hK : Keeps s₀ s) {n : Nat} {clash : Option Clash} {op : Nat} {body : State → Nat → QCmd → State}
    (hb : ∀ t i x, Keeps s₀ t → Keeps s₀ (body t i x)) : Keeps s₀ (s.matrixFrame n clash op body) := by
  unfold State.matrixFrame
  dsimp only
  repeat' first | with_reducible assumption | with_reducible apply Keeps.engineRaise | with_reducible apply Keeps.endRun | with_reducible apply Keeps.readCmd | with_reducible apply Keeps.clashes | with_reducible apply hb | (with_reducible refine Keeps.of_fst ?_ (by assumption)) | split

theorem pass_wf {c : Core} {p : Pass} (h : Mem1.wf ramD c.sp = true) : Mem1.wf ramD ({ c with pass := p } : Core).sp = true := h

theorem sp_wf_writeBlock {c : Core} {m : StreamOp} {r : Nat} (h : Mem1.wf ramD c.sp = true) : Mem1.wf ramD (c.writeBlock m r).sp = true := by
  unfold Core.writeBlock
  dsimp only
  with_reducible apply pass_wf
  exact sp_wf_foldl h (fun d j hd => sp_wf_countWide (sp_wf_spWrite hd))

theorem sp_wf_writeRow {c : Core} {m : StreamOp} {r : Nat} {lines : List Bytes} (hwf : Mem1.wf ramD c.sp = true) : Mem1.wf ramD
    (Core.writeRow c m r lines).sp = true := by
  unfold Core.writeRow
  repeat' first
    | with_reducible assumption | with_reducible apply sp_wf_spWrite | with_reducible apply sp_wf_countWide
    | with_reducible apply sp_wf_writeBlock | with_reducible apply sp_wf_foldl | split | (intro _)

theorem inl_wf_fillOut {c : Core} {b k : Nat} (h : Mem1.wf ramD c.sp = true) : InlWf (c.fillOut b k) := by
  induction k generalizing c with
  | zero => exact InlWf.inl h
  | succ k ih =>
    unfold Core.fillOut
    split
    · exact ih ((inl_wf_gatePass h).wf (by assumption))
    · exact InlWf.inr

theorem sp_wf_passLine {c : Core} {m : StreamOp} {tile : Array Val} {xs : List Val} {r l : Nat} (h : Mem1.wf ramD c.sp = true) :
    Mem1.wf ramD (c.passLine m tile xs r l).1.sp = true := h

theorem wf_fst {α β : Type} {l : List α} {f : Core × β → α → Core × β} {p : Core × β} (h : Mem1.wf ramD p.1.sp = true)
    (hf : ∀ p x, Mem1.wf ramD p.1.sp = true → Mem1.wf ramD (f p x).1.sp = true) : Mem1.wf ramD (l.foldl f p).1.sp = true := by
  induction l generalizing p with
  | nil => exact h
  | cons a l ih => exact ih (hf _ _ h)

theorem inl_wf_passRow {c : Core} {m : StreamOp} {tile : Array Val} {r : Nat} {row scales : Bytes} (h : Mem1.wf ramD c.sp = true) :
    InlWf (c.passRow m tile r row scales) := by
  unfold Core.passRow
  dsimp only
  generalize e : List.foldl _ _ _ = p
  have hp : Mem1.wf ramD p.1.sp = true := by
    rw [← e]
    exact wf_fst h (fun p x k => sp_wf_passLine k)
  have hq : Mem1.wf ramD (if m.sink = true then p.1.writeRow m r p.2 else p.1).sp = true := by
    split
    · exact sp_wf_writeRow hp
    · exact hp
  split
  · exact InlWf.inr
  · rename_i d e
    have hc : Mem1.wf ramD d.sp = true := by
      split at e
      · refine InlWf.wf (inl_wf_gatePass ?_) e
        exact hq
      · cases e
        exact hq
    split
    · exact inl_wf_fillOut hc
    · exact InlWf.inl hc

theorem Keeps.passLoop (hK : Keeps s₀ s) {k n i : Nat} {m : StreamOp} {tile : Array Val} : Keeps s₀ (State.passLoop k s n i m tile).1 := by
  induction k generalizing s with
  | zero => exact hK
  | succ k ih =>
    unfold State.passLoop
    dsimp only
    have h1 : Keeps s₀ ((s.modCore n (fun c => c.countWide (m.reads (s.core n).pass.row)))) := hK.modCore (fun _ h => h)
    split
    · exact hK
    · split
      · exact Keeps.of_fst h1.engineReads (by assumption)
      · have h2 := Keeps.of_fst h1.engineReads (by assumption)
        split
        · exact Keeps.of_fst h2.meet (by assumption)
        · have h3 := Keeps.of_fst h2.meet (by assumption)
          split
          · exact ih (h3.modCoreAt (fun h => (inl_wf_passRow h).wf (by assumption)))
          · exact h3.endRun

theorem Keeps.passEnd (hK : Keeps s₀ s) {n : Nat} {i : Nat} {m : StreamOp} : Keeps s₀ (s.passEnd n i m) := by
  unfold State.passEnd
  repeat' first
    | with_reducible assumption | with_reducible apply Keeps.modCore | with_reducible apply Keeps.finishMatrix
    | with_reducible apply sp_wf_spWrite | (intro _) | split

theorem Keeps.unitEnd (hK : Keeps s₀ s) {n : Nat} {q : Nat} {v : VAcc} {status : Nat} {inTally : Nat} {outTally : Nat} {extra
    : Nat} : Keeps s₀ (s.unitEnd n q v status inTally outTally extra) := by
  unfold State.unitEnd
  dsimp only
  repeat' first
    | with_reducible assumption | with_reducible apply Keeps.modCoreAt | with_reducible apply Keeps.endRun
    | with_reducible apply Keeps.finishCmd | with_reducible apply sp_wf_spWrite | with_reducible apply inl_wf_gatePass
    | with_reducible apply sp_wf_countWide | (with_reducible refine InlWf.wf ?_ (by assumption)) | (intro _)
    | with_reducible apply sp_wf_foldl | split | (intro _)

theorem Keeps.vectorEnd (hK : Keeps s₀ s) {n : Nat} {v : VAcc} {status : Nat} {inTally : Nat} {outTally : Nat} {extra : Nat} :
    Keeps s₀ (s.vectorEnd n v status inTally outTally extra) := by
  unfold State.vectorEnd
  repeat' first
    | with_reducible assumption | with_reducible apply Keeps.unitEnd

theorem Keeps.vector (hK : Keeps s₀ s) {n op : Nat} {clash : Option Clash} {ok : Core → Bytes → Bool} {gates : Bytes → Nat × Nat}
    {ranges : Bytes → List (Nat × Nat)} {body : State → Bytes → State}
    (hb : ∀ t x, Keeps s₀ t → Keeps s₀ (body t x)) : Keeps s₀ (s.vector n op clash ok gates ranges body) := by
  unfold State.vector
  refine hK.engine (fun t x h => ?_)
  dsimp only
  repeat' first | with_reducible assumption | with_reducible apply Keeps.engineRaise | with_reducible apply hb | with_reducible apply Keeps.engineReads | (with_reducible refine Keeps.of_fst ?_ (by assumption)) | split

theorem Keeps.attnTile (hK : Keeps s₀ s) {n : Nat} {x : QCmd} {a : AttnCmd} {map : Bytes} {t : Nat × Nat} : Keeps s₀
    (s.attnTile n x a map t).1 := by
  unfold State.attnTile
  dsimp only
  repeat' first
    | with_reducible assumption | with_reducible apply Keeps.modCore | with_reducible apply Keeps.engineRaise
    | with_reducible apply Keeps.engineReads | exact fun _ h => h | split

theorem Keeps.attnReads (hK : Keeps s₀ s) {n : Nat} {x : QCmd} {a : AttnCmd} {map : Bytes} : Keeps s₀ (s.attnReads n x a
    map).1 := by
  unfold State.attnReads
  repeat' first
    | with_reducible assumption | with_reducible apply Keeps.modCore | with_reducible apply Keeps.engineReads
    | with_reducible apply Keeps.attnTile | (with_reducible refine Keeps.foldl_fst ?_ ?_)
    | with_reducible apply sp_wf_countWide | (intro _) | split

theorem Keeps.fusedEnd (hK : Keeps s₀ s) {n : Nat} {a : AttnCmd} {v : VAcc} {extra : Nat} : Keeps s₀ (s.fusedEnd n a v extra)
    := by
  unfold State.fusedEnd
  repeat' first
    | with_reducible assumption | with_reducible apply Keeps.modCore | with_reducible apply Keeps.draw
    | with_reducible apply Keeps.freeBytes | with_reducible apply Keeps.vectorEnd | with_reducible apply sp_wf_spWrite
    | with_reducible apply sp_wf_countWide | (intro _)

theorem Keeps.fused (hK : Keeps s₀ s) {n op : Nat} {clash : Option Clash} {body : State → AttnCmd → AttnData → State}
    (hb : ∀ t x d, Keeps s₀ t → Keeps s₀ (body t x d)) : Keeps s₀ (s.fused n op clash body) := by
  unfold State.fused
  refine hK.engine (fun t x h => ?_)
  dsimp only
  repeat' first | with_reducible assumption | with_reducible apply Keeps.engineRaise | with_reducible apply hb | with_reducible apply Keeps.attnReads | (with_reducible refine Keeps.of_fst ?_ (by assumption)) | split

theorem Keeps.attnRead (hK : Keeps s₀ s) {n : Nat} {va : Nat} {len : Nat} : Keeps s₀ (s.attnRead n va len).1 := by
  unfold State.attnRead
  dsimp only
  repeat' first
    | with_reducible assumption | with_reducible apply Keeps.xlateRange | with_reducible apply Keeps.touchPieces
    | (with_reducible refine Keeps.of_fst ?_ (by assumption)) | split

theorem Keeps.attendRoot (hK : Keeps s₀ s) {n : Nat} {a : AttendCmd} : Keeps s₀ (s.attendRoot n a).1 := by
  unfold State.attendRoot
  dsimp only
  repeat' first
    | with_reducible assumption | with_reducible apply Keeps.attnRead
    | (with_reducible refine Keeps.of_fst ?_ (by assumption)) | split

theorem Keeps.attendPage (hK : Keeps s₀ s) {n : Nat} {a : AttendCmd} {q : Sequence} {pg : Nat} {cnt : Nat} : Keeps s₀
    (s.attendPage n a q pg cnt).1 := by
  unfold State.attendPage
  dsimp only
  repeat' first
    | with_reducible assumption | with_reducible apply Keeps.attnRead | (with_reducible refine Keeps.foldl_fst ?_ ?_)
    | (intro _) | (with_reducible refine Keeps.of_fst ?_ (by assumption)) | split

theorem Keeps.attendTokens (hK : Keeps s₀ s) {n : Nat} {a : AttendCmd} {q : Sequence} {t : Nat} : Keeps s₀ (s.attendTokens n a
    q t).1 := by
  unfold State.attendTokens
  dsimp only
  repeat' first
    | with_reducible assumption | with_reducible apply Keeps.attendPage
    | (with_reducible refine Keeps.of_fst ?_ (by assumption)) | split

theorem Keeps.attendTiles (hK : Keeps s₀ s) {n : Nat} {x : QCmd} {a : AttendCmd} {q : Sequence} {map : Bytes} {l : List Nat} {first : Bool}
    {acc : List (Nat × List Nat × List Token)} : Keeps s₀ (State.attendTiles n x a q map l first s acc).1 := by
  induction l generalizing s first acc with
  | nil => exact hK
  | cons t ts ih =>
    unfold State.attendTiles
    dsimp only
    repeat' first | with_reducible assumption | with_reducible apply ih | with_reducible apply Keeps.engineRaise | with_reducible apply Keeps.endRun | with_reducible apply Keeps.engineReads | with_reducible apply Keeps.attendTokens | with_reducible apply Keeps.modCore | (with_reducible refine Keeps.of_fst ?_ (by assumption)) | split | exact fun _ h => h

theorem Keeps.attendTake (hK : Keeps s₀ s) {n : Nat} {x : QCmd} {a : AttendCmd} : Keeps s₀ (s.attendTake n x a) := by
  unfold State.attendTake
  dsimp only
  repeat' first
    | with_reducible apply Keeps.modCore | with_reducible apply Keeps.endRun | with_reducible apply Keeps.engineRaise
    | with_reducible apply Keeps.engineReads | with_reducible apply Keeps.attendRoot | with_reducible apply Keeps.attendTiles
    | (intro _) | (with_reducible refine Keeps.of_fst ?_ (by assumption)) | split | assumption

theorem Keeps.attendRecheck (hK : Keeps s₀ s) {n : Nat} {a : AttendCmd} {h : AttendHeld} : Keeps s₀ (s.attendRecheck n a h).1
    := by
  unfold State.attendRecheck
  repeat' first
    | with_reducible assumption | with_reducible apply Keeps.attnRead | (with_reducible refine Keeps.foldl_fst ?_ ?_)
    | (intro _) | (with_reducible refine Keeps.of_fst ?_ (by assumption)) | split | (intro _)

end Sys2Proof.Machine
end

