-- ==== Sys2Proof/Laws/KeepsBlock.lean ====
section
/-! SUPPORT. What the shared operations of power, boot, registers, links, security and the resident area keep. -/

namespace Sys2Proof.Machine

variable {s₀ s : State}

theorem Keeps.clearAll (hK : Keeps s₀ s) : Keeps s₀ s.clearAll where
  pending := hK.pending
  shape k := by
    obtain ⟨a, b, c, d, e, g, x⟩ := hK.shape k
    exact ⟨List.length_replicate, List.length_replicate, List.length_replicate, (List.length_map _).trans d, forall_mem_map (fun _ _ => List.length_replicate), List.length_replicate, x⟩
  canonical k := by
    obtain ⟨a, b, c, d, e, g⟩ := hK.canonical k
    refine ⟨a, rfl, forall_mem_map c, ?_, e, rfl, g.2⟩
    intro x hx
    rw [List.eq_of_mem_replicate hx]
    rfl

theorem Keeps.railsOff (hK : Keeps s₀ s) : Keeps s₀ (s.railsOff) := by
  unfold State.railsOff
  repeat' first
    | with_reducible assumption | with_reducible apply Keeps.modPwr | (intro _) | exact rfl | (intro _)

theorem Keeps.loadHours (hK : Keeps s₀ s) : Keeps s₀ (s.loadHours) := by
  unfold State.loadHours
  repeat' first
    | with_reducible assumption | with_reducible apply Keeps.modFlash | exact fun _ h => h | exact fun _ _ h => h

theorem Keeps.writeHours (hK : Keeps s₀ s) : Keeps s₀ (s.writeHours) := by
  unfold State.writeHours
  repeat' first
    | with_reducible assumption | with_reducible apply Keeps.modFlash | with_reducible apply Keeps.flashWrite
    | with_reducible apply Keeps.flashErase | exact fun _ h => h | exact fun _ _ h => h | split

theorem Keeps.powerOff (hK : Keeps s₀ s) {phase : Phase} : Keeps s₀ (s.powerOff phase) := by
  unfold State.powerOff
  repeat' first
    | with_reducible assumption | with_reducible apply Keeps.modPwr | with_reducible apply Keeps.clearAll
    | with_reducible apply Keeps.railsOff | exact fun _ h => h

theorem Keeps.resetFault (hK : Keeps s₀ s) : Keeps s₀ (s.resetFault) := by
  unfold State.resetFault
  repeat' first
    | with_reducible assumption | with_reducible apply Keeps.modPwr | (intro _) | with_reducible apply Keeps.ite | (intro _)

theorem Keeps.actDeferred (hK : Keeps s₀ s) {rank : Nat} : Keeps s₀ (s.actDeferred rank) := by
  unfold State.actDeferred
  repeat' first
    | with_reducible assumption | with_reducible apply Keeps.modPwr | with_reducible apply Keeps.resetFault | (intro _)
    | split | (intro _)

theorem Keeps.endSequence (hK : Keeps s₀ s) : Keeps s₀ (s.endSequence) := by
  unfold State.endSequence
  repeat' first
    | with_reducible assumption | with_reducible apply Keeps.modPwr | with_reducible apply Keeps.actDeferred
    | (with_reducible refine Keeps.foldl ?_ ?_) | (intro _) | with_reducible apply Keeps.ite | (intro _)

theorem Keeps.deferEvent (hK : Keeps s₀ s) {rank : Nat} : Keeps s₀ (s.deferEvent rank) := by
  unfold State.deferEvent
  repeat' first
    | with_reducible assumption | with_reducible apply Keeps.modPwr | with_reducible apply Keeps.plogFixed | (intro _)
    | (intro _)

theorem Keeps.startSequence (hK : Keeps s₀ s) {rank : Nat} {hours : Bool} : Keeps s₀ (s.startSequence rank hours) := by
  unfold State.startSequence
  repeat' first
    | with_reducible assumption | with_reducible apply Keeps.modPwr | (intro _) | (intro _)

theorem Keeps.sequenceHours (hK : Keeps s₀ s) : Keeps s₀ (s.sequenceHours) := by
  unfold State.sequenceHours
  repeat' first
    | with_reducible assumption | with_reducible apply Keeps.writeHours | with_reducible apply Keeps.ite

theorem Keeps.sequenceFlush (hK : Keeps s₀ s) {code : Nat} {payload : Nat} : Keeps s₀ (s.sequenceFlush code payload) := by
  unfold State.sequenceFlush
  repeat' first
    | with_reducible assumption | with_reducible apply Keeps.plogFlush | with_reducible apply Keeps.plogTake

theorem Keeps.toStandby (hK : Keeps s₀ s) : Keeps s₀ (s.toStandby) := by
  unfold State.toStandby
  repeat' first
    | with_reducible assumption | with_reducible apply Keeps.modPwr | (intro _) | (intro _)
    | (simp only [List.length_set, List.length_map, List.length_modify]; assumption)

theorem Keeps.railFault (hK : Keeps s₀ s) {rail : Fin 8} {status : BitVec 16} : Keeps s₀ (s.railFault rail status) := by
  unfold State.railFault
  repeat' first
    | with_reducible assumption | with_reducible apply Keeps.modRail | with_reducible apply Keeps.modPwr | exact fun _ h => h

theorem Keeps.sensor (hK : Keeps s₀ s) {reading : Int} : Keeps s₀ (s.sensor reading) := by
  unfold State.sensor
  repeat' first
    | with_reducible assumption | with_reducible apply Keeps.modPwr | (intro _) | (intro _)

theorem Keeps.loadFence (hK : Keeps s₀ s) : Keeps s₀ s.loadFence.1 := by
  unfold State.loadFence
  split
  · (with_reducible apply Keeps.modFlash hK) <;> first | exact fun _ h => h | exact fun _ _ h => h
  · (with_reducible apply Keeps.modFlash hK) <;> first | exact fun _ h => h | exact fun _ _ h => h

theorem Keeps.writeFence (hK : Keeps s₀ s) : Keeps s₀ (s.writeFence) := by
  unfold State.writeFence
  repeat' first
    | with_reducible assumption | with_reducible apply Keeps.modFlash | with_reducible apply Keeps.flashWrite
    | with_reducible apply Keeps.flashErase | exact fun _ h => h | exact fun _ _ h => h

theorem Keeps.loadRetired (hK : Keeps s₀ s) : Keeps s₀ s.loadRetired.1 := by
  unfold State.loadRetired
  split
  · (with_reducible apply Keeps.modFlash hK) <;> first | exact fun _ h => h | exact fun _ _ h => h
  · (with_reducible apply Keeps.modFlash hK) <;> first | exact fun _ h => h | exact fun _ _ h => h

theorem Keeps.writeRetired (hK : Keeps s₀ s) : Keeps s₀ (s.writeRetired) := by
  unfold State.writeRetired
  repeat' first
    | with_reducible assumption | with_reducible apply Keeps.modFlash | with_reducible apply Keeps.flashWrite
    | with_reducible apply Keeps.flashErase | exact fun _ h => h | exact fun _ _ h => h

theorem Keeps.recheckPlacement (hK : Keeps s₀ s) : Keeps s₀ (s.recheckPlacement) := by
  unfold State.recheckPlacement
  repeat' first
    | with_reducible assumption | with_reducible apply Keeps.failTask | with_reducible apply Keeps.endPillarless
    | (with_reducible refine Keeps.foldl ?_ ?_) | (intro _) | split

theorem Keeps.fenceCore (hK : Keeps s₀ s) {n : Nat} {reason : Nat} : Keeps s₀ (s.fenceCore n reason) := by
  unfold State.fenceCore
  repeat' first
    | with_reducible assumption | with_reducible apply Keeps.modCore | with_reducible apply Keeps.modFlash
    | with_reducible apply Keeps.modWnd | with_reducible apply Keeps.eventModule | with_reducible apply Keeps.writeFence
    | with_reducible apply Keeps.recheckPlacement | with_reducible apply sp_wf_endPillars | (intro _) | split

theorem Keeps.enterRecovery (hK : Keeps s₀ s) : Keeps s₀ s.enterRecovery := by
  unfold State.enterRecovery
  dsimp only
  with_reducible apply Keeps.mapLinks
  · with_reducible apply Keeps.modPwr hK
    exact fun _ h => h
  · exact fun _ h => h
  · exact fun _ h => h

theorem Keeps.passStage (hK : Keeps s₀ s) : Keeps s₀ (s.passStage) := by
  unfold State.passStage
  repeat' first
    | with_reducible assumption | with_reducible apply Keeps.modPwr | exact fun _ h => h

theorem Keeps.recordInvalid (hK : Keeps s₀ s) {area : Nat} : Keeps s₀ (s.recordInvalid area) := by
  unfold State.recordInvalid
  repeat' first
    | with_reducible assumption | with_reducible apply Keeps.mgtEvent | with_reducible apply Keeps.plogFixed

theorem Keeps.openEnvelope (hK : Keeps s₀ s) {p : Nat} {b : Bytes} {u : State} {t : Bytes} (e : s.openEnvelope p b = some (u, t)) : Keeps s₀ u := by
  unfold State.openEnvelope at e
  split at e
  · cases e
  · split at e
    · cases e
    · cases e
      exact hK.modPart

theorem Keeps.endSession (hK : Keeps s₀ s) {p : Nat} : Keeps s₀ (s.endSession p) := by
  unfold State.endSession
  repeat' first
    | with_reducible assumption | with_reducible apply Keeps.modPart | with_reducible apply Keeps.eventPart | split

theorem Keeps.killJobs (hK : Keeps s₀ s) {p : Job → Bool} {pillarsToo : Bool} : Keeps s₀ (s.killJobs p pillarsToo) := by
  unfold State.killJobs
  repeat' first
    | with_reducible assumption | with_reducible apply Keeps.killJob | (with_reducible refine Keeps.foldl ?_ ?_) | (intro _)

theorem Keeps.writeAlias (hK : Keeps s₀ s) {p : Nat} : Keeps s₀ (s.writeAlias p) := by
  unfold State.writeAlias
  repeat' first
    | with_reducible assumption | with_reducible apply Keeps.memWrite | (with_reducible refine Keeps.foldl ?_ ?_) | (intro _)

theorem Keeps.zeroPart (hK : Keeps s₀ s) {p : Nat} : Keeps s₀ (s.zeroPart p) := by
  unfold State.zeroPart
  repeat' first
    | with_reducible assumption | with_reducible apply Keeps.modMem | (intro _) | (with_reducible refine Mem1.wf_keep _ _ ?_)

theorem sp_wf_clearCounters {c : Core} {p : Nat} (hwf : Mem1.wf ramD c.sp = true) : Mem1.wf ramD (Core.clearCounters c p).sp =
    true := by
  unfold Core.clearCounters
  with_reducible assumption

theorem Keeps.partitionReset (hK : Keeps s₀ s) {p : Nat} {entry : Bytes} : Keeps s₀ (s.partitionReset p entry) := by
  unfold State.partitionReset
  repeat' first
    | with_reducible assumption | with_reducible apply Keeps.modPart | with_reducible apply Keeps.modFn
    | with_reducible apply Keeps.modLnk | with_reducible apply Keeps.modSec | with_reducible apply Keeps.invalidatePart
    | with_reducible apply Keeps.endSession | with_reducible apply Keeps.killJobs | with_reducible apply Keeps.zeroPart
    | (with_reducible refine Keeps.foldl ?_ ?_) | with_reducible apply sp_wf_endPillars
    | with_reducible apply sp_wf_clearCounters | (intro _) | split | with_reducible apply Keeps.mapCores

theorem Keeps.absorbReset (hK : Keeps s₀ s) : Keeps s₀ (s.absorbReset) := by
  unfold State.absorbReset
  repeat' first
    | with_reducible assumption | with_reducible apply Keeps.draw | with_reducible apply Keeps.plogFixed | split

theorem Keeps.resetLink (hK : Keeps s₀ s) {k : Nat} : Keeps s₀ (s.resetLink k) := by
  unfold State.resetLink
  repeat' first
    | with_reducible apply Keeps.modLink | with_reducible apply Keeps.killJobs | (intro _) | (intro _) | assumption
    | (simp only [List.length_set, List.length_map, List.length_modify]; assumption)

theorem Keeps.resetFunction (hK : Keeps s₀ s) {k : Nat} {f : Nat} : Keeps s₀ (s.resetFunction k f) := by
  unfold State.resetFunction
  repeat' first
    | with_reducible assumption | with_reducible apply Keeps.modLink | with_reducible apply Keeps.modFn
    | with_reducible apply Keeps.modSec | with_reducible apply Keeps.killJobs | exact fun _ h => h | split

theorem Keeps.indexInvalid (hK : Keeps s₀ s) {k : Nat} {f : Nat} {which : Nat} {value : Nat} : Keeps s₀ (s.indexInvalid k f
    which value) := by
  unfold State.indexInvalid
  repeat' first
    | with_reducible assumption | with_reducible apply Keeps.eventFn

theorem Keeps.eventOverflow (hK : Keeps s₀ s) {k : Nat} {f : Nat} : Keeps s₀ (s.eventOverflow k f) := by
  unfold State.eventOverflow
  dsimp only
  repeat' first
    | with_reducible assumption | with_reducible apply Keeps.modFn | with_reducible apply Keeps.eventFn | split

theorem Keeps.readSlot (hK : Keeps s₀ s) {k : Nat} {f : Nat} {v : Nat} : Keeps s₀ (s.readSlot k f v) := by
  unfold State.readSlot
  dsimp only
  repeat' first
    | with_reducible assumption | with_reducible apply Keeps.modFn | with_reducible apply Keeps.indexInvalid
    | with_reducible apply Keeps.eventOverflow | split

theorem Keeps.startDoorbellRead (hK : Keeps s₀ s) {k : Nat} : Keeps s₀ (s.startDoorbellRead k) := by
  unfold State.startDoorbellRead
  repeat' first
    | with_reducible assumption | with_reducible apply Keeps.modLink | (intro _) | split

theorem Keeps.consumeEntry (hK : Keeps s₀ s) {k : Nat} {f : Nat} : Keeps s₀ (s.consumeEntry k f) := by
  unfold State.consumeEntry
  repeat' first
    | with_reducible assumption | with_reducible apply Keeps.modFn

theorem Keeps.consumeReserved (hK : Keeps s₀ s) {k : Nat} {f : Nat} : Keeps s₀ (s.consumeReserved k f) := by
  unfold State.consumeReserved
  repeat' first
    | with_reducible assumption | with_reducible apply Keeps.modFn | with_reducible apply Keeps.consumeEntry

theorem Keeps.enterScoreboard (hK : Keeps s₀ s) {ser : Nat} : Keeps s₀ (s.enterScoreboard ser) := by
  unfold State.enterScoreboard
  repeat' first
    | with_reducible assumption | with_reducible apply Keeps.modJob | with_reducible apply Keeps.settleJob

theorem Keeps.descriptor (hK : Keeps s₀ s) {ser : Nat} {j : Job} {b : Bytes} : Keeps s₀ (s.descriptor ser j b) := by
  unfold State.descriptor
  dsimp only
  repeat' first
    | with_reducible assumption | with_reducible apply Keeps.modJob | with_reducible apply Keeps.touchVa
    | with_reducible apply Keeps.failJob | with_reducible apply Keeps.takeWaiting | with_reducible apply Keeps.enterScoreboard
    | split

theorem Keeps.refuseAccess (hK : Keeps s₀ s) {w : Window} : Keeps s₀ (s.refuseAccess w) := by
  unfold State.refuseAccess
  repeat' first
    | with_reducible assumption | with_reducible apply Keeps.modFn | with_reducible apply Keeps.modMgt | split

theorem Keeps.lockedWrite (hK : Keeps s₀ s) {locked hit : Bool} {viol go : State → State} (hv : ∀ t, Keeps s₀ t → Keeps s₀ (viol t))
    (hg : ∀ t, Keeps s₀ t → Keeps s₀ (go t)) : Keeps s₀ (lockedWrite locked hit viol go s) := by
  unfold Machine.lockedWrite
  split
  · exact hK
  · split
    · exact hv s hK
    · exact hg s hK

theorem Keeps.doorbellWrite (hK : Keeps s₀ s) {k : Nat} {v : Nat} : Keeps s₀ (s.doorbellWrite k v) := by
  unfold State.doorbellWrite
  repeat' first
    | with_reducible assumption | with_reducible apply Keeps.modLink | with_reducible apply Keeps.modFn | exact fun _ h => h
    | split

theorem Keeps.ringParam (hK : Keeps s₀ s) {k : Nat} {f : Nat} {w : WriteHalf} {get : Fn → Ring} {put : Fn → Ring → Fn} {isBase
    : Bool} : Keeps s₀ (s.ringParam k f w get put isBase) := by
  unfold State.ringParam
  repeat' first
    | with_reducible assumption | with_reducible apply Keeps.modFn | with_reducible apply Keeps.lockedWrite | (intro _)
    | split

theorem Keeps.hifWrite (hK : Keeps s₀ s) {k : Nat} {f : Nat} {o : Nat} {w : WriteHalf} : Keeps s₀ (s.hifWrite k f o w) := by
  unfold State.hifWrite
  repeat' first
    | with_reducible assumption | with_reducible apply Keeps.modLink | with_reducible apply Keeps.modFn
    | with_reducible apply Keeps.lockedWrite | with_reducible apply Keeps.doorbellWrite | with_reducible apply Keeps.ringParam
    | (intro _) | with_reducible apply Keeps.ite | (intro _)

theorem Keeps.secWrite (hK : Keeps s₀ s) {k : Nat} {f : Nat} {o : Nat} {w : WriteHalf} : Keeps s₀ (s.secWrite k f o w) := by
  unfold State.secWrite
  dsimp only
  repeat' first
    | with_reducible assumption | with_reducible apply Keeps.modFn | split

theorem Keeps.partWrite (hK : Keeps s₀ s) {p : Nat} {o : Nat} {w : WriteHalf} : Keeps s₀ (s.partWrite p o w) := by
  unfold State.partWrite
  repeat' first
    | with_reducible assumption | with_reducible apply Keeps.modPart | with_reducible apply Keeps.lockedWrite | (intro _)
    | split

theorem Keeps.trcWrite (hK : Keeps s₀ s) {p : Nat} {o : Nat} {w : WriteHalf} : Keeps s₀ (s.trcWrite p o w) := by
  unfold State.trcWrite
  repeat' first
    | with_reducible assumption | with_reducible apply Keeps.modPart | split

theorem Keeps.plogWrite (hK : Keeps s₀ s) {win : Window} {o : Nat} {w : WriteHalf} : Keeps s₀ (s.plogWrite win o w) := by
  unfold State.plogWrite
  repeat' first
    | with_reducible assumption | with_reducible apply Keeps.modFn | with_reducible apply Keeps.modPlog
    | with_reducible apply Keeps.plogDrain | split

theorem Keeps.moduleWrite (hK : Keeps s₀ s) {b : Nat} {o : Nat} {w : WriteHalf} : Keeps s₀ (s.moduleWrite b o w) := by
  unfold State.moduleWrite
  repeat' first
    | with_reducible assumption | with_reducible apply Keeps.modWnd | with_reducible apply Keeps.modMem
    | with_reducible apply Keeps.modLnk | with_reducible apply Keeps.modTime | with_reducible apply Keeps.modMgt
    | with_reducible apply Keeps.lockedWrite | (intro _) | with_reducible apply Keeps.ite | (intro _)

theorem Keeps.bar2Write (hK : Keeps s₀ s) {k : Nat} {f : Nat} {a : Nat} {w : WriteHalf} : Keeps s₀ (s.bar2Write k f a w) := by
  unfold State.bar2Write
  repeat' first
    | with_reducible assumption | with_reducible apply Keeps.modFn | with_reducible apply Keeps.msixRelease

theorem Keeps.configWrite (hK : Keeps s₀ s) {k : Nat} {f : Nat} {a : Nat} {w : WriteHalf} : Keeps s₀ (s.configWrite k f a w)
    := by
  unfold State.configWrite
  repeat' first
    | with_reducible assumption | with_reducible apply Keeps.modFn | with_reducible apply Keeps.msixRelease

theorem Keeps.regWrite (hK : Keeps s₀ s) {w : Window} {o : Nat} {size : Nat} {v : Nat} : Keeps s₀ (s.regWrite w o size v) := by
  unfold State.regWrite
  repeat' first
    | with_reducible assumption | with_reducible apply Keeps.refuseAccess | with_reducible apply Keeps.hifWrite
    | with_reducible apply Keeps.secWrite | with_reducible apply Keeps.partWrite | with_reducible apply Keeps.trcWrite
    | with_reducible apply Keeps.plogWrite | with_reducible apply Keeps.moduleWrite | with_reducible apply Keeps.bar2Write
    | with_reducible apply Keeps.configWrite | with_reducible apply Keeps.ite | split

theorem Keeps.writeCommand (hK : Keeps s₀ s) {w : Window} {o : Nat} {size : Nat} {v : Nat} : Keeps s₀ (s.writeCommand w o size
    v) := by
  unfold State.writeCommand
  repeat' first
    | with_reducible assumption | with_reducible apply Keeps.regWrite | split

theorem Keeps.readCommand (hK : Keeps s₀ s) {w : Window} {k : Nat} {o : Nat} {size : Nat} : Keeps s₀ (s.readCommand w k o
    size) := by
  unfold State.readCommand
  repeat' first
    | with_reducible assumption | with_reducible apply Keeps.modLink | with_reducible apply Keeps.msix | (intro _)
    | with_reducible apply Keeps.ite | (intro _)

theorem sp_wf_beatMet {c : Core} {beat : Nat} (hwf : Mem1.wf ramD c.sp = true) : Mem1.wf ramD (Core.beatMet c beat).sp = true
    := by
  unfold Core.beatMet
  repeat' first
    | with_reducible assumption | split

theorem Keeps.countBeat (hK : Keeps s₀ s) {real : Bool} : Keeps s₀ (s.countBeat real) := by
  unfold State.countBeat
  repeat' first
    | with_reducible assumption | with_reducible apply Keeps.modWnd | with_reducible apply Keeps.modTime
    | with_reducible apply Keeps.eventPartModule | with_reducible apply Keeps.trace | with_reducible apply Keeps.settleAll
    | with_reducible apply Keeps.startDoorbellRead | (with_reducible refine Keeps.foldl ?_ ?_)
    | with_reducible apply sp_wf_beatMet | (intro _) | split | with_reducible apply Keeps.mapCores

theorem Keeps.cadenceTrace (hK : Keeps s₀ s) {restored : Bool} {n : Nat} : Keeps s₀ (s.cadenceTrace restored n) := by
  unfold State.cadenceTrace
  repeat' first
    | with_reducible assumption | with_reducible apply Keeps.trace | (with_reducible refine Keeps.foldl ?_ ?_) | (intro _)

theorem Keeps.cadenceRestored (hK : Keeps s₀ s) {n : Nat} : Keeps s₀ (s.cadenceRestored n) := by
  unfold State.cadenceRestored
  repeat' first
    | with_reducible assumption | with_reducible apply Keeps.eventModule | with_reducible apply Keeps.cadenceTrace

theorem sp_wf_cycles {c : Core} {n : Nat} {draw : Nat} (hwf : Mem1.wf ramD c.sp = true) : Mem1.wf ramD (Core.cycles c n
    draw).sp = true := by
  unfold Core.cycles
  repeat' first
    | with_reducible assumption | with_reducible apply sp_wf_count | with_reducible apply sp_wf_foldl | split | (intro _)

theorem sp_wf_tick {c : Core} {n : Nat} {draw : Nat} (hwf : Mem1.wf ramD c.sp = true) : Mem1.wf ramD (Core.tick c n draw).sp =
    true := by
  unfold Core.tick
  repeat' first
    | with_reducible assumption | with_reducible apply sp_wf_count | with_reducible apply sp_wf_cycles | split

theorem Keeps.sequenceTick (hK : Keeps s₀ s) : Keeps s₀ (s.sequenceTick) := by
  unfold State.sequenceTick
  repeat' first
    | with_reducible assumption | with_reducible apply Keeps.endSequence | split

theorem Keeps.units (hK : Keeps s₀ s) {k : Nat} {t : TimeSt} : Keeps s₀
    { s with time := t, cores := (List.zip (List.range s.cores.length) s.cores).map (fun nc => nc.2.tick nc.1 k),
             links := s.links.map (fun l => { l with fns := l.fns.map Fn.tick }) } := by
  refine ⟨hK.pending, fun k => ?_, fun k => ?_⟩
  · obtain ⟨a, b, c, d, e, g, x⟩ := hK.shape k
    exact ⟨by simpa using a, b, c, (List.length_map _).trans d, forall_mem_map (fun l hl => (List.length_map _).trans (e l hl)), g, x⟩
  · obtain ⟨a, b, c, d, e, g⟩ := hK.canonical k
    refine ⟨a, b, forall_mem_map c, ?_, e, g⟩
    apply forall_mem_map
    intro nc hn
    exact sp_wf_tick (d nc.2 (List.of_mem_zip hn).2)

theorem Keeps.tick (hK : Keeps s₀ s) : Keeps s₀ s.tick := by
  unfold State.tick
  split
  · exact hK
  · exact hK.draw.units.sequenceTick

theorem rekeyed_length {me : BitVec 12} {g : PortSt → PortSt} {l : List PortSt} {a : List PortSt × LinkKey} :
    (l.foldl (fun (a : List PortSt × LinkKey) p => (a.1 ++ [g (p.rekey me a.2).1], (p.rekey me a.2).2)) a).1.length
      = a.1.length + l.length := by
  induction l generalizing a with
  | nil => rfl
  | cons p l ih =>
    rw [List.foldl_cons, ih]
    simp [Nat.add_assoc, Nat.add_comm 1]

theorem Keeps.installKey (hK : Keeps s₀ s) {node : Nat} {okm : Bytes} : Keeps s₀ (s.installKey node okm) := by
  unfold State.installKey
  dsimp only
  refine Keeps.foldl ?_ (fun _ _ h => h.pump)
  refine Keeps.foldl ?_ (fun _ _ h => h.resend)
  refine ⟨hK.pending, fun k => ?_, hK.canonical⟩
  obtain ⟨a, b, c, d, e, g, x⟩ := hK.shape k
  exact ⟨a, b, c, d, e, (rekeyed_length (g := fun p => { p with rxPackets := p.rxPackets.filter (fun y => !y.2.any (fun f => f.src.toNat == node)) })).trans ((Nat.zero_add _).trans g), x⟩

theorem Keeps.linkEvent (hK : Keeps s₀ s) {p : Nat} {code : Nat} {sev : Nat} {payload : Nat} : Keeps s₀ (s.linkEvent p code
    sev payload) := by
  unfold State.linkEvent
  repeat' first
    | with_reducible assumption | with_reducible apply Keeps.eventModule

theorem Keeps.sendRaw (hK : Keeps s₀ s) {p : Nat} {fl : List Flit} : Keeps s₀ (s.sendRaw p fl) := by
  unfold State.sendRaw
  repeat' first
    | with_reducible assumption | with_reducible apply Keeps.modPort

theorem Keeps.portDown (hK : Keeps s₀ s) {p : Nat} {reason : Nat} : Keeps s₀ (s.portDown p reason) := by
  unfold State.portDown
  repeat' first
    | with_reducible assumption | with_reducible apply Keeps.modPort | with_reducible apply Keeps.modPwr
    | with_reducible apply Keeps.linkEvent | exact fun _ h => h | split

theorem Keeps.portGoesUp (hK : Keeps s₀ s) {p : Nat} : Keeps s₀ (s.portGoesUp p) := by
  unfold State.portGoesUp
  repeat' first
    | with_reducible assumption | with_reducible apply Keeps.modPort | with_reducible apply Keeps.modWnd
    | with_reducible apply Keeps.modLnk | with_reducible apply Keeps.pump | with_reducible apply Keeps.resend
    | with_reducible apply Keeps.linkEvent | (with_reducible refine Keeps.foldl ?_ ?_) | (intro _)

theorem Keeps.protoError (hK : Keeps s₀ s) {p : Nat} : Keeps s₀ (s.protoError p) := by
  unfold State.protoError
  repeat' first
    | with_reducible assumption | with_reducible apply Keeps.modPort

theorem Keeps.packetDone (hK : Keeps s₀ s) {port : Nat} {fl : List Flit} : Keeps s₀ (s.packetDone port fl) := by
  unfold State.packetDone
  dsimp only
  repeat' first
    | with_reducible assumption | with_reducible apply Keeps.modLnk | with_reducible apply Keeps.protoError
    | exact fun _ h => h | split

theorem Keeps.assemble (hK : Keeps s₀ s) {port : Nat} {f : Flit} : Keeps s₀ (s.assemble port f) := by
  unfold State.assemble
  dsimp only
  repeat' first
    | with_reducible assumption | with_reducible apply Keeps.modPort | with_reducible apply Keeps.protoError
    | with_reducible apply Keeps.packetDone | split

theorem Keeps.openFlit (hK : Keeps s₀ s) {port : Nat} {f : Flit} : Keeps s₀ (s.openFlit port f) := by
  unfold State.openFlit
  dsimp only
  repeat' first
    | with_reducible assumption | with_reducible apply Keeps.modLnk | with_reducible apply Keeps.linkEvent
    | with_reducible apply Keeps.assemble | exact fun _ h => h | split

theorem Keeps.dataFlit (hK : Keeps s₀ s) {port : Nat} {f : Flit} : Keeps s₀ (s.dataFlit port f) := by
  unfold State.dataFlit
  dsimp only
  repeat' first
    | with_reducible assumption | with_reducible apply Keeps.modPort | with_reducible apply Keeps.pump
    | with_reducible apply Keeps.openFlit | split

theorem Keeps.takePacket (hK : Keeps s₀ s) {p : Packet} {m : BitVec 8} {t : State} (e : s.takePacket p m = some t) : Keeps s₀ t := by
  unfold State.takePacket at e
  split at e
  · cases e
    exact hK.modLnk (fun _ h => h)
  · cases e

theorem Keeps.ackData (hK : Keeps s₀ s) {p : Packet} : Keeps s₀ (s.ackData p) := by
  unfold State.ackData
  repeat' first
    | with_reducible assumption | with_reducible apply Keeps.modLnk | with_reducible apply Keeps.answer | exact fun _ h => h
    | split

theorem Keeps.busyData (hK : Keeps s₀ s) {p : Packet} : Keeps s₀ (s.busyData p) := by
  unfold State.busyData
  repeat' first
    | with_reducible assumption | with_reducible apply Keeps.modLnk | with_reducible apply Keeps.answer | exact fun _ h => h
    | split

theorem Keeps.unmatched (hK : Keeps s₀ s) : Keeps s₀ (s.unmatched) := by
  unfold State.unmatched
  repeat' first
    | with_reducible assumption | with_reducible apply Keeps.modLnk | exact fun _ h => h

theorem Keeps.notArmed (hK : Keeps s₀ s) {p : Packet} : Keeps s₀ (s.notArmed p) := by
  unfold State.notArmed
  repeat' first
    | with_reducible assumption | with_reducible apply Keeps.modLnk | with_reducible apply Keeps.busyData
    | with_reducible apply Keeps.unmatched | exact fun _ h => h | split

theorem Keeps.takeTerms (hK : Keeps s₀ s) {i : Nat} {term : Nat} {p : Packet} {upset : TippleCheck} : Keeps s₀ (s.takeTerms i
    term p upset) := by
  unfold State.takeTerms
  dsimp only
  repeat' first
    | with_reducible assumption | with_reducible apply Keeps.modMem | with_reducible apply Keeps.moduleFatal
    | with_reducible apply Keeps.contribute | with_reducible apply Keeps.offerLocal | with_reducible apply Keeps.ackData
    | with_reducible apply Keeps.busyData | (intro _) | (with_reducible refine Keeps.of_fst ?_ (by assumption)) | split

theorem Keeps.writeWindow (hK : Keeps s₀ s) {c : Coll} {p : Packet} : Keeps s₀ (s.writeWindow c p) := by
  unfold State.writeWindow
  dsimp only
  repeat' first
    | with_reducible assumption | with_reducible apply Keeps.dramPoison | with_reducible apply Keeps.writePieces
    | with_reducible apply Keeps.touchWalks | (with_reducible refine Keeps.foldl ?_ ?_) | (intro _) | split | (intro _)

theorem Keeps.sendSignal (hK : Keeps s₀ s) {i : Nat} {p : Packet} : Keeps s₀ (s.sendSignal i p).1 := by
  unfold State.sendSignal
  dsimp only
  repeat' first
    | with_reducible assumption | with_reducible apply Keeps.eventPart | with_reducible apply Keeps.modColl
    | with_reducible apply Keeps.linkSignal | (with_reducible refine Keeps.of_fst ?_ (by assumption)) | split

theorem Keeps.timeOffset (hK : Keeps s₀ s) {i : Nat} {t2 : BitVec 64} {t3 : BitVec 64} : Keeps s₀ (s.timeOffset i t2 t3) := by
  unfold State.timeOffset
  dsimp only
  repeat' first
    | with_reducible assumption | with_reducible apply Keeps.modTime | with_reducible apply Keeps.draw
    | with_reducible apply Keeps.trace | split

theorem Keeps.armColl (hK : Keeps s₀ s) {a : ArmReq} {d : CollDesc} {ns : List (Nat × Nat)} {bs : List Bytes} : Keeps s₀
    (s.armColl a d ns bs) := by
  unfold State.armColl
  dsimp only
  repeat' first
    | with_reducible assumption | with_reducible apply Keeps.modLnk | with_reducible apply Keeps.modColl
    | with_reducible apply Keeps.openBucket | (with_reducible refine Keeps.foldl ?_ ?_) | (intro _) | split

theorem Keeps.giveUpTile (hK : Keeps s₀ s) {i : Nat} {b : Nat} {t : Nat} : Keeps s₀ (s.giveUpTile i b t) := by
  unfold State.giveUpTile
  dsimp only
  repeat' first
    | with_reducible assumption | with_reducible apply Keeps.draw | with_reducible apply Keeps.eventPart
    | with_reducible apply Keeps.modBucket | with_reducible apply Keeps.pinLine | with_reducible apply Keeps.sendFinished
    | with_reducible apply Keeps.wakePart | (with_reducible refine Keeps.foldl ?_ ?_) | (intro _) | split

theorem Keeps.dropPackets (hK : Keeps s₀ s) {gone : TxPacket → Bool} {also : Packet → Bool} : Keeps s₀ (s.dropPackets gone also) := by
  unfold State.dropPackets
  dsimp only
  with_reducible apply Keeps.modLnk hK
  intro l h
  simpa using h

theorem Keeps.slotWaits (hK : Keeps s₀ s) {who : Requester} {id : Nat} {w : Bool} : Keeps s₀ (s.slotWaits who id w) := by
  unfold State.slotWaits
  repeat' first
    | with_reducible assumption | with_reducible apply Keeps.modCore | exact fun _ h => h | split

theorem Keeps.enqueue (hK : Keeps s₀ s) {a : Access} : Keeps s₀ (s.enqueue a) := by
  unfold State.enqueue
  repeat' first
    | with_reducible assumption | with_reducible apply Keeps.modMem | with_reducible apply Keeps.modBank | exact fun _ h => h

theorem Keeps.arrive (hK : Keeps s₀ s) {a : Access} : Keeps s₀ (s.arrive a) := by
  unfold State.arrive
  dsimp only
  repeat' first
    | with_reducible assumption | with_reducible apply Keeps.modMem | with_reducible apply Keeps.mscHit
    | with_reducible apply Keeps.modBank | with_reducible apply Keeps.slotWaits | with_reducible apply Keeps.enqueue
    | exact fun _ h => h | split

theorem Keeps.arriveReserved (hK : Keeps s₀ s) {a : Access} {ch : Nat} {b : Nat} : Keeps s₀ (s.arriveReserved a ch b) := by
  unfold State.arriveReserved
  dsimp only
  repeat' first
    | with_reducible assumption | with_reducible apply Keeps.mscHit | with_reducible apply Keeps.modBank
    | with_reducible apply Keeps.enqueue | split

theorem Keeps.lineErrors (hK : Keeps s₀ s) {block : Nat} {errors : List (Fin 8)} : Keeps s₀ (s.lineErrors block errors) := by
  unfold State.lineErrors
  repeat' first
    | with_reducible assumption | with_reducible apply Keeps.modMem | (intro _) | (intro _)

theorem Keeps.scrubEffect (hK : Keeps s₀ s) {at_ : Nat} : Keeps s₀ (s.scrubEffect at_) := by
  unfold State.scrubEffect
  dsimp only
  repeat' first
    | with_reducible assumption | with_reducible apply Keeps.modMem | with_reducible apply Keeps.askRetire
    | with_reducible apply Keeps.readBlock | exact fun _ h => h | split

theorem Keeps.takeWake (hK : Keeps s₀ s) {who : Requester} {channel : Nat} {bank : Nat} : Keeps s₀ (s.takeWake who channel
    bank) := by
  unfold State.takeWake
  dsimp only
  repeat' first
    | with_reducible assumption | with_reducible apply Keeps.modBank | with_reducible apply Keeps.slotWaits
    | with_reducible apply Keeps.arriveReserved | split

theorem Keeps.copyPage (hK : Keeps s₀ s) {page k : Nat} : Keeps s₀ (s.copyPage page k) := by
  unfold State.copyPage
  with_reducible apply Keeps.modMem hK
  intro m h
  generalize List.range 2048 = l
  induction l generalizing m with
  | nil => exact h
  | cons a l ih => exact ih _ h

theorem Keeps.respond (hK : Keeps s₀ s) {m : Mbox} {status : Nat} {detail : Nat} {body : Bytes} : Keeps s₀ (s.respond m status
    detail body) := by
  unfold State.respond
  repeat' first
    | with_reducible assumption | with_reducible apply Keeps.modFn | with_reducible apply Keeps.modSec
    | with_reducible apply Keeps.hostWrite | with_reducible apply Keeps.eventFn | (intro _) | split
    | (with_reducible refine Mem1.wf_write _ _ _ _ ?_)

theorem Keeps.dequeue (hK : Keeps s₀ s) {m : Mbox} : Keeps s₀ (s.dequeue m) := by
  unfold State.dequeue
  repeat' first
    | with_reducible assumption | with_reducible apply Keeps.modSec | (intro _) | (intro _)

theorem Keeps.handle (hK : Keeps s₀ s) {ok : Bytes → Bool} {h : State → Mbox → SecReply} (hh : ∀ t m, Keeps s₀ t → Keeps s₀ (h t m).s) :
    Keeps s₀ (s.handle ok h) := by
  unfold State.handle
  split
  · exact hK
  · dsimp only
    repeat' first | with_reducible assumption | with_reducible apply Keeps.respond | with_reducible apply Keeps.dequeue | with_reducible apply hh | split

theorem Keeps.stopMover (hK : Keeps s₀ s) {p : Nat} : Keeps s₀ (s.stopMover p) := by
  unfold State.stopMover
  repeat' first
    | with_reducible assumption | with_reducible apply Keeps.respond | with_reducible apply Keeps.dequeue
    | (with_reducible refine Keeps.foldl ?_ ?_) | (intro _) | (intro _)

theorem Keeps.resetPartition (hK : Keeps s₀ s) {p : Nat} {entry : Bytes} : Keeps s₀ (s.resetPartition p entry) := by
  unfold State.resetPartition
  repeat' first
    | with_reducible assumption | with_reducible apply Keeps.partitionReset | with_reducible apply Keeps.stopMover

theorem Keeps.getIdentity (hK : Keeps s₀ s) {m : Mbox} : Keeps s₀ (s.getIdentity m).s := by
  unfold State.getIdentity
  repeat' first
    | with_reducible assumption | split

theorem Keeps.attest (hK : Keeps s₀ s) {m : Mbox} : Keeps s₀ (s.attest m).s := by
  unfold State.attest
  dsimp only
  repeat' first
    | with_reducible assumption | split

theorem Keeps.random (hK : Keeps s₀ s) {n : Nat} : Keeps s₀ (s.random n).1 := by
  unfold State.random
  repeat' first
    | with_reducible assumption | with_reducible apply Keeps.draw

theorem Keeps.getChallenge (hK : Keeps s₀ s) {m : Mbox} : Keeps s₀ (s.getChallenge m).s := by
  unfold State.getChallenge
  repeat' first
    | with_reducible assumption | with_reducible apply Keeps.modSec | with_reducible apply Keeps.random | exact fun _ h => h
    | split

theorem Keeps.enrol (hK : Keeps s₀ s) {m : Mbox} : Keeps s₀ (s.enrol m).s := by
  unfold State.enrol
  dsimp only
  repeat' first
    | with_reducible assumption | with_reducible apply Keeps.flashWrite | split

theorem Keeps.ownerChecks (hK : Keeps s₀ s) {m : Mbox} : Keeps s₀ (s.ownerChecks m).1 := by
  unfold State.ownerChecks
  dsimp only
  repeat' first
    | with_reducible assumption | with_reducible apply Keeps.modSec | exact fun _ h => h | split

theorem Keeps.release (hK : Keeps s₀ s) {m : Mbox} : Keeps s₀ (s.release m).s := by
  unfold State.release
  repeat' first
    | with_reducible assumption | with_reducible apply Keeps.modSec | with_reducible apply Keeps.flashErase
    | with_reducible apply Keeps.resetPartition | with_reducible apply Keeps.ownerChecks
    | (with_reducible refine Keeps.foldl ?_ ?_) | (intro _) | (with_reducible refine Keeps.of_fst ?_ (by assumption)) | split

theorem Keeps.ownerCommand (hK : Keeps s₀ s) {m : Mbox} : Keeps s₀ (s.ownerCommand m).s := by
  unfold State.ownerCommand
  dsimp only
  repeat' first
    | with_reducible assumption | with_reducible apply Keeps.endSession | with_reducible apply Keeps.resetPartition
    | with_reducible apply Keeps.ownerChecks | (with_reducible refine Keeps.of_fst ?_ (by assumption)) | split

theorem Keeps.policySet (hK : Keeps s₀ s) {m : Mbox} : Keeps s₀ (s.policySet m).s := by
  unfold State.policySet
  dsimp only
  repeat' first
    | with_reducible assumption | with_reducible apply Keeps.modSec | with_reducible apply Keeps.eventModule
    | with_reducible apply Keeps.resetPartition | (with_reducible refine Keeps.foldl ?_ ?_) | (intro _) | split

theorem Keeps.hello (hK : Keeps s₀ s) {m : Mbox} : Keeps s₀ (s.hello m).s := by
  unfold State.hello
  repeat' first
    | with_reducible assumption | with_reducible apply Keeps.modPart | with_reducible apply Keeps.modSec
    | with_reducible apply Keeps.draw | with_reducible apply Keeps.random | exact fun _ h => h | split

theorem Keeps.confirm (hK : Keeps s₀ s) {m : Mbox} : Keeps s₀ (s.confirm m).s := by
  unfold State.confirm
  dsimp only
  repeat' first
    | with_reducible assumption | with_reducible apply Keeps.modPart | with_reducible apply Keeps.endSession | split

theorem Keeps.tenantCommand (hK : Keeps s₀ s) {m : Mbox} : Keeps s₀ (s.tenantCommand m).s := by
  unfold State.tenantCommand
  dsimp only
  repeat' first
    | with_reducible assumption | (refine Keeps.openEnvelope ?_ (by assumption)) | with_reducible apply Keeps.endSession
    | with_reducible apply Keeps.resetPartition | split

theorem Keeps.importOne (hK : Keeps s₀ s) {p : Nat} {plain : Bool} {i : Nat} {read : HostRead} : Keeps s₀ (s.importOne p plain
    i read).1 := by
  unfold State.importOne
  repeat' first
    | with_reducible assumption | (refine Keeps.openEnvelope ?_ (by assumption)) | split

theorem Keeps.importAll (hK : Keeps s₀ s) {p : Nat} {plain : Bool} {i va : Nat} {l : List HostRead} : Keeps s₀ (s.importAll p plain i va l).1 := by
  induction l generalizing s i va with
  | nil => exact hK
  | cons r rs ih =>
    unfold State.importAll
    have k := hK.importOne (p := p) (plain := plain) (i := i) (read := r)
    split
    · exact Keeps.of_fst k (by assumption)
    · have k2 := Keeps.of_fst k (by assumption)
      split
      · exact ih k2.touchWalks.writePieces
      · exact k2

theorem Keeps.importReq (hK : Keeps s₀ s) {reads : List HostRead} {m : Mbox} : Keeps s₀ (s.importReq reads m).s := by
  unfold State.importReq
  dsimp only
  repeat' first
    | with_reducible assumption | with_reducible apply Keeps.importAll | split

theorem Keeps.exportAll (hK : Keeps s₀ s) {p : Nat} {kf : Nat × Nat} {chunk fuel i va left host : Nat} :
    Keeps s₀ (State.exportAll s p kf chunk fuel i va left host).1 := by
  induction fuel generalizing s i va left host with
  | zero => exact hK
  | succ n ih =>
    unfold State.exportAll
    dsimp only
    split
    · exact hK
    · split
      · split
        · exact hK.touchWalks.touchPieces
        · exact ih hK.touchWalks.touchPieces.modPart.hostWrite
      · exact hK

theorem Keeps.exportReq (hK : Keeps s₀ s) {m : Mbox} : Keeps s₀ (s.exportReq m).s := by
  unfold State.exportReq
  dsimp only
  repeat' first
    | with_reducible assumption | with_reducible apply Keeps.exportAll | split

theorem Keeps.linkOffer (hK : Keeps s₀ s) {m : Mbox} : Keeps s₀ (s.linkOffer m).s := by
  unfold State.linkOffer
  dsimp only
  repeat' first
    | with_reducible assumption | with_reducible apply Keeps.modLnk | with_reducible apply Keeps.draw
    | with_reducible apply Keeps.random | exact fun _ h => h | split

theorem Keeps.linkAccept (hK : Keeps s₀ s) {m : Mbox} : Keeps s₀ (s.linkAccept m).s := by
  unfold State.linkAccept
  dsimp only
  repeat' first
    | with_reducible assumption | with_reducible apply Keeps.draw | with_reducible apply Keeps.installKey
    | with_reducible apply Keeps.random | split

theorem Keeps.linkFinish (hK : Keeps s₀ s) {m : Mbox} : Keeps s₀ (s.linkFinish m).s := by
  unfold State.linkFinish
  dsimp only
  repeat' first
    | with_reducible assumption | with_reducible apply Keeps.modLnk | with_reducible apply Keeps.installKey
    | exact fun _ h => h | split

theorem Keeps.blockWrite (hK : Keeps s₀ s) {pec : Option Bool} {f : State → State × Nat} (hf : Keeps s₀ (f s).1) : Keeps s₀ (s.blockWrite pec f) := by
  unfold State.blockWrite
  split
  · exact hK
  · dsimp only
    with_reducible apply Keeps.modMgt
    split
    · exact hK
    · exact hf

theorem Keeps.processCall (hK : Keeps s₀ s) {code : Nat} {bytes : Bytes} {pec : Option Bool} {f : State → State × Nat × Bytes} (hf : Keeps s₀ (f s).1) : Keeps s₀ (s.processCall code bytes pec f) := by
  unfold State.processCall
  split
  · exact hK
  · dsimp only
    with_reducible apply Keeps.modMgt
    split
    · exact hK
    · exact hf

theorem Keeps.advance (hK : Keeps s₀ s) {n : Nat} : Keeps s₀ (s.advance n) := by
  unfold State.advance
  repeat' first
    | with_reducible assumption | with_reducible apply Keeps.modMgt

theorem Keeps.outStage (hK : Keeps s₀ s) {n : Nat} {x : QCmd} {e : Effect} {key : List Nat} {data : Bytes} : Keeps s₀
    (s.outStage n x e key data) := by
  unfold State.outStage
  repeat' first
    | with_reducible assumption | with_reducible apply Keeps.modCoreAt | with_reducible apply Keeps.endRun
    | with_reducible apply Keeps.finishCmd | with_reducible apply some_wf_stage | with_reducible apply inl_wf_gatePass
    | (with_reducible refine InlWf.wf ?_ (by assumption)) | (with_reducible refine SomeWf.wf ?_ (by assumption)) | (intro _)
    | split | (intro _)

theorem Keeps.outCopy (hK : Keeps s₀ s) {n : Nat} {x : QCmd} {e : Bytes → Effect} {key : List Nat} : Keeps s₀ (s.outCopy n x e
    key) := by
  unfold State.outCopy
  dsimp only
  repeat' first
    | with_reducible apply Keeps.modCore | with_reducible apply Keeps.endRun | with_reducible apply Keeps.engineReads
    | with_reducible apply Keeps.outStage | (intro _) | (with_reducible refine Keeps.of_fst ?_ (by assumption)) | split
    | assumption

theorem Keeps.out (hK : Keeps s₀ s) {n : Nat} {mine ok : Bytes → Bool} {copies : Bool} {body : State → QCmd → State}
    (hb : ∀ t x, Keeps s₀ t → Keeps s₀ (body t x)) : Keeps s₀ (s.out n mine ok copies body) := by
  unfold State.out
  refine hK.engine (fun t x h => ?_)
  repeat' first | with_reducible assumption | with_reducible apply Keeps.engineRaise | with_reducible apply hb | split

theorem Keeps.traceWriteOne (hK : Keeps s₀ s) {p : Nat} {t : State} (e : s.traceWriteOne p = .inl t) : Keeps s₀ t := by
  unfold State.traceWriteOne at e
  dsimp only at e
  split at e
  · cases e; exact hK
  · split at e
    · cases e; exact hK.modPart
    · split at e
      · cases e
        exact hK.touchWalks.touchWalks.writePieces.writePieces.modPart
      · cases e

theorem Keeps.traceWrite (hK : Keeps s₀ s) {p n : Nat} : Keeps s₀ (State.traceWrite p n s) := by
  induction n generalizing s with
  | zero => exact hK
  | succ n ih =>
    unfold State.traceWrite
    split
    · exact hK
    · split
      · exact ih (hK.traceWriteOne (by assumption))
      · exact hK

theorem Keeps.noteVerdict (hK : Keeps s₀ s) {n : Nat} {v : Nat} : Keeps s₀ (s.noteVerdict n v) := by
  unfold State.noteVerdict
  repeat' first
    | with_reducible assumption | with_reducible apply Keeps.modCore | with_reducible apply Keeps.eventModule
    | exact fun _ h => h | split

theorem Keeps.stageTask (hK : Keeps s₀ s) {ser : Nat} {t : Nat} : Keeps s₀ (s.stageTask ser t) := by
  unfold State.stageTask
  repeat' first
    | with_reducible assumption | with_reducible apply Keeps.modTask | with_reducible apply Keeps.stageRunning
    | with_reducible apply Keeps.settleJob

theorem Keeps.judgeRepeat (hK : Keeps s₀ s) {n : Nat} {e : RunEnd} : Keeps s₀ (s.judgeRepeat n e) := by
  unfold State.judgeRepeat
  dsimp only
  repeat' first
    | with_reducible assumption | with_reducible apply Keeps.closeRun | with_reducible apply Keeps.settleJob
    | with_reducible apply Keeps.fenceCore | with_reducible apply Keeps.noteVerdict | with_reducible apply Keeps.stageTask
    | split

theorem Keeps.judgeBound (hK : Keeps s₀ s) {n : Nat} {e : RunEnd} : Keeps s₀ (s.judgeBound n e) := by
  unfold State.judgeBound
  repeat' first
    | with_reducible assumption | with_reducible apply Keeps.modCore | with_reducible apply Keeps.modTask
    | with_reducible apply Keeps.clusterStop | with_reducible apply Keeps.closeRunKeep | with_reducible apply Keeps.closeRun
    | with_reducible apply Keeps.failTask | with_reducible apply Keeps.applyCause | with_reducible apply Keeps.hwReplay
    | with_reducible apply Keeps.fenceCore | with_reducible apply Keeps.noteVerdict | with_reducible apply Keeps.stageTask
    | exact fun _ h => h | split

theorem Keeps.pairError (hK : Keeps s₀ s) {ser : Nat} {t : Nat} {part : Nat} {n : Nat} {e : RunEnd} : Keeps s₀ (s.pairError
    ser t part n e) := by
  unfold State.pairError
  repeat' first
    | with_reducible assumption | with_reducible apply Keeps.startRun | with_reducible apply Keeps.hwNoted | split

theorem Keeps.arbitrate (hK : Keeps s₀ s) {job : Nat} {task : Nat} {n : Nat} {p : Pair} {crc : BitVec 64} : Keeps s₀
    (s.arbitrate job task n p crc) := by
  unfold State.arbitrate
  dsimp only
  repeat' first
    | with_reducible assumption | with_reducible apply Keeps.modCore | with_reducible apply Keeps.modTask
    | with_reducible apply Keeps.eventJob | with_reducible apply Keeps.closeRun | with_reducible apply Keeps.replayTask
    | with_reducible apply Keeps.settleJob | with_reducible apply Keeps.startRun | with_reducible apply Keeps.stageTask
    | exact fun _ h => h | split

theorem Keeps.loseRun (hK : Keeps s₀ s) {n : Nat} : Keeps s₀ (s.loseRun n) := by
  unfold State.loseRun
  dsimp only
  repeat' first
    | with_reducible assumption | with_reducible apply Keeps.modCore | with_reducible apply Keeps.clusterStop
    | with_reducible apply Keeps.closeRunKeep | with_reducible apply Keeps.hwReplay | with_reducible apply Keeps.hardwareError
    | exact fun _ h => h | split

theorem sp_wf_hold {c : Core} {h : Held} (hwf : Mem1.wf ramD c.sp = true) : Mem1.wf ramD (Core.hold c h).sp = true := by
  unfold Core.hold
  with_reducible assumption

theorem Keeps.residentEnd (hK : Keeps s₀ s) {n : Nat} {b : Bytes} {v : VAcc} : Keeps s₀ (s.residentEnd n b v) := by
  unfold State.residentEnd
  repeat' first
    | with_reducible assumption | with_reducible apply Keeps.vectorEnd

theorem Keeps.resident (hK : Keeps s₀ s) {n op : Nat} {clash : Option Clash} {ok : State → Core → Pillar → Bytes → Bool}
    {cause : Pillar → Bytes → Option Cause} {ranges : Bytes → List (Nat × Nat)} {body : State → Pillar → QCmd → State}
    (hb : ∀ t p x, Keeps s₀ t → Keeps s₀ (body t p x)) : Keeps s₀ (s.resident n op clash ok cause ranges body) := by
  unfold State.resident
  refine hK.engine (fun t x h => ?_)
  dsimp only
  repeat' first | with_reducible assumption | with_reducible apply Keeps.engineRaise | with_reducible apply Keeps.endRun | with_reducible apply hb | with_reducible apply Keeps.engineReads | (with_reducible refine Keeps.of_fst ?_ (by assumption)) | split

theorem sp_wf_markBuilding {c : Core} {p : Pillar} {v : Nat} (hwf : Mem1.wf ramD c.sp = true) : Mem1.wf ramD (Core.markBuilding
    c p v).sp = true := by
  unfold Core.markBuilding
  repeat' first
    | with_reducible assumption | with_reducible apply sp_wf_modPillar | split

theorem sp_wf_countPut {c : Core} {spills : Nat} {recomputes : Nat} (hwf : Mem1.wf ramD c.sp = true) : Mem1.wf ramD
    (Core.countPut c spills recomputes).sp = true := by
  unfold Core.countPut
  with_reducible assumption

theorem Keeps.stashSpill (hK : Keeps s₀ s) {n : Nat} {p : Pillar} {b : Bytes} {j : Nat} {key : Nat} {src : Nat} {len : Nat} :
    Keeps s₀ (s.stashSpill n p b j key src len) := by
  unfold State.stashSpill
  dsimp only
  repeat' first
    | with_reducible assumption | with_reducible apply Keeps.modCoreAt | with_reducible apply Keeps.xlateRange
    | with_reducible apply Keeps.endRun | with_reducible apply Keeps.engineReads | with_reducible apply Keeps.residentEnd
    | with_reducible apply some_wf_stage | with_reducible apply sp_wf_hold | with_reducible apply sp_wf_countPut
    | (with_reducible refine SomeWf.wf ?_ (by assumption)) | (intro _) | (with_reducible refine Keeps.of_fst ?_ (by assumption))
    | split | (intro _)

end Sys2Proof.Machine
end

