-- ==== Sys2Proof/WellFormed.lean ====
section
/-! DEFINITION. Which commands are well formed: operands that name something the LX-960 has, in the lengths the spec
gives. The meanings do not need it (a command that names nothing has no effect, log 4). -/

namespace Sys2Proof

/-- A logical core number (R20): 192 of them. -/
def coreOk (n : Nat) : Bool := decide (n < 192)

/-- A Drift stream of a core (R329): at most 8. -/
def streamOk (n : Nat) : Bool := decide (n < 8)

/-- A request slot of a core (R356): 48 of them. -/
def slotOk (n : Nat) : Bool := decide (n < 48)

/-- A partition number (R104): 8 of them. -/
def partOk : Option Nat → Bool
  | none => true
  | some p => decide (p < 8)

/-- A requester: a logical core, or an edge agent by number (R18, R358). -/
def requesterOk : Requester → Bool
  | .core n => coreOk n
  | .agent _ => true

/-- A wide clash (R313, R316): two offsets in the scratchpad's 6 MiB window. -/
def clashOk : Option Clash → Bool
  | none => true
  | some c => decide (c.hiOffset < 0x600000) && decide (c.loOffset < 0x600000)

/-- A block of the management interface carries at most 255 bytes (R566). -/
def blockOk (bs : Bytes) : Bool := decide (bs.length ≤ 255)

/-- A flit holds 224 bytes of payload and a tag of 16 bytes (R414). -/
def flitOk (f : Flit) : Bool := f.payload.length == 224 && f.tag.length == 16

/-- A packet names a port and holds lines of 64 values (R407, R416). -/
def packetOk (p : Packet) : Bool := decide (p.port < 6) && p.lines.all (fun l => l.length == 64)

/-- A register access is of 4 or 8 bytes at its own alignment (R107, R543). -/
def accessOk (offset size : Nat) : Bool := (size == 4 || size == 8) && offset % size == 0

/-- A doorbell page has 64 bytes (R114, R116). -/
def pageOk : HostRead → Bool
  | .ok bs => bs.length == 64
  | _ => true

/-- A host read that answers holds bytes; every other way of ending is well formed (R120). -/
def hostReadOk : HostRead → Bool
  | .ok bs => decide (bs.length ≤ 2 ^ 32)
  | _ => true

/-- Well-formed commands. -/
def Instr.wellFormed : Instr → Bool
  | .registerWrite _ off size _ => accessOk off size
  | .barReadInvalid _ _ _ size => decide (size ≤ 4096)
  | .doorbellReadComplete _ r => pageOk r
  | .submissionFetchComplete _ _ r | .descriptorReadComplete _ r => hostReadOk r
  | .mailboxGo _ _ r => hostReadOk r
  | .importData rs => rs.all hostReadOk
  | .coreSelfTest failed => failed.all coreOk
  | .taskPlace n | .coreClearComplete n | .commitRequest n | .deliveryWritesAcked n | .deliveryComplete n => coreOk n
  | .runLimitExpiry n | .shareCharge n => coreOk n
  | .alu n _ | .addi n _ | .andi n _ | .ori n _ | .xori n _ | .shi n _ => coreOk n
  | .movz n _ | .movn n _ | .movk n _ _ | .cmp n _ | .cmpi n _ | .plog n _ | .pmov n _ => coreOk n
  | .ldn n _ | .stn n _ | .ldv n _ | .br n _ | .bl n _ | .jr n _ | .jlr n _ => coreOk n
  | .issue n _ | .qwait n _ | .fence n _ | .crr n _ | .wbeat n _ => coreOk n
  | .waitFilled n _ | .waitFree n _ | .fill n _ | .drain n _ | .tallyRead n _ | .signalRemote n _ => coreOk n
  | .tend n _ | .pval n _ | .trap n _ => coreOk n
  | .dramWrite n | .send n | .arm n | .barrierArrive n => coreOk n
  | .mxLoad n c | .mxStream n c | .mxDrain n c => coreOk n && clashOk c
  | .vxMap n c | .vxReduce n c | .vxNorm n c | .vxSoftmax n c | .vxConvert n c | .vxTrack n c => coreOk n && clashOk c
  | .vxAttnFwd n c | .vxAttnBwd n c | .vxKvPack n c | .atAttend n c => coreOk n && clashOk c
  | .define n | .release n | .publish n | .retire n | .stashFree n => coreOk n
  | .install n c | .optStep n c | .stashPut n c | .stashLookup n c => coreOk n && clashOk c
  | .drStream n | .drTally n | .drMode n | .fetchCredit n | .cacheFillComplete n _ | .narrowSteal n _ => coreOk n
  | .driftReadComplete n st c => coreOk n && streamOk st && clashOk c
  | .memoryAccess who slot part dpa _ =>
    requesterOk who && slotOk slot && partOk part && decide (dpa < 2 ^ 39)
  | .meshWake who _ _ => requesterOk who
  | .accessResponse n slot => coreOk n && slotOk slot
  | .translationWalk n _ _ => coreOk n
  | .handshake _ _ _ hash => hash.length == 64
  | .flitReceive _ f => flitOk f
  | .contrib p _ | .partialSum p _ => packetOk p
  | .result p | .sendReceive p | .barrierArriveReceive p | .barrierRelease p | .ack p | .busy p | .wake p => packetOk p
  | .linkEffectDropped n | .hwErrorReplay n _ _ | .repeatVerdict n => coreOk n
  | .residentAreaScrub turn => coreOk turn.core
  | .routerFailed _ _ _ waits => waits.all (fun x => coreOk x.1)
  | .setPointer bs _ | .mgmtWrite bs _ | .mgmtRead bs _ | .mboxPut bs _ | .mboxGo bs _ | .mboxGet bs _ => blockOk bs
  | .flashPut bs _ | .flashCommit bs _ | .flashRead bs _ | .fenceClear bs _ => blockOk bs
  | .inputLoss _ | .housekeepingStop _ | .standbyReturn _ | .powerUp _ | .railsInRegulation
  | .powerUpFailure _ _ | .powerDown | .moduleReset | .moduleResetRelease | .thermalWarning _ | .thermalTrip _
  | .thermtripRelease _ | .railFault _ _ | .surroundingsViolation _ _ | .hoursStep | .pmbusRead _ _
  | .clearFaults _ | .pmbusWriteIgnored _ _ | .alertResponse | .pllLock | .refclkTimeout | .romIdentity _
  | .imageVerify | .recordVerify | .dramTraining _ | .dramZeroing _ | .bootOpen | .hostLinkReset _
  | .hostLinkRelease _ | .configRequestRetry _ _ | .functionLevelReset _ _ | .d3hotEntry _ _ | .dataLinkDown _
  | .beatCount | .glitchReject | .cadenceLost | .synthesisedBeat | .doorbellFallbackPoll _ | .nop _ _
  | .submitJob _ _ | .abortJob _ _ | .entryInvalid _ _ | .jobEnterScoreboard _ | .clusterRestart _
  | .tallySignalDelivery _ | .xlatRetryExpiry _ _ | .msixHoldoffEnd _ _ _ | .dramBankServe _ _
  | .wakeReservationLapse _ _ | .scrubRead _ | .pageRetire | .linkLocalTest _ _ | .bypassOpened _
  | .linkTrain _ _ | .linkSecureDone _ _ _ _ | .linkLoss _ | .linkRetry _ | .armDelivery | .bucketOpen _ _
  | .lateRank _ _ _ | .bucketGiveUp _ _ | .bucketComplete _ _ | .permuteSignalRelease _ | .shadowPairEnd _ _
  | .shadowMiscompare _ _ | .meshFlitRetry _ _ | .routeAroundResume _ _ _ | .getIdentity | .attest
  | .getChallenge | .ownerEnrol | .ownerRelease | .policySet | .partitionReset | .endSession
  | .partitionZeroingDone _ | .sessionHello | .sessionConfirm | .tenantPartitionReset | .tenantEndSession
  | .exportData | .linkOffer | .linkAccept | .linkFinish | .mailboxReservedType | .ringEnable _ _ _
  | .doorbellEnable _ _ _ | .functionLock _ _ _ | .partitionLock _ _ _ | .moduleLock _ _ | .counterSample _ _ _
  | .adoptEnable _ _ | .traceEnable _ _ _ | .traceStopped _ | .traceBufferWrite _ | .freeze _ | .unfreeze _
  | .plogFlashWrite | .plogSectorErase | .flashCommitDone | .mgmtReservedCommand _ _ _
  | .turnOnThresholdRising _ | .pcieLinkTraining _ _ _ _ | .perBankRefresh _ _ _ | .sourceCadenceEdge => true

end Sys2Proof
end

