-- ==== Sys2Proof/Tests/Slice0.lean ====
section
/-! SUPPORT. Small tests. First an ill-formed command for every check of `WellFormed`, and values of the spec's own worked
examples; then, for every obligation with hypotheses, a witness: concrete states and operands that meet the hypotheses of each
of its clauses together. -/

open Sys2Proof Sys2Proof.Machine

set_option Elab.async false
set_option linter.unusedVariables false
set_option linter.unusedTactic false
set_option linter.unreachableTactic false

namespace Sys2Proof.Tests

/-- The machine right after reset. -/
def rst : State := State.reset

/-- A state in a power phase. -/
def ph (p : Phase) : State := { rst with pwr := { rst.pwr with phase := p } }

/-- A state in which one boot stage is to be completed. -/
def bootAt (k : Nat) : State := { rst with pwr := { rst.pwr with phase := .boot, stage := k } }

/-- A running module with its timebase on. -/
def run : State :=
  { rst with
    pwr := { rst.pwr with phase := .running, stage := 8, pgood := true, pwrEn := true, pwrEnLowTicks := false, clocksRunning := true,
                          rails := List.replicate 8 { on := true, inRegulation := true } },
    links := rst.links.modify 0 (fun l => { l with perst := false, ltssm := .l0 }),
    time := { on := true } }

/-- A running module with another timebase. -/
def timed (t : TimeSt) : State := { run with time := t }

/-- A policy entry: VALID and PLAINTEXT, share 1, functions 0 and 1 of link 0, all ways, every core, DPA range 0 of one granule at
granule 1. -/
def pol : Bytes :=
  [5, 0, 1, 0, 3, 0, 0, 0, 0xFF, 0xFF, 16, 0] ++ leBytes 4 1000 ++ leBytes 2 2048 ++ List.replicate 6 0 ++ leBytes 8 1000
    ++ List.replicate 24 0xFF ++ List.replicate 8 0 ++ leBytes 2 1 ++ leBytes 2 1 ++ List.replicate 92 0

/-- A function with its three rings enabled. -/
def ringFn : Fn :=
  { sq := { en := true, base := 0x3000, size := 16 }, cq := { en := true, base := 0x1000, size := 16 },
    eq := { en := true, base := 0x2000, size := 16 } }

/-- A running module with partition 0 and the rings of its function 0. -/
def run0 : State := (run.modPart 0 (fun p => { p with valid := true, policy := pol, keySerial := some 1 })).modFn 0 0 (fun _ => ringFn)

/-- A task. -/
def task0 : TaskSt := { program := 0x10000, argAddr := 0x40, tag := 5, notBeforeMet := true }

/-- A live job of partition 0 with one task. -/
def job0 (t : TaskSt) : Job := { id := 7, phase := .live, tasks := [t], invalidated := true, startMet := true, userTag := 9 }

/-- A state with one job, of serial 0. -/
def holding (j : Job) (s : State) : State := s.modWnd (fun w => { w with jobs := [j], serials := [0], serial := 1 })

/-- A state with one core given. -/
def putCore (n : Nat) (c : Core) (s : State) : State := s.modCore n (fun _ => c)


/-- Function 0 of link 0 with one fetched submission entry. -/
def withEntry (e : Bytes) : State :=
  run0.modFn 0 0 (fun x => { x with sq := { x.sq with tail := 1 }, fetched := [{ bytes := e }] })

/-- A submission entry: OPCODE, FLAGS, JOB, descriptor address and length (R122). -/
def entry (op len : Nat) : Bytes := [BitVec.ofNat 8 op, 0, 0, 0, 7, 0, 0, 0] ++ leBytes 8 0x4000 ++ leBytes 4 len ++ List.replicate 44 0

/-- A job graph of one vector task (R141, R142). -/
def graph1 : Bytes :=
  leBytes 4 0x4C584A42 ++ [1, 0, 1, 0] ++ List.replicate 14 0 ++ [0, 1] ++ List.replicate 40 0
    ++ [0, 0, 0xFF, 0, 0xFF, 0xFF] ++ List.replicate 58 0

/-- A job whose descriptor of 128 bytes is being fetched. -/
def fetching : Job := { id := 7, descLen := 128 }

/-- A core that takes instructions at 0x40000, with a line of its program held and g1 to g4 given. -/
def exe (g1 g2 g3 : BitVec 64) : Core :=
  { phase := .executing, pc := 0x40000, icache := [0x400], g := [0, g1, g2, g3] ++ List.replicate 28 0, taskCount := 2 }

/-- That core as core 1 of the running module. -/
def atExe (c : Core) : State := putCore 1 c run0

/-- That core as core 1, running task 0 of job 0 in partition 0. -/
def atRun (c : Core) : State := putCore 1 c (holding (job0 { task0 with st := .running }) run0)

/-- A queued command: its first bytes, zeros after them, and the address of its ISSUE. -/
def cmd (n : Nat) (b : Bytes) : QCmd := { bytes := b ++ List.replicate (n - b.length) 0, pc := 0x40010 }

/-- A core that runs with one command at the head of queue `q`. -/
def inQ (q : Nat) (x : QCmd) : Core :=
  { exe 0 0 0 with queues := (List.replicate 5 ({} : EQueue)).set q { cmds := [x], issued := 1 } }

/-- A translation buffer entry of the first 64 KiB. -/
def tlb0 : TlbEntry := { part := 0, base := 0, size := 65536, dpa := 0x10000, w := true, x := true }

/-- DR_STREAM of one run of 512 bytes from 0x100 to scratchpad offset 0x400, in slots of 512 bytes (R324). -/
def stream0 : QCmd :=
  cmd 128 ([1, 0, 1, 0, 0, 2, 0, 0, 0, 4, 0, 0, 0, 0, 0, 0] ++ leBytes 8 0x100 ++ leBytes 4 512 ++ leBytes 4 1 ++ leBytes 8 0
    ++ leBytes 8 1 ++ leBytes 8 0 ++ leBytes 8 0x100 ++ leBytes 8 512)

/-- MX_LOAD of an e4m3 tile at 0x1000 into slot 1 (R227). -/
def load0 : QCmd := cmd 64 [1, 1, 1, 127, 0, 0, 0, 0, 0, 0x10, 0, 0, 0, 0, 0, 0]

/-- MX_STREAM of one row at 0x2000 on slot 0, one column, one line, no outputs (R228). -/
def streamMx : QCmd :=
  cmd 64 ([2, 0x20, 1, 127, 1, 6, 0, 0, 1, 0, 0, 0, 0, 0x20, 0, 0] ++ List.replicate 18 0 ++ [1, 0] ++ List.replicate 12 0
    ++ [1, 0, 0, 0, 0xFF, 0xFF, 0xFF, 0xFF])

/-- A loaded e4m3 tile whose first element is 1. -/
def tile1 : TileSlot := { loaded := true, fmt := 1, scale := 127, data := [0x38] }

/-- MX_DRAIN of line 2, then cleared (R232). -/
def drain0 : QCmd := cmd 64 [3, 1, 2, 0, 1, 0]

/-- That MX_STREAM against that tile. -/
def mxOp : StreamOp :=
  { transposed := false, sink := false, add := true, layout := 0, fmt := 1, scale := 127, cols := 1, outFmt := .binary32,
    outCode := 6, outScale := 0, rows := 1, inData := 0x2000, inScale := 0, inStride := 0, inRing := 0, inSlotRows := 0,
    inTally := 0, outTally := 0, accBase := 0, accLines := 1, outData := 0, outStride := 0, outRing := 0, outSlotRows := 1,
    status := 0xFFFFFFFF, lstride := 0, out2 := 0, pair := .eight, tileRows := 256, exp := 0 }

/-- A command of the common vector layout: one row of `cols` elements at 0x1000, no gates, no status (R275). -/
def vx (op fn fa fb fo cols c out imm aux : Nat) : QCmd :=
  cmd 64 (leBytes 1 op ++ leBytes 1 fn ++ leBytes 1 fa ++ [0] ++ leBytes 1 fb ++ [0] ++ leBytes 1 fo ++ List.replicate 5 0
    ++ leBytes 4 1 ++ leBytes 4 cols ++ leBytes 4 0x1000 ++ List.replicate 12 0 ++ leBytes 4 c ++ leBytes 4 0 ++ leBytes 4 out
    ++ leBytes 4 0 ++ leBytes 4 imm ++ leBytes 4 aux ++ leBytes 4 0xFFFFFFFF)

/-- VX_KV_PACK of one bf16 latent of 32 elements (R301). -/
def kvPack0 : QCmd := cmd 64 ([9, 5, 32, 0, 0, 0, 1, 0] ++ leBytes 4 0x1000 ++ leBytes 4 0 ++ leBytes 4 0x2000 ++ leBytes 4 0xFFFFFFFF)

/-- VX_TRACK of the record at 0x1000 and the observation at 0x1040 into 0x1080 (R283). -/
def track0 : QCmd := cmd 64 ([6, 0, 0, 0] ++ leBytes 4 0x1000 ++ leBytes 4 0x1040 ++ leBytes 4 0x1080)

/-- A fused attention command of one query and one key of width 16 (R293). -/
def attn0 (op gradO dq dk dval lse : Nat) : QCmd :=
  cmd 128 (leBytes 1 op ++ [0, 6, 0, 16, 0, 16, 0] ++ leBytes 4 0x3F800000 ++ leBytes 4 1 ++ leBytes 4 1 ++ leBytes 4 0x1000
    ++ leBytes 4 0x1100 ++ leBytes 4 0x1200 ++ leBytes 4 0x1300 ++ leBytes 4 lse ++ leBytes 4 gradO ++ leBytes 4 dq
    ++ leBytes 4 dk ++ leBytes 4 dval ++ List.replicate 20 0 ++ leBytes 4 0x10000 ++ leBytes 4 0xFFFFFFFF)

/-- AT_ATTEND of one head and one query on the handle at 0x100 (R303). -/
def attend0 : QCmd :=
  cmd 128 ([1, 0, 1, 1, 6, 0, 16, 0, 0, 0, 16, 0, 32, 0, 0, 0] ++ leBytes 4 0x3F800000 ++ leBytes 8 0x100 ++ leBytes 4 0x2000
    ++ leBytes 4 0 ++ leBytes 4 1024 ++ leBytes 4 0x3000 ++ List.replicate 20 0 ++ leBytes 4 0xFFFFFFFF)

/-- The sequence without tokens that its root gives (R297, R298). -/
def seq0 : Sequence := { root := 0x1000, gen := 1, tokens := 0, fmt := 5, latent := 32, p := 0, pgroups := 1 }

/-- DRAM with that root and its handle. -/
def seqDram : Memory :=
  Mem1.write ramD (Mem1.write ramD [] 0x10000100 (leBytes 8 0x1000 ++ leBytes 4 1 ++ leBytes 4 0)) 0x10001000
    (leBytes 4 0x4C584B56 ++ leBytes 4 1 ++ leBytes 2 32 ++ leBytes 2 0 ++ [5, 1])

/-- A pillar with two slots of 4,096 bytes and one stash entry of 256. -/
def pillar0 : Pillar := { part := 0, index := 3, base := 0, slotBytes := 4096, slots := [{}, {}], spEntries := 1, entryBytes := 256 }

/-- OPT_STEP of operation `op` on pillar 3, its operands from byte 16 on (R387). -/
def opt (op : Nat) (b : Bytes) : QCmd := cmd 128 ([0x10, BitVec.ofNat 8 op, 3, 0, 0, 0, 0, 0, 0xFF, 0xFF, 0xFF, 0xFF, 0, 0, 0, 0] ++ b)

/-- STEP of 32 weights in bf16 (R400). -/
def step0 : QCmd :=
  opt 4 (leBytes 4 32 ++ leBytes 4 1 ++ leBytes 8 0 ++ [5, 0, 0, 0] ++ leBytes 4 0x5000 ++ leBytes 4 0x5100 ++ leBytes 4 0x5200
    ++ leBytes 4 0x5240 ++ leBytes 4 0x5260 ++ leBytes 4 0x5280 ++ leBytes 4 0x5290 ++ leBytes 4 0x52A0)

/-- Core 1 with that pillar runs a learning task that may use its stash (R395). -/
def atPillar (c : Core) : State :=
  putCore 1 { c with pillars := [pillar0], resTop := 0x4000 }
    (holding (job0 { task0 with st := .running, cls := 1, affinity := 19, flags := 4, coreFix := 1 }) run0)

/-- Tables of partition 0 in its own DRAM: virtual addresses below 32 MiB lead to 0x12000000 (R363, R364). -/
def pageDram : Memory := Mem1.write ramD (Mem1.write ramD [] 0x10000000 (leBytes 8 0x1002000D)) 0x10020000 (leBytes 8 0x1200000F)

/-- A state in which those tables stand. -/
def paged (s : State) : State := s.modMem (fun m => { m with dram := pageDram })

/-- An access of core 1 to the block at 0x12000000, on channel 8 and bank 1 (R347). -/
def acc0 : Access := { who := .core 1, slot := 0, block := 0x120000, part := none, write := true }

/-- The running module with one bank given. -/
def banked (b : Bank) (s : State) : State := s.modMem (fun m => { m with banks := [(129, b)] })

/-- The running module with one port in a state. -/
def portIn (p : Nat) (st : PortState) : State := run.modPort p (fun x => { x with st := st })

/-- The running module with one collective and one arrived packet. -/
def collIn (c : Coll) (pkt : Packet) : State := run0.modLnk (fun l => { l with colls := [c], recvPend := [pkt] })

/-- A HOME collective of ranks 0 (node 7) and 1 (this module), with one bucket of two tiles of one line, in state `st`. -/
def coll0 (st : BucketState) : Coll :=
  { number := 1, desc := { kind := 1, topology := 3, ranks := 2, myRank := 1, key := 5, buckets := 1, parts := 1 },
    nodes := [(7, 1), (0, 0)], buckets := [{ st := st, lines := 2, tileLines := 1, tiles := [{ lines := [{}] }, { lines := [{}] }] }] }

/-- A packet of that collective from node 7 with one line of ones for tile 1. -/
def pkt0 (m : BitVec 8) : Packet :=
  { port := 1, src := 7, vc := 3, msg := m, key := 5, tag := 1, tile := 1, lines := [List.replicate 64 0x3F800000#32] }

/-- A collective of another kind with ranks 0 and 1, at rank `r`, whose other rank is node 7. -/
def collOf (kind r : Nat) : Coll :=
  { number := 1, desc := { kind := kind, ranks := 2, myRank := r, key := 5, recvVa := 0x1000, recvBytes := 64 },
    nodes := if r = 0 then [(0, 0), (7, 1)] else [(7, 1), (0, 0)] }

/-- A collective with one bucket of one line and no tiles here. -/
def bucketColl (b : Bucket) : Coll :=
  { number := 1, desc := { kind := 1, topology := 3, ranks := 2, myRank := 1, key := 5, buckets := 1, parts := 1, giveUpBeats := 4,
                           recordVa := 0x100 }, nodes := [(7, 1), (0, 0)], buckets := [b] }

/-- A mailbox request of a type for a partition, with its whole length, asking for a response of up to `max` bytes at `addr` (R483). -/
def ask (ty part addr max : Nat) (body : Bytes) : Bytes :=
  leBytes 1 ty ++ [1] ++ leBytes 1 part ++ [0] ++ leBytes 4 (64 + body.length) ++ leBytes 8 addr ++ leBytes 4 max ++ List.replicate 44 0
    ++ body

/-- That request from the management interface, with the body `p` and `n` zeros after it. -/
def reqM (ty max : Nat) (p : Bytes) (n : Nat) : Mbox := { req := ask ty 0xFF 0 max (p ++ List.replicate n 0) }

/-- That request from function 0 of link 0 for partition 0. -/
def reqT (ty max : Nat) (p : Bytes) (n : Nat) : Mbox := { win := .func 0 0, req := ask ty 0 0 max (p ++ List.replicate n 0) }

/-- A state with one request at the front. -/
def asking (m : Mbox) (s : State) : State := s.modSec (fun x => { x with queue := [m] })

/-- The running module, enrolled, with one request and a current challenge of zeros. -/
def owned (m : Mbox) (ch : Option Bytes) : State :=
  let s := asking m run
  { s with
    sec := { s.sec with challenge := ch },
    flash := { s.flash with bytes := Mem1.write flashD [] 0x50000 [0x57, 0x4F, 0x58, 0x4C, 1, 0, 0, 0] } }

/-- The running module with partition 0, no ring enabled, one request and one session of partition 0. -/
def tenant (m : Mbox) (x : Option Session) : State :=
  asking m (run.modPart 0 (fun p => { p with valid := true, policy := pol, keySerial := some 1, session := x }))

/-- A running module whose trace region of partition 0 has one record buffered. -/
def tracing : State :=
  paged (run0.modPart 0 (fun p => { p with trcCfg := 0x10000, trcActiveBase := 0x1000, trcActiveSize := 1, trcBuf := [[1, 2, 3]] }))

/-- A request's header fields are as `ask` writes them. -/
theorem formed_ask (w : Window) (ty part addr max : Nat) (body : Bytes) (ok : Nat → Bool) (h : body.length < 4294967232) :
    ({ win := w, req := ask ty part addr max body } : Mbox).formed ok = ok (64 + body.length) := by
  have h1 : field (ask ty part addr max body) 4 4 = 64 + body.length := by
    show leNat (leBytes 4 (64 + body.length)) = _
    rw [leNat_leBytes, Nat.mod_eq_of_lt (by norm_num; omega)]
  have h2 : (ask ty part addr max body).length = 64 + body.length := by
    simp only [ask, List.length_append, length_leBytes, List.length_cons, List.length_nil, List.length_replicate]
  have h3 : zeroBytes (ask ty part addr max body) 24 63 = true := rfl
  have h4 : byteAt (ask ty part addr max body) 1 = 1 := rfl
  have h5 : byteAt (ask ty part addr max body) 3 = 0 := rfl
  simp only [Mbox.formed, h1, h2, h3, h4, h5, beq_self_eq_true, Bool.true_and, Bool.and_true]

theorem formed_reqM (ty max : Nat) (p : Bytes) (n : Nat) (ok : Nat → Bool) (h : p.length + n < 4294967232) :
    (reqM ty max p n).formed ok = ok (64 + (p.length + n)) := by
  rw [reqM, formed_ask _ _ _ _ _ _ _ (by simpa using h), List.length_append, List.length_replicate]

theorem formed_reqT (ty max : Nat) (p : Bytes) (n : Nat) (ok : Nat → Bool) (h : p.length + n < 4294967232) :
    (reqT ty max p n).formed ok = ok (64 + (p.length + n)) := by
  rw [reqT, formed_ask _ _ _ _ _ _ _ (by simpa using h), List.length_append, List.length_replicate]

/-- No function of a state has its event ring enabled when none in its lists has. -/
theorem noEventRings_of (s : State) (h : s.links.all (fun l => l.fns.all (fun f => !f.eq.en)) = true) : NoEventRings s := by
  have key : ∀ l : HostLink, l.fns.all (fun f => !f.eq.en) = true → ∀ f, (l.fns.getD f {}).eq.en = false := by
    intro l hl f
    rw [List.getD_eq_getElem?_getD]
    cases hf : l.fns[f]? with
    | none => rfl
    | some g => simpa using List.all_eq_true.mp hl g (List.mem_of_getElem? hf)
  intro k f
  apply key
  rw [State.link, List.getD_eq_getElem?_getD]
  cases hk : s.links[k]? with
  | none => rfl
  | some l => exact List.all_eq_true.mp h l (List.mem_of_getElem? hk)

/-- The header of a request that `ask` writes does not depend on its body. -/
theorem ask_asks (s : State) (ty n max : Nat) (p : Bytes) (hr : s.running = true)
    (hq : s.sec.queue = [{ req := ask ty 0xFF 0 max p }]) (hw : Mem1.wf ramD s.sec.mgmtBuf = true) (ht : ty < 256)
    (hz : ty ≠ 0x13) (hm : max < 2 ^ 32) (hn : n ≤ max) (h16 : n ≤ 16384) :
    AsksMgmt s { req := ask ty 0xFF 0 max p } [] ty n := by
  have h1 : byteAt (ask ty 0xFF 0 max p) 0 = ty := by
    show (BitVec.ofNat 8 ty).toNat = ty
    simp [Nat.mod_eq_of_lt ht]
  have h2 : field (ask ty 0xFF 0 max p) 16 4 = max := by
    show leNat (leBytes 4 max) = max
    rw [leNat_leBytes, Nat.mod_eq_of_lt (by simpa using hm)]
  have h3 : field (ask ty 0xFF 0 max p) 8 8 = 0 := by
    show leNat (leBytes 8 0) = 0
    rw [leNat_leBytes, Nat.zero_mod]
  have h4 : byteAt (ask ty 0xFF 0 max p) 2 = 255 := rfl
  refine ⟨hr, hq, rfl, h1, ?_, ?_, hw, ?_⟩
  · rw [h2]; exact hn
  · rw [h3]; omega
  · simp [State.asksZeroing, h1, h4, hz]

/-- The body of a request that `ask` writes. -/
theorem ask_drop (ty part addr max : Nat) (p : Bytes) : (ask ty part addr max p).drop 64 = p := by
  rw [ask]
  exact List.drop_left' (by simp only [List.length_append, length_leBytes, List.length_cons, List.length_nil, List.length_replicate])

/-- Each check of well-formedness refuses a command. -/
theorem test_wellFormed_core : (Instr.alu 192 { guard := 0, rd := 1, ra := 1, rb := 1, fn := 0, op := 1 }).wellFormed = false := by decide
theorem test_wellFormed_stream : (Instr.driftReadComplete 0 8 none).wellFormed = false := by decide
theorem test_wellFormed_slot : (Instr.memoryAccess (.core 0) 48 none 0 { write := true }).wellFormed = false := by decide
theorem test_wellFormed_part : (Instr.memoryAccess (.core 0) 0 (some 8) 0 { write := true }).wellFormed = false := by decide
theorem test_wellFormed_dpa : (Instr.memoryAccess (.core 0) 0 none (2 ^ 39) { write := true }).wellFormed = false := by decide
theorem test_wellFormed_requester : (Instr.meshWake (.core 192) 0 0).wellFormed = false := by decide
theorem test_wellFormed_clash :
    (Instr.mxLoad 0 (some { hiCode := 1, loCode := 2, hiOffset := 0x600000, loOffset := 0, hiRead := true, loRead := true })).wellFormed
      = false := by decide
theorem test_wellFormed_block : (Instr.setPointer (List.replicate 256 0) none).wellFormed = false := by decide +kernel
theorem test_wellFormed_flit : (Instr.flitReceive 0 { payload := [1] }).wellFormed = false := by decide
theorem test_wellFormed_packet : (Instr.ack { port := 6 }).wellFormed = false := by decide
theorem test_wellFormed_lines : (Instr.result { lines := [[1]] }).wellFormed = false := by decide
theorem test_wellFormed_access : (Instr.registerWrite .mgmt 4 8 0).wellFormed = false := by decide
theorem test_wellFormed_badRead : (Instr.barReadInvalid 0 0 { space := .bar0, offset := 0 } 4097).wellFormed = false := by decide
theorem test_wellFormed_lists : (Instr.coreSelfTest [3, 200]).wellFormed = false := by decide
theorem test_wellFormed_hash : (Instr.handshake 0 1 1 []).wellFormed = false := by decide
theorem test_wellFormed_yes : (Instr.driftReadComplete 191 7 none).wellFormed = true := by decide

/-- R266's worked example: the record after steps 1 to 4 holds the codes 122, 124, 125 and 126. -/
def trackRecord : Bytes := [1, 1, 0, 0x7F] ++ List.replicate 60 0

/-- An observation: the maximum and the saturation count. -/
def seen (amax sats : Nat) : Bytes := leBytes 4 amax ++ leBytes 4 sats

def trackFour : Bytes :=
  [seen 0x40400000 0, seen 0x41480000 0, seen 0x428C0000 3112, seen 0x42200000 0].foldl trackerStep trackRecord

theorem test_track_step1 : byteAt (trackerStep trackRecord (seen 0x40400000 0)) 3 = 122 := by decide +kernel
theorem test_track_step4 : (byteAt trackFour 3, byteAt trackFour 4, field trackFour 16 2) = (126, 1, 5) := by decide +kernel

/-- R519's worked example: theta 119,999,997 and delta 600; k is 120,000 and rho is -3. -/
theorem test_offset_example :
    barrierOffset 1000 (BitVec.ofNat 64 (5000 * 2 ^ 20 + 100)) (BitVec.ofNat 64 (125000 * 2 ^ 20 + 397))
      (BitVec.ofNat 64 (125002 * 2 ^ 20 + 400)) (BitVec.ofNat 64 (5002 * 2 ^ 20 + 703)) = (119999997, 600) := by decide +kernel
theorem test_offset_round : roundDiv 119999997 1000 = 120000 ∧ (119999997 : Int) - 120000 * 1000 = -3 := by decide +kernel

/-- R347, by hand: row 0x48D1, channel 3 xor 0x11, bank 8 xor 3. -/
theorem test_dram_map : (dpaRow 0x1234560300, dpaChannel 0x1234560300, dpaBank 0x1234560300) = (0x48D1, 18, 11) := by decide +kernel

/-- R169's worked example: nine charges of 1,024 ticks and one of 784 at weight 3 add 218,453,333 and carry 1. -/
theorem test_share_charge :
    let p := ((List.replicate 9 1024 ++ [784]).foldl Part.charge { policy := [1, 0, 3] : Part })
    (p.service, p.carry) = (218453333, 1) := by decide +kernel

/-- R255 and R254 in R266's example: 560 saturates to 448 in e4m3, code 0x7E. -/
theorem test_e4m3_saturates : (convert .e4m3 0 0x440C0000).1 = 0x7E := by decide +kernel

/-- R194: a division by zero gives all ones. -/
theorem test_div_zero : aluFn 0x0C 7 0 = some (BitVec.allOnes 64) := by decide +kernel

/-- R458's worked example: SHADOW_MISCOMPARE's payload is 0x0000_0119_0D05_0093. -/
theorem test_miscompare_payload :
    let p : Pair := { primary := 5, shadow := 13, miscompared := true, arbiter := some 25, primaryCrc := some 1, shadowCrc := some 2 }
    let j := { job0 task0 with tasks := List.replicate 147 task0 ++ [{ task0 with pair := some p, st := .running }] }
    let s := putCore 25 { phase := .finished, task := 147, ended := some (.clean 2), kind := .arbiter } (holding j run0)
    (match exec (.shadowMiscompare 0 147) s with
      | .next t => (List.range 4).map (fun i => Mem1.read ramD (t.link 0).hostMem (hostKey 0 (0x2000 + 32 * i + 24)) 8)
      | _ => []).contains (leBytes 8 0x000001190D050093) = true := by decide +kernel

/-- Words written out from R186's fields, R189's opcodes, R200's TOP and R203's sub-operations. -/
theorem test_word_alu : lciCommand 1 0b0000_000001_00100_00101_00110_0000001#32
    = .alu 1 { guard := 0, rd := 4, ra := 5, rb := 6, fn := 1, op := 1 } := by decide
theorem test_word_addi : lciCommand 1 0b1001_000010_00100_00101_111111111111#32
    = .addi 1 { guard := 9, rd := 4, ra := 5, imm := 0xFFF } := by decide
theorem test_word_movk2 : lciCommand 1 0b0000_001100_0_00100_1000000000000001#32
    = .movk 1 2 { guard := 0, zero := 0, rd := 4, imm := 0x8001 } := by decide
theorem test_word_cmpi : lciCommand 1 0b0000_001111_011_10_00101_0100_11111111#32
    = .cmpi 1 { guard := 0, pd := 3, comb := 2, ra := 5, low := 0x4FF } := by decide
theorem test_word_plog : lciCommand 1 0b0000_010000_011_001_010_101_0000000000#32
    = .plog 1 { guard := 0, pd := 3, pa := 1, pb := 2, pfn := 5, zero := 0 } := by decide
theorem test_word_stn : lciCommand 1 0b0000_010011_00100_00101_011_100000001#32
    = .stn 1 { guard := 0, rd := 4, ra := 5, sz := 3, imm := 0x101 } := by decide
theorem test_word_bl : lciCommand 1 0b0000_010110_1111111111111111111110#32 = .bl 1 { guard := 0, off := 0x3FFFFE } := by decide
theorem test_word_jlr : lciCommand 1 0b0000_010111_11111_00101_00000_0000001#32
    = .jlr 1 { guard := 0, rd := 31, ra := 5, rb := 0, fn := 1 } := by decide
theorem test_word_issue : lciCommand 1 0b0000_011000_010_11_00101_00100_0000000#32
    = .issue 1 { guard := 0, queue := 2, units := 3, ra := 5, rd := 4, zero := 0 } := by decide
theorem test_word_drain : lciCommand 1 0b0000_011011_011_100001_00101_00000111#32
    = .drain 1 { guard := 0, tally := 33, reg := 5, count := 7 } := by decide
theorem test_word_trap : lciCommand 1 0b0000_011110_010_00_00101_000000000000#32
    = .trap 1 { guard := 0, sub := 2, zero := 0, ra := 5, low := 0 } := by decide

/-- R189 and R200: a reserved opcode is the ALU row's with that opcode, and a reserved TOP WAIT_FILLED's with that TOP; both are
illegal. -/
theorem test_word_reserved : lciCommand 1 0 = .alu 1 { guard := 0, rd := 0, ra := 0, rb := 0, fn := 0, op := 0 } := by decide
theorem test_word_reservedTop : lciCommand 1 0b0000_011011_110_000000_00000_00000000#32
    = .waitFilled 1 { guard := 0, tally := 0, reg := 0, count := 0, top := 6 } := by decide

/-- The hypotheses of every clause of `Obligations.PowerUpSequence` can be met. -/
theorem witness_PowerUpSequence :
      (∃ (s : State) (_strap : BitVec 2),
        (s.pwr.phase = .standby)
        ∧ (s.pwr.thermtrip = false)
        ∧ (s.pwr.deferred = [])
        ∧ (let u := (s.plogFlush false).loadHours
        (u.flash.hoursSlot < 4096)
        ∧ (Mem1.wf flashD (s.plogFlush false).flash.bytes = true)))
      ∧ (∃ (s : State) (_strap : BitVec 2),
        (s.pwr.phase = .off))
      ∧ (∃ (s : State),
        (s.pwr.phase = .powerUp))
      ∧ (∃ (s : State),
        (s.powered = true))
      ∧ (∃ (s : State) (mv : Nat),
        (s.pwr.phase = .noInput)
        ∧ (39000 < mv)
        ∧ (s.pwr.rails.length = 8))
      ∧ (∃ (s : State) (mv : Nat),
        (s.pwr.phase = .off)
        ∧ (s.pwr.seq = none)
        ∧ (s.pwr.afterInputLoss = true)
        ∧ (s.pwr.pwrEnLowTicks = true)
        ∧ (s.pwr.thermtrip = false)
        ∧ (39000 < mv))
      ∧ (∃ (s : State) (mv : Nat),
        (s.pwr.phase = .off)
        ∧ (s.pwr.afterInputLoss = true)
        ∧ (s.pwr.thermtrip = false)
        ∧ (s.pwr.deferred = [])
        ∧ (39000 < mv)) :=
  ⟨⟨(ph .standby), 0, by (try dsimp only); decide +kernel⟩,
   ⟨(ph .off), 1, by decide +kernel⟩,
   ⟨(ph .powerUp), by decide +kernel⟩,
   ⟨(run.modPwr (fun p => { p with rails := p.rails.set 2 { on := true }, pgood := false })), by decide +kernel⟩,
   ⟨(ph .noInput), 39001, by decide +kernel⟩,
   ⟨({ ph .off with pwr := { (ph .off).pwr with afterInputLoss := true } }), 39001, by decide +kernel⟩,
   ⟨({ ph .off with pwr := { (ph .off).pwr with afterInputLoss := true, faultN := true } }), 39001, by decide +kernel⟩⟩

/-- The hypotheses of every clause of `Obligations.PowerRemoval` can be met. -/
theorem witness_PowerRemoval :
      (∃ (s : State),
        (s.powerPresent = true)
        ∧ (s.outranked 2 = false)
        ∧ (Mem1.wf flashD s.flash.bytes = true))
      ∧ (∃ (s : State),
        (s.outranked 2 = true)
        ∧ (s.pwr.pwrEn = true)
        ∧ (s.pwr.deferred.contains 2 = false))
      ∧ (∃ (s : State) (mv : Nat),
        (s.housekeeping = true)
        ∧ (mv ≤ 38000)
        ∧ (38000 < s.pwr.millivolts)
        ∧ (∀ q ∈ s.pwr.seq, q.rank ≠ 0)
        ∧ (Mem1.wf flashD s.flash.bytes = true))
      ∧ (∃ (s : State) (mv : Nat),
        (s.pwr.phase = .off)
        ∧ (s.pwr.afterInputLoss = true)
        ∧ (mv < 24000)
        ∧ (Mem1.wf flashD s.flash.bytes = true))
      ∧ (∃ (s : State) (_rail : Fin 8) (_w : BitVec 16),
        (s.pwr.phase = .powerUp)
        ∧ (s.pwr.rails.length = 8)
        ∧ (Mem1.wf flashD s.flash.bytes = true)) :=
  ⟨⟨run, by decide +kernel⟩,
   ⟨(run.modPwr (fun p => { p with seq := some { rank := 0, start := 0, hours := true } })), by decide +kernel⟩,
   ⟨(run.modPwr (fun p => { p with millivolts := 48000 })), 38000, by decide +kernel⟩,
   ⟨({ ph .off with pwr := { (ph .off).pwr with afterInputLoss := true } }), 23999, by decide +kernel⟩,
   ⟨(ph .powerUp), 6, 0x8000, by decide +kernel⟩⟩

/-- The hypotheses of every clause of `Obligations.ResetAndThermal` can be met. -/
theorem witness_ResetAndThermal :
      (∃ (s : State),
        (s.powered = true)
        ∧ (s.pwr.modReset = false)
        ∧ (s.outranked 3 = false))
      ∧ (∃ (s : State),
        (s.pwr.phase = .powerUp)
        ∧ (s.pwr.modReset = false)
        ∧ (s.outranked 3 = false))
      ∧ (∃ (s : State) (r : Int),
        (s.powered = true)
        ∧ (420 ≤ r))
      ∧ (∃ (s : State) (r : Int),
        (s.powered = true)
        ∧ (r < 420))
      ∧ (∃ (s : State) (r : Int),
        (s.housekeeping = true)
        ∧ (460 ≤ r)
        ∧ (s.pwr.thermtrip = false)
        ∧ (s.pwr.deferred.contains 1 = false)
        ∧ (s.outranked 1 = false))
      ∧ (∃ (s : State) (r : Int),
        (s.pwr.thermtrip = true)
        ∧ (s.housekeeping = true)
        ∧ (s.pwr.deferred = [])
        ∧ (r < 400)) :=
  ⟨⟨run, by decide +kernel⟩,
   ⟨(ph .powerUp), by decide +kernel⟩,
   ⟨run, 420, by decide +kernel⟩,
   ⟨run, 419, by decide +kernel⟩,
   ⟨run, 460, by decide +kernel⟩,
   ⟨({ ph .off with pwr := { (ph .off).pwr with thermtrip := true, faultN := true } }), 399, by decide +kernel⟩⟩

/-- The hypotheses of every clause of `Obligations.RailsAndPmbus` can be met. -/
theorem witness_RailsAndPmbus :
      (∃ (s : State) (rail : Fin 8) (_w : BitVec 16),
        (s.housekeeping = true)
        ∧ ((s.rail rail).on = true)
        ∧ (s.pwr.rails.length = 8))
      ∧ (∃ (s : State) (r : BitVec 32),
        (s.housekeeping = true)
        ∧ (r.toNat < 40000 ∨ 60000 < r.toNat))
      ∧ (∃ (s : State) (r : BitVec 32),
        (s.housekeeping = true)
        ∧ (200 < (signedOf 32 r.toNat).natAbs))
      ∧ (∃ (s : State) (r : BitVec 32),
        (s.housekeeping = true)
        ∧ (420 ≤ signedOf 32 r.toNat))
      ∧ (∃ (s : State),
        (s.pwr.pgood = true)
        ∧ (s.flash.hoursSlot < 4096)
        ∧ (Mem1.wf flashD s.flash.bytes = true))
      ∧ (∃ (s : State),
        (s.pwr.pgood = true)
        ∧ (4096 ≤ s.flash.hoursSlot)
        ∧ (s.flash.hoursSector < 2)
        ∧ (Mem1.wf flashD s.flash.bytes = true))
      ∧ (∃ (s : State) (_rail : Fin 8),
        (s.housekeeping = true))
      ∧ (∃ (s : State) (_rail : Fin 8),
        (s.housekeeping = true))
      ∧ (∃ (s : State) (_rail : Fin 8),
        (s.housekeeping = true))
      ∧ (∃ (s : State) (_rail : Fin 8) (_code : BitVec 8),
        (s.housekeeping = true))
      ∧ (∃ (s : State) (_rail : Fin 8),
        (s.housekeeping = true))
      ∧ (∃ (s : State) (_rail : Fin 8) (code : BitVec 8),
        (s.housekeeping = true)
        ∧ (code ≠ 3))
      ∧ (∃ (s : State) (n : Fin 8),
        (s.housekeeping = true)
        ∧ ((s.rail n).alert = true)
        ∧ (∀ i : Fin 8, i < n → (s.rail i).alert = false))
      ∧ (∃ (s : State),
        (s.housekeeping = true)
        ∧ (∀ i : Fin 8, (s.rail i).alert = false)) :=
  ⟨⟨run, 7, 0x8000, by decide +kernel⟩,
   ⟨rst, 39999, by decide +kernel⟩,
   ⟨rst, 0xFFFFFF37, by decide +kernel⟩,
   ⟨rst, 420, by decide +kernel⟩,
   ⟨run, by decide +kernel⟩,
   ⟨(run.modFlash (fun x => { x with hoursSlot := 4096 })), by decide +kernel⟩,
   ⟨run, 3, by decide +kernel⟩,
   ⟨run, 3, by decide +kernel⟩,
   ⟨run, 3, by decide +kernel⟩,
   ⟨run, 3, 0x20, by decide +kernel⟩,
   ⟨run, 3, by decide +kernel⟩,
   ⟨run, 3, 4, by decide +kernel⟩,
   ⟨(run.modRail 2 (fun r => { r with alert := true })), 2, by decide +kernel⟩,
   ⟨run, by decide +kernel⟩⟩

/-- The hypotheses of every clause of `Obligations.BootClockAndIdentity` can be met. -/
theorem witness_BootClockAndIdentity :
      (∃ (s : State),
        (s.atStage 0 = true)
        ∧ (s.plog.halfErased = none))
      ∧ (∃ (s : State) (j : Nat),
        (s.atStage 0 = true)
        ∧ (s.plog.halfErased = some j)
        ∧ (Mem1.wf flashD s.flash.bytes = true))
      ∧ (∃ (s : State),
        (s.atStage 0 = true))
      ∧ (∀ (m : Memory) (puf : Bytes) (seed : Bytes), (Config.romIntegrity [] = true) → (Config.pufSeed puf (({ bootAt 1 with flash := { (bootAt 1).flash with bytes := m } }).flashRead 0x20000 8192) = some seed) → (({ bootAt 1 with flash := { (bootAt 1).flash with bytes := m } }).endorsed (Config.mldsaPublic seed) = true) → ∃ (s : State) (puf : List (BitVec 8)) (seed : Bytes),
        (s.atStage 1 = true)
        ∧ (Config.romIntegrity [] = true)
        ∧ (Config.pufSeed puf (s.flashRead 0x20000 8192) = some seed)
        ∧ (s.endorsed (Config.mldsaPublic seed) = true))
      ∧ ((Config.romIntegrity [] = false) → ∃ (s : State) (_puf : List (BitVec 8)),
        (s.atStage 1 = true)
        ∧ (Config.romIntegrity [] = false))
      ∧ (∀ (m : Memory) (puf : Bytes), (Config.pufSeed puf (({ bootAt 1 with flash := { (bootAt 1).flash with bytes := m } }).flashRead 0x20000 8192) = none) → ∃ (s : State) (puf : List (BitVec 8)),
        (s.atStage 1 = true)
        ∧ (Config.pufSeed puf (s.flashRead 0x20000 8192) = none))
      ∧ (∀ (m : Memory) (puf : Bytes) (seed : Bytes), (Config.pufSeed puf (({ bootAt 1 with flash := { (bootAt 1).flash with bytes := m } }).flashRead 0x20000 8192) = some seed) → (({ bootAt 1 with flash := { (bootAt 1).flash with bytes := m } }).endorsed (Config.mldsaPublic seed) = false) → ∃ (s : State) (puf : List (BitVec 8)) (seed : Bytes),
        (s.atStage 1 = true)
        ∧ (Config.pufSeed puf (s.flashRead 0x20000 8192) = some seed)
        ∧ (s.endorsed (Config.mldsaPublic seed) = false)) :=
  ⟨⟨(bootAt 0), by decide +kernel⟩,
   ⟨((bootAt 0).modPlog (fun p => { p with halfErased := some 16 })), 16, by decide +kernel⟩,
   ⟨(bootAt 0), by decide +kernel⟩,
   fun m puf seed h h1 h2 => ⟨({ bootAt 1 with flash := { (bootAt 1).flash with bytes := m } }), puf, seed, by exact ⟨rfl, h, h1, h2⟩⟩,
   fun h => ⟨(bootAt 1), ([]), by exact ⟨rfl, h⟩⟩,
   fun m puf h => ⟨({ bootAt 1 with flash := { (bootAt 1).flash with bytes := m } }), puf, by exact ⟨rfl, h⟩⟩,
   fun m puf seed h h1 => ⟨({ bootAt 1 with flash := { (bootAt 1).flash with bytes := m } }), puf, seed, by exact ⟨rfl, h, h1⟩⟩⟩

/-- The hypotheses of every clause of `Obligations.BootRecordsAndMemory` can be met. -/
theorem witness_BootRecordsAndMemory :
      (∀ (m : Memory), (({ bootAt 2 with flash := { (bootAt 2).flash with bytes := m } }).imageCheck ({ bootAt 2 with flash := { (bootAt 2).flash with bytes := m } }).preferredImage = none) → ∃ (s : State),
        (s.atStage 2 = true)
        ∧ (let b := if s.flash.tried = [] then s.preferredImage else !s.preferredImage
        let h := s.flashRead (imageBase b) 2608
        (s.imageCheck b = none)))
      ∧ (∃ (s : State),
        (s.atStage 2 = true)
        ∧ (s.flash.tried = [])
        ∧ (s.imageCheck s.preferredImage ≠ none))
      ∧ (∃ (s : State),
        (s.atStage 2 = true)
        ∧ (s.flash.tried ≠ [])
        ∧ (s.imageCheck (!s.preferredImage) ≠ none))
      ∧ (∀ (m : Memory) (a : Memory) (en : List (BitVec 16)) (attn : List Bool) (msg : Bytes), (({ bootAt 3 with flash := { (bootAt 3).flash with bytes := m, harvestArea := a } }).harvestMap = some (en, attn, msg)) → ((Config.configRecord (({ bootAt 3 with flash := { (bootAt 3).flash with bytes := m, harvestArea := a } }).flashRead 0x40000 65536)).1 = true) → ∃ (s : State) (en : List (BitVec 16)) (attn : List Bool) (msg : Bytes),
        (s.atStage 3 = true)
        ∧ (s.flash.harvestPending = true)
        ∧ (s.harvestMap = some (en, attn, msg))
        ∧ ((Config.configRecord (s.flashRead 0x40000 65536)).1 = true))
      ∧ (∀ (m : Memory), ((Config.configRecord (({ bootAt 3 with flash := { (bootAt 3).flash with bytes := m, harvestPending := false, harvestOk := true } }).flashRead 0x40000 65536)).1 = true) → ∃ (s : State),
        (s.atStage 3 = true)
        ∧ (s.flash.harvestPending = false)
        ∧ (s.flash.harvestOk = true)
        ∧ ((Config.configRecord (s.flashRead 0x40000 65536)).1 = true))
      ∧ (∃ (s : State),
        (s.atStage 3 = true)
        ∧ ((Config.configRecord (s.flashRead 0x40000 65536)).1 = false ∨ (if s.flash.harvestPending then s.harvestMap.isSome else s.flash.harvestOk) = false))
      ∧ (∃ (s : State) (failed : List Nat),
        (s.atStage 4 = true)
        ∧ (∀ n ∈ failed, n < 192)
        ∧ (s.wnd.serials = []))
      ∧ (∃ (s : State),
        (s.atStage 5 = true))
      ∧ (∃ (s : State) (_c : Fin 64),
        (s.atStage 5 = true))
      ∧ (∃ (s : State),
        (s.atStage 6 = true))
      ∧ (∃ (s : State),
        (s.atStage 6 = true))
      ∧ (∃ (s : State),
        (s.atStage 7 = true)) :=
  ⟨fun m h => ⟨({ bootAt 2 with flash := { (bootAt 2).flash with bytes := m } }), by (try dsimp only); exact ⟨rfl, h⟩⟩,
   ⟨(bootAt 2), by decide +kernel⟩,
   ⟨((bootAt 2).modFlash (fun x => { x with tried := [true] })), by decide +kernel⟩,
   fun m a en attn msg h h1 => ⟨({ bootAt 3 with flash := { (bootAt 3).flash with bytes := m, harvestArea := a } }), en, attn, msg, by exact ⟨rfl, rfl, h, h1⟩⟩,
   fun m h => ⟨({ bootAt 3 with flash := { (bootAt 3).flash with bytes := m, harvestPending := false, harvestOk := true } }), by exact ⟨rfl, rfl, rfl, h⟩⟩,
   ⟨((bootAt 3).modFlash (fun x => { x with harvestPending := false })), by exact ⟨by decide +kernel, Or.inr (by decide +kernel)⟩⟩,
   ⟨(bootAt 4), ([191]), by decide +kernel⟩,
   ⟨(bootAt 5), by decide +kernel⟩,
   ⟨(bootAt 5), 63, by decide +kernel⟩,
   ⟨(bootAt 6), by decide +kernel⟩,
   ⟨(bootAt 6), by decide +kernel⟩,
   ⟨(bootAt 7), by decide +kernel⟩⟩

/-- The hypotheses of every clause of `Obligations.BeatsCounted` can be met. -/
theorem witness_BeatsCounted :
      (∃ (s : State),
        (s.time.on = true)
        ∧ (s.time.beat.toNat < 2 ^ 44 - 1)
        ∧ (s.time.holdoverActive = false)
        ∧ (s.time.stopped = false)
        ∧ (s.time.adoptK = none)
        ∧ (200 ≤ s.time.et))
      ∧ (∃ (s : State),
        (s.time.on = true)
        ∧ (s.time.beat.toNat < 2 ^ 44 - 1)
        ∧ (s.time.holdoverActive = true)
        ∧ (s.time.et < s.time.period / 2))
      ∧ (∃ (s : State),
        (s.time.on = true)
        ∧ (s.time.beat.toNat < 2 ^ 44 - 1)
        ∧ (s.time.holdoverActive = true)
        ∧ (s.time.adoptK = none)
        ∧ (s.time.period / 2 ≤ s.time.et))
      ∧ (∃ (s : State),
        (s.time.on = true)
        ∧ (s.time.beat.toNat + 1 < 2 ^ 44 - 1)
        ∧ (s.time.holdoverActive = false)
        ∧ (s.time.adoptK = none)
        ∧ (s.time.stopped = true)
        ∧ (200 ≤ s.time.et))
      ∧ (∃ (s : State),
        (s.time.on = true)
        ∧ (s.time.beat.toNat = 2 ^ 44 - 1))
      ∧ (∃ (s : State),
        (s.time.on = true)
        ∧ (s.time.holdoverActive = false)
        ∧ (s.time.et < 200))
      ∧ (∃ (s : State),
        (s.time.on = true)
        ∧ (s.time.holdoverActive = true)
        ∧ (s.time.beat.toNat < 2 ^ 44 - 1)
        ∧ (s.time.adoptK = none)
        ∧ (s.time.period ≤ s.time.et)) :=
  ⟨⟨(timed { on := true, et := 200, beat := BitVec.ofNat 44 (2 ^ 44 - 2) }), by decide +kernel⟩,
   ⟨(timed { on := true, holdoverActive := true, period := 1000, et := 499 }), by decide +kernel⟩,
   ⟨(timed { on := true, holdoverActive := true, period := 1000, et := 500 }), by decide +kernel⟩,
   ⟨(timed { on := true, stopped := true, et := 200 }), by decide +kernel⟩,
   ⟨(timed { on := true, beat := BitVec.ofNat 44 (2 ^ 44 - 1) }), by decide +kernel⟩,
   ⟨(timed { on := true, et := 199 }), by decide +kernel⟩,
   ⟨(timed { on := true, holdoverActive := true, period := 1000, et := 1000 }), by decide +kernel⟩⟩

/-- The hypotheses of every clause of `Obligations.CadenceLoss` can be met. -/
theorem witness_CadenceLoss :
      (∃ (s : State),
        (s.time.on = true)
        ∧ (s.time.holdoverActive = false)
        ∧ (s.time.stopped = false)
        ∧ (s.time.locked = true)
        ∧ (s.time.cadCfg.getLsbD 2 = true)
        ∧ (s.time.period + s.time.period / 4 ≤ s.time.et)
        ∧ (s.time.adoptK = none)
        ∧ (s.time.beat.toNat + 1 < 2 ^ 44 - 1))
      ∧ (∃ (s : State),
        (s.time.on = true)
        ∧ (s.time.holdoverActive = false)
        ∧ (s.time.stopped = false)
        ∧ (s.time.locked = true → s.time.cadCfg.getLsbD 2 = false)
        ∧ ((if s.time.locked then s.time.period + s.time.period / 4 else 1250000) ≤ s.time.et))
      ∧ (∃ (s : State),
        (s.time.on = true)
        ∧ (s.time.cadCfg.toNat % 4 = 2)
        ∧ (s.time.cadenceOut = false)
        ∧ (s.time.srcPeriod ≤ s.time.srcTimer))
      ∧ (∃ (s : State),
        (s.time.on = true)
        ∧ (s.time.cadCfg.toNat % 4 = 2)
        ∧ (s.time.cadenceOut = true)
        ∧ (s.time.srcPeriod / 2 ≤ s.time.srcTimer)) :=
  ⟨⟨(timed { on := true, locked := true, period := 1000, et := 1250 }), by decide +kernel⟩,
   ⟨(timed { on := true, et := 1250000 }), by decide +kernel⟩,
   ⟨(timed { on := true, cadCfg := 0x3E802#64, srcTimer := 1000 }), by decide +kernel⟩,
   ⟨(timed { on := true, cadCfg := 0x3E802#64, srcTimer := 500, cadenceOut := true }), by decide +kernel⟩⟩

/-- The hypotheses of every clause of `Obligations.PlacementAndStart` can be met. -/
theorem witness_PlacementAndStart :
      (∃ (s : State) (core : Nat) (n : Nat) (ser : Nat) (i : Nat) (j : Job) (t : TaskSt),
        (s.active = true)
        ∧ (core < 192)
        ∧ (n < s.cores.length)
        ∧ (s.isFenced core = false)
        ∧ ((s.core core).phase = .idle)
        ∧ (s.endPillarless = s)
        ∧ (s.winner core = some (ser, i))
        ∧ (s.job ser = some j)
        ∧ (s.task ser i = some t)
        ∧ (t.pair = none)
        ∧ (j.shadowed i t = false)
        ∧ (j.invalidated = true)
        ∧ (j.predState t = some true)
        ∧ (s.lacksPillar j t = false)
        ∧ ((s.eligible j t []).head? = some n)
        ∧ (s.wnd.clusters.getD (clusterOf n) .stopped = .stopped))
      ∧ (∃ (s : State) (c : Fin 16),
        (s.running = true)
        ∧ (s.wnd.clusters.getD c .stopped = .restarting)
        ∧ (s.cores.length = 192)
        ∧ (∀ w ∈ s.wnd.heldWakes, clusterOf w.1 ≠ c)
        ∧ (∃ i, i < 12 ∧ (s.core (12 * c + i)).phase = .waitClock)
        ∧ (∀ i, i < 12 → (s.core (12 * c + i)).phase = .waitClock → (s.core (12 * c + i)).needsClear (s.core (12 * c + i)).part = true))
      ∧ (∃ (s : State) (c : Fin 16),
        (s.running = true)
        ∧ (s.wnd.clusters.getD c .stopped = .restarting)
        ∧ (∀ w ∈ s.wnd.heldWakes, clusterOf w.1 ≠ c)
        ∧ (∀ i, i < 12 → (s.core (12 * c + i)).phase = .idle))
      ∧ (∃ (s : State) (n : Nat) (t : TaskSt),
        (s.running = true)
        ∧ ((s.core n).phase = .clearing)
        ∧ ((s.core n).kind ≠ .repeatRun)
        ∧ (s.task (s.core n).job (s.core n).task = some t)
        ∧ (t.signals = [])
        ∧ (t.cls ≠ 1 ∨ t.affinity = 0xFFFF)
        ∧ (Mem1.wf ramD (s.core n).sp = true)) :=
  ⟨⟨(holding (job0 { task0 with st := .ready }) run0), 1, 1, 0, 0, (job0 { task0 with st := .ready }), ({ task0 with st := .ready }), by decide +kernel⟩,
   ⟨((putCore 1 { phase := .waitClock } (holding (job0 task0) run0)).modWnd (fun w => { w with clusters := w.clusters.set 0 .restarting })), 0, by decide +kernel⟩,
   ⟨(run0.modWnd (fun w => { w with clusters := w.clusters.set 0 .restarting })), 0, by decide +kernel⟩,
   ⟨(putCore 1 { phase := .clearing, resTop := 16, sp := [(3, 1), (20, 2)] } (holding (job0 task0) run0)), 1, task0, by decide +kernel⟩⟩

/-- The hypotheses of every clause of `Obligations.CommitAndDelivery` can be met. -/
theorem witness_CommitAndDelivery :
      (∃ (s : State) (n : Nat) (j : Job) (t : TaskSt) (va : Nat) (dpa : Nat) (data : Bytes),
        (s.active = true)
        ∧ ((s.core n).phase = .finished)
        ∧ ((s.core n).kind = .run)
        ∧ (s.job (s.core n).job = some j)
        ∧ (s.task (s.core n).job (s.core n).task = some t)
        ∧ (t.st = .staged)
        ∧ (t.pair = none)
        ∧ (t.heldGrant = false)
        ∧ (s.repeating (s.core n).job (s.core n).task = false)
        ∧ ((s.core n).effects = [.dramWrite va [(dpa, data.length)] data])
        ∧ ((s.core n).runPuts = (0, 0, 0))
        ∧ ((s.core n).held = [])
        ∧ ((s.core n).badWords = [])
        ∧ (j.watch = [])
        ∧ (Mem1.wf ramD s.mem.dram = true))
      ∧ (∃ (s : State) (n : Nat) (j : Job) (tk : Nat) (dr : Nat) (d : Bool) (c : Nat),
        (s.running = true)
        ∧ ((s.core n).phase = .delivering)
        ∧ ((s.core n).awaitAck = true)
        ∧ (s.lnk.tx = [])
        ∧ (s.mesh.injectStopped = false)
        ∧ ((s.core n).slots.length < 48)
        ∧ (s.job (s.core n).job = some j)
        ∧ ((s.core n).effects = [.tallySignal tk dr d c]))
      ∧ (∃ (s : State) (n : Nat) (ser : Nat) (j : Job) (t : TaskSt),
        (s.running = true)
        ∧ ((s.core n).phase = .delivering)
        ∧ ((s.core n).signalsSent = true)
        ∧ (s.lnk.tx = [])
        ∧ (s.wnd.signals = [])
        ∧ (s.wnd.jobs = [j])
        ∧ (s.wnd.serials = [ser])
        ∧ ((s.core n).job = ser)
        ∧ ((s.core n).task = 0)
        ∧ (j.tasks = [t])
        ∧ (t.st = .committed)
        ∧ (j.phase = .live)
        ∧ (j.ending = none)
        ∧ (j.specDiscard = false)
        ∧ (t.linkFail = false)
        ∧ (j.acks = [])
        ∧ (j.irq = false)
        ∧ (j.link < s.links.length)
        ∧ (j.fn < (s.link j.link).fns.length)
        ∧ ((s.fn j.link j.fn).cq.en = true)
        ∧ (Mem1.wf ramD (s.link j.link).hostMem = true)) :=
  ⟨⟨(putCore 1 { phase := .finished, effects := [.dramWrite 0x100 [(0x10000100, 2)] [1, 2]] } (holding (job0 { task0 with st := .staged }) run0)), 1, (job0 { task0 with st := .staged }), ({ task0 with st := .staged }), 0x100, 0x10000100, ([1, 2]), by decide +kernel⟩,
   ⟨(putCore 1 { phase := .delivering, awaitAck := true, effects := [.tallySignal 0 3 false 1] } (holding (job0 { task0 with st := .committed }) run0)), 1, (job0 { task0 with st := .committed }), 0, 3, false, 1, by decide +kernel⟩,
   ⟨(putCore 1 { phase := .delivering, signalsSent := true } (holding (job0 { task0 with st := .committed }) run0)), 1, 0, (job0 { task0 with st := .committed }), ({ task0 with st := .committed }), by decide +kernel⟩⟩

/-- The hypotheses of every clause of `Obligations.WinderTimers` can be met. -/
theorem witness_WinderTimers :
      (∃ (s : State) (k : Nat) (g : Signal) (t : TaskSt),
        (s.wnd.signals[k]? = some g)
        ∧ (s.task g.job g.task = some t)
        ∧ (t.st.final = false)
        ∧ (s.runsOf g.job g.task = [])
        ∧ ((s.wnd.signals.take k).any (fun h => h.source == g.source && s.sameDest g h) = false))
      ∧ (∃ (s : State) (k : Nat) (g : Signal),
        (s.wnd.signals[k]? = some g)
        ∧ ((s.wnd.signals.take k).any (fun h => h.source == g.source && s.sameDest g h) = true))
      ∧ (∃ (s : State) (n : Nat),
        (s.running = true)
        ∧ (1024 ≤ (s.core n).heldTicks)
        ∧ ((s.core n).kind.chargeable = true)
        ∧ ((s.part (s.core n).part).share ≠ 0)
        ∧ ((s.core n).part < s.parts.length))
      ∧ (∃ (s : State) (ser : Nat) (i : Nat) (b : Nat) (t : TaskSt),
        (s.task ser i = some t)
        ∧ (t.retryBeat = some b)
        ∧ (b ≤ s.time.counted))
      ∧ (∃ (s : State) (n : Nat) (ser : Nat) (j : Job) (t : TaskSt),
        (s.running = true)
        ∧ ((s.core n).phase = .executing)
        ∧ ((s.core n).kind = .run)
        ∧ ((s.part (s.core n).part).runLimit ≠ 0)
        ∧ ((s.part (s.core n).part).runLimit < (s.core n).runTicks)
        ∧ (s.wnd.jobs = [j])
        ∧ (s.wnd.serials = [ser])
        ∧ ((s.core n).job = ser)
        ∧ ((s.core n).task = 0)
        ∧ (j.tasks = [t])
        ∧ (t.pair = none)
        ∧ (t.heldGrant = false)
        ∧ (j.phase = .live)
        ∧ (j.ending = none)
        ∧ (j.acks = [])
        ∧ (j.irq = false)
        ∧ (s.runsOf ser 0 = [n])
        ∧ ((s.fn j.link j.fn).cq.en = true)
        ∧ (j.link < s.links.length)
        ∧ (j.fn < (s.link j.link).fns.length)
        ∧ (Mem1.wf ramD (s.link j.link).hostMem = true)) :=
  ⟨⟨((holding (job0 task0) run0).modWnd (fun w => { w with signals := [{ tally := 3, count := 1 }] })), 0, ({ tally := 3, count := 1 }), task0, by decide +kernel⟩,
   ⟨((holding (job0 task0) run0).modWnd (fun w => { w with signals := [{ tally := 3, count := 1 }, { tally := 4, count := 1 }] })), 1, ({ tally := 4, count := 1 }), by decide +kernel⟩,
   ⟨(putCore 1 { phase := .executing, heldTicks := 1024 } run0), 1, by decide +kernel⟩,
   ⟨(holding (job0 { task0 with st := .ready, retryBeat := some 0 }) run0), 0, 0, 0, ({ task0 with st := .ready, retryBeat := some 0 }), by decide +kernel⟩,
   ⟨(putCore 1 { phase := .executing, runTicks := 1001 } (holding (job0 { task0 with st := .running }) run0)), 1, 0, (job0 { task0 with st := .running }), ({ task0 with st := .running }), by decide +kernel⟩⟩

/-- The hypotheses of every clause of `Obligations.HostResets` can be met. -/
theorem witness_HostResets :
      (∃ (s : State) (k : Fin 4),
        (s.powered = true)
        ∧ (s.pwr.phase ≠ .inReset)
        ∧ (k.val < s.linkCount)
        ∧ (s.links.length = 4))
      ∧ (∃ (s : State) (_k : Fin 4),
        (s.pwr.phase = .powerUp ∨ s.pwr.phase = .inReset)
        ∧ (s.links.length = 4)
        ∧ (s.plog.buffer.length < 64))
      ∧ (∃ (s : State) (k : Fin 4),
        (s.linksLive = true)
        ∧ (k.val < s.linkCount)
        ∧ ((s.link k).ltssm = .idle))
      ∧ (∃ (s : State) (k : Fin 4) (_f : Fin 8),
        (s.running = true)
        ∧ (k.val < s.linkCount)
        ∧ (s.links.length = 4)
        ∧ ((s.link k).fns.length = 8)
        ∧ ((s.link k).perst = false))
      ∧ (∃ (s : State) (k : Fin 4) (f : Fin 8),
        (s.running = true)
        ∧ (k.val < s.linkCount)
        ∧ ((s.link k).perst = false)
        ∧ (∀ j ∈ s.wnd.jobs, ¬ (j.link = k ∧ j.fn = f)))
      ∧ (∃ (s : State) (k : Fin 4) (f : Fin 8) (j : Job),
        (s.running = true)
        ∧ (k.val < s.linkCount)
        ∧ (s.links.length = 4)
        ∧ ((s.link k).fns.length = 8)
        ∧ ((s.link k).perst = false)
        ∧ (j ∈ s.wnd.jobs)
        ∧ (j.link = k)
        ∧ (j.fn = f))
      ∧ (∃ (s : State) (k : Fin 4),
        (s.powered = true)
        ∧ (k.val < s.linkCount)
        ∧ (s.links.length = 4)
        ∧ ((s.link k).perst = false)) :=
  ⟨⟨run0, 0, by decide +kernel⟩,
   ⟨(ph .inReset), 0, by decide +kernel⟩,
   ⟨(run0.modLink 0 (fun l => { l with perst := true, ltssm := .idle })), 0, by decide +kernel⟩,
   ⟨run0, 0, 0, by decide +kernel⟩,
   ⟨run0, 0, 7, by decide +kernel⟩,
   ⟨(holding (job0 task0) run0), 0, 0, (job0 task0), by decide +kernel⟩,
   ⟨run0, 0, by decide +kernel⟩⟩

/-- The hypotheses of every clause of `Obligations.HostLinkTraffic` can be met. -/
theorem witness_HostLinkTraffic :
      (∃ (s : State) (k : Fin 4) (rate : Nat) (width : Nat),
        (s.linksLive = true)
        ∧ (s.running = false)
        ∧ (k.val < s.linkCount)
        ∧ ((s.link k).perst = false)
        ∧ ((s.link k).ltssm = .detect ∨ (s.link k).ltssm = .noFlit)
        ∧ (rate ∈ [25, 50, 80, 160, 320, 640, 1280])
        ∧ (width ∈ [1, 2, 4, 8, 16])
        ∧ (width ≤ 16 / s.linkCount))
      ∧ (∃ (s : State) (k : Fin 4) (rate : Nat) (width : Nat),
        (s.running = true)
        ∧ (k.val < s.linkCount)
        ∧ (s.links.length = 4)
        ∧ ((s.link k).fns.length = 8)
        ∧ ((s.link k).perst = false)
        ∧ ((s.link k).ltssm = .detect ∨ (s.link k).ltssm = .noFlit)
        ∧ (rate ∈ [25, 50, 80, 160, 320, 640, 1280])
        ∧ (width ∈ [1, 2, 4, 8, 16])
        ∧ (width ≤ 16 / s.linkCount)
        ∧ ((s.fn k 0).holdEnd.length = 2)
        ∧ ((s.fn k 0).msixSent.length = 4))
      ∧ (∃ (s : State) (k : Fin 4) (rate : Nat) (width : Nat),
        (s.linksLive = true)
        ∧ (k.val < s.linkCount)
        ∧ ((s.link k).perst = false)
        ∧ ((s.link k).ltssm = .detect ∨ (s.link k).ltssm = .noFlit)
        ∧ (rate ∈ [25, 50, 80, 160, 320, 640, 1280])
        ∧ (width ∈ [1, 2, 4, 8, 16])
        ∧ (width ≤ 16 / s.linkCount))
      ∧ (∃ (s : State) (k : Fin 4),
        (s.pwr.phase = .boot)
        ∧ (k.val < s.linkCount)
        ∧ ((s.link k).ltssm ≠ .idle))
      ∧ (∃ (s : State) (k : Fin 4),
        (s.pwr.phase = .boot)
        ∧ (k.val < s.linkCount)
        ∧ ((s.link k).ltssm ≠ .idle))
      ∧ (∃ (s : State) (k : Fin 4) (_f : Fin 8) (x : FnOffset) (size : Nat),
        (s.linkUp k = true)
        ∧ (s.links.length = 4)
        ∧ ((s.link k).fns.length = 8)
        ∧ (x.space ≠ .config)
        ∧ (¬ ((size = 4 ∨ size = 8) ∧ size ∣ x.offset))
        ∧ ((s.fn k 0).holdEnd.length = 2)
        ∧ ((s.fn k 0).msixSent.length = 4))
      ∧ (∃ (s : State) (k : Fin 4) (f : Fin 8) (x : FnOffset) (size : Nat),
        (s.linkUp k = true)
        ∧ (s.windowCovers (fnWindow x.space k f) x.offset size = true)
        ∧ (size = 4 ∨ size = 8)
        ∧ (size ∣ x.offset))
      ∧ (∃ (s : State) (k : Fin 4),
        (s.running = true)
        ∧ (s.time.stopped = true)
        ∧ ((s.link k).dbEn = true)
        ∧ ((s.link k).outstanding = false)
        ∧ ((s.fn k 0).d3hot = false))
      ∧ (∃ (s : State) (k : Fin 4),
        (s.running = true)
        ∧ (s.time.stopped = true)
        ∧ ((s.link k).outstanding = true))
      ∧ (∃ (s : State) (k : Fin 4) (f : Fin 8) (v : Fin 2) (b : Nat),
        (s.running = true)
        ∧ (s.links.length = 4)
        ∧ ((s.link k).fns.length = 8)
        ∧ ((s.fn k f).holdEnd.length = 2)
        ∧ ((s.fn k f).msixSent.length = 4)
        ∧ ((s.fn k f).holdEnd.getD v none = some b)
        ∧ (b ≤ s.time.counted)
        ∧ ((s.fn k f).holdPending.getD v false = true)) :=
  ⟨⟨((bootAt 1).modLink 0 (fun l => { l with perst := false, ltssm := .detect })), 0, 1280, 16, by decide +kernel⟩,
   ⟨(run0.modLink 0 (fun l => { l with perst := false, ltssm := .noFlit })), 0, 25, 1, by decide +kernel⟩,
   ⟨(run0.modLink 0 (fun l => { l with perst := false, ltssm := .detect })), 0, 1280, 16, by decide +kernel⟩,
   ⟨((bootAt 3).modLink 0 (fun l => { l with perst := false, ltssm := .l0 })), 0, by decide +kernel⟩,
   ⟨((bootAt 3).modLink 0 (fun l => { l with perst := false, ltssm := .l0 })), 0, by decide +kernel⟩,
   ⟨run0, 0, 0, ({ space := .bar0, offset := 2 }), 4, by decide +kernel⟩,
   ⟨run0, 0, 7, ({ space := .config, offset := 0xFF8 }), 8, by decide +kernel⟩,
   ⟨(({ run0 with time := { on := true, stopped := true } } : State).modLink 0 (fun l => { l with dbEn := true })), 0, by decide +kernel⟩,
   ⟨(({ run0 with time := { on := true, stopped := true } } : State).modLink 0 (fun l => { l with outstanding := true })), 0, by decide +kernel⟩,
   ⟨(run0.modFn 0 0 (fun x => { x with holdEnd := [some 0, none], holdPending := [true, false] })), 0, 0, 0, 0, by decide +kernel⟩⟩

/-- The hypotheses of every clause of `Obligations.DoorbellsAndSubmission` can be met. -/
theorem witness_DoorbellsAndSubmission :
      (∃ (s : State) (k : Fin 4) (page : Bytes),
        (s.running = true)
        ∧ (s.links.length = 4)
        ∧ ((s.link k).fns.length = 8)
        ∧ ((s.link k).dbEn = true)
        ∧ ((s.link k).outstanding = true)
        ∧ (∀ f, f < 8 → (s.fn k f).dropped = 0 ∧ ((s.fn k f).sq.en = true → field page (8 * f) 2 < (s.fn k f).sq.entries) ∧ (s.fn k f).cq.en = false ∧ (s.fn k f).eq.en = false)
        ∧ (page.length = 64))
      ∧ (∃ (s : State) (k : Fin 4) (r : HostRead),
        (s.running = true)
        ∧ ((s.link k).dbEn = true)
        ∧ ((s.link k).outstanding = true)
        ∧ ((s.link k).dbErrRun ≠ 15)
        ∧ (s.links.length = 4)
        ∧ (r ∈ [.unsupported, .aborted, .poisoned, .timeout]))
      ∧ (∃ (s : State) (k : Fin 4),
        (s.running = true)
        ∧ ((s.link k).dbEn = true)
        ∧ ((s.link k).outstanding = true)
        ∧ ((s.link k).dbErrRun = 15)
        ∧ (s.links.length = 4))
      ∧ (∃ (s : State) (k : Fin 4) (f : Fin 8) (e : Bytes),
        (s.running = true)
        ∧ ((s.fn k f).sq.en = true)
        ∧ (e.length = 64)
        ∧ ((s.fn k f).fetched = [])
        ∧ ((s.fn k f).sq.head ≠ (s.fn k f).sq.tail)
        ∧ ((s.fn k f).sq.tail < (s.fn k f).sq.entries)
        ∧ ((s.fn k f).sq.head < (s.fn k f).sq.entries))
      ∧ (∃ (s : State) (k : Fin 4) (f : Fin 8) (b : Bytes),
        (s.frontEntry k f = some b)
        ∧ (byteAt b 0 = 0))
      ∧ (∃ (s : State) (k : Fin 4) (f : Fin 8) (b : Bytes),
        (s.frontEntry k f = some b)
        ∧ (3 ≤ byteAt b 0))
      ∧ (∃ (s : State) (k : Fin 4) (f : Fin 8) (b : Bytes) (p : Nat),
        (s.frontEntry k f = some b)
        ∧ (s.fnPart k f = some p)
        ∧ (byteAt b 0 = 1)
        ∧ (s.wnd.jobs.length < 1024)
        ∧ (s.liveJobsOf p < (s.part p).liveJobs)
        ∧ ((s.fn k f).canReserve = true)
        ∧ (s.entryFault p b = none))
      ∧ (∃ (s : State) (k : Fin 4) (f : Fin 8) (b : Bytes) (p : Nat) (d : Nat),
        (s.frontEntry k f = some b)
        ∧ (s.fnPart k f = some p)
        ∧ (byteAt b 0 = 1)
        ∧ (s.wnd.jobs.length < 1024)
        ∧ (s.liveJobsOf p < (s.part p).liveJobs)
        ∧ ((s.fn k f).canReserve = true)
        ∧ (s.entryFault p b = some d))
      ∧ (∃ (s : State) (k : Fin 4) (f : Fin 8) (b : Bytes),
        (s.frontEntry k f = some b)
        ∧ (byteAt b 0 = 2)
        ∧ ((s.fn k f).canReserve = true)
        ∧ (s.wnd.jobs = []))
      ∧ (∃ (s : State) (k : Fin 4) (f : Fin 8) (b : Bytes) (j : Job) (ser : Nat),
        (s.frontEntry k f = some b)
        ∧ (byteAt b 0 = 2)
        ∧ (bitOf (byteAt b 1) 0 = false)
        ∧ ((s.fn k f).canReserve = true)
        ∧ (s.wnd.jobs = [j])
        ∧ (s.wnd.serials = [ser])
        ∧ (j.link = k)
        ∧ (j.fn = f)
        ∧ (j.id = BitVec.ofNat 32 (field b 4 4))
        ∧ (j.ending = none)
        ∧ (j.phase = .fetching)
        ∧ (j.acks = [])
        ∧ (j.irq = false)
        ∧ (s.links.length = 4)
        ∧ (f.val < (s.link k).fns.length)
        ∧ (Mem1.wf ramD (s.link k).hostMem = true)) :=
  ⟨⟨(run.modLink 0 (fun l => { l with dbEn := true, outstanding := true })), 0, (List.replicate 64 0), by decide +kernel⟩,
   ⟨(run.modLink 0 (fun l => { l with dbEn := true, outstanding := true })), 0, .poisoned, by decide +kernel⟩,
   ⟨(run.modLink 0 (fun l => { l with dbEn := true, outstanding := true, dbErrRun := 15, active := true })), 0, by decide +kernel⟩,
   ⟨(run0.modFn 0 0 (fun x => { x with sq := { x.sq with tail := 1 } })), 0, 0, (List.replicate 64 0), by decide +kernel⟩,
   ⟨(withEntry (List.replicate 64 0)), 0, 0, (List.replicate 64 0), by decide +kernel⟩,
   ⟨(withEntry (3 :: List.replicate 63 0)), 0, 0, (3 :: List.replicate 63 0), by decide +kernel⟩,
   ⟨(withEntry (entry 1 128)), 0, 0, (entry 1 128), 0, by decide +kernel⟩,
   ⟨(withEntry (entry 1 100)), 0, 0, (entry 1 100), 0, 4, by decide +kernel⟩,
   ⟨(withEntry (entry 2 0)), 0, 0, (entry 2 0), by decide +kernel⟩,
   ⟨(holding fetching (withEntry (entry 2 0))), 0, 0, (entry 2 0), fetching, 0, by decide +kernel⟩⟩

/-- The hypotheses of every clause of `Obligations.DescriptorsAndScoreboard` can be met. -/
theorem witness_DescriptorsAndScoreboard :
      (∃ (s : State) (ser : Nat) (j : Job),
        (s.wnd.jobs = [j])
        ∧ (s.wnd.serials = [ser])
        ∧ (s.running = true)
        ∧ (j.phase = .fetching)
        ∧ (j.ending = none)
        ∧ (j.acks = [])
        ∧ (j.irq = false)
        ∧ ((s.fn j.link j.fn).cq.en = true)
        ∧ (j.link < s.links.length)
        ∧ (j.fn < (s.link j.link).fns.length)
        ∧ (Mem1.wf ramD (s.link j.link).hostMem = true))
      ∧ (∃ (s : State) (ser : Nat) (j : Job),
        (s.wnd.jobs = [j])
        ∧ (s.wnd.serials = [ser])
        ∧ (s.running = true)
        ∧ (j.phase = .fetching)
        ∧ (j.ending = none)
        ∧ (j.acks = [])
        ∧ (j.irq = false)
        ∧ ((s.fn j.link j.fn).cq.en = true)
        ∧ (j.link < s.links.length)
        ∧ (j.fn < (s.link j.link).fns.length)
        ∧ (Mem1.wf ramD (s.link j.link).hostMem = true))
      ∧ (∃ (s : State) (ser : Nat) (j : Job) (d : Nat) (b : Bytes),
        (s.wnd.jobs = [j])
        ∧ (s.wnd.serials = [ser])
        ∧ (s.running = true)
        ∧ (j.phase = .fetching)
        ∧ (j.ending = none)
        ∧ (j.acks = [])
        ∧ (j.irq = false)
        ∧ (j.sealed = false)
        ∧ (b.length = j.descLen)
        ∧ (s.graphFault j.part b = some d)
        ∧ ((s.fn j.link j.fn).cq.en = true)
        ∧ (j.link < s.links.length)
        ∧ (j.fn < (s.link j.link).fns.length)
        ∧ (Mem1.wf ramD (s.link j.link).hostMem = true))
      ∧ (∃ (s : State) (sk : Nat) (ser : Nat) (k : Job) (j : Job) (b : Bytes),
        (s.wnd.jobs = [k, j])
        ∧ (s.wnd.serials = [sk, ser])
        ∧ (sk ≠ ser)
        ∧ (s.running = true)
        ∧ (j.phase = .fetching)
        ∧ (j.sealed = false)
        ∧ (b.length = j.descLen)
        ∧ (s.graphFault j.part b = none)
        ∧ ((s.part j.part).trcWatch = 0)
        ∧ ((s.part j.part).waitSignals = [])
        ∧ (k.phase = .live)
        ∧ (k.part = j.part)
        ∧ ((s.part j.part).taskLimit < k.tasks.length + (parseGraph b).tasks))
      ∧ (∃ (s : State) (ser : Nat) (j : Job) (t : TaskSt),
        (s.wnd.jobs = [j])
        ∧ (s.wnd.serials = [ser])
        ∧ (s.running = true)
        ∧ (j.phase = .waiting)
        ∧ (j.ending = none)
        ∧ (j.tasks = [t])
        ∧ (j.edges = [])
        ∧ (j.preds = [])
        ∧ (t.st = .queued)
        ∧ (t.pred = 0xFF#8)
        ∧ (t.notBeforeMet = true)
        ∧ (t.cls = 0)
        ∧ (t.flags = 0)
        ∧ (s.mayTake j t ≠ [])
        ∧ (s.jobFits j = true)) :=
  ⟨⟨(holding fetching run0), 0, fetching, by decide +kernel⟩,
   ⟨(holding fetching run0), 0, fetching, by decide +kernel⟩,
   ⟨(holding fetching run0), 0, fetching, 0x10, (List.replicate 128 0), by decide +kernel⟩,
   ⟨((run0.modPart 0 (fun p => { p with policy := (p.policy.set 12 1).set 13 0 })).modWnd (fun w => { w with jobs := [job0 task0, fetching], serials := [0, 1], serial := 2 })), 0, 1, (job0 task0), fetching, graph1, by decide +kernel⟩,
   ⟨(holding { fetching with phase := .waiting, tasks := [task0] } run0), 0, ({ fetching with phase := .waiting, tasks := [task0] }), task0, by decide +kernel⟩⟩

/-- The hypotheses of every clause of `Obligations.RegistersAndAlu` can be met. -/
theorem witness_RegistersAndAlu :
      ∃ (c : Core),
      (c.g.length = 32)
      ∧ (c.p.length = 8) :=
  ⟨(exe 1 2 3), by decide +kernel⟩

/-- The hypotheses of every clause of `Obligations.LciArithmetic` can be met. -/
theorem witness_LciArithmetic :
      (∃ (s : State) (n : Nat) (f : FmtR) (v : BitVec 64),
        (FetchesAt s n f.guard)
        ∧ (aluFn f.fn.toNat ((s.core n).reg f.ra.toNat) ((s.core n).reg f.rb.toNat) = some v))
      ∧ (∃ (s : State) (n : Nat) (f : FmtI),
        (FetchesAt s n f.guard))
      ∧ (∃ (s : State) (n : Nat) (f : FmtI),
        (FetchesAt s n f.guard))
      ∧ (∃ (s : State) (n : Nat) (f : FmtI),
        (FetchesAt s n f.guard))
      ∧ (∃ (s : State) (n : Nat) (f : FmtI),
        (FetchesAt s n f.guard))
      ∧ (∃ (s : State) (n : Nat) (f : FmtI) (kind : Nat) (sh : Nat),
        (FetchesAt s n f.guard)
        ∧ (kind < 3)
        ∧ (sh < 64)
        ∧ (f.imm.toNat = 1024 * kind + sh))
      ∧ (∃ (s : State) (n : Nat) (f : FmtW),
        (FetchesAt s n f.guard)
        ∧ (f.zero = 0))
      ∧ (∃ (s : State) (n : Nat) (f : FmtW),
        (FetchesAt s n f.guard)
        ∧ (f.zero = 0))
      ∧ (∃ (s : State) (n : Nat) (_k : Fin 4) (f : FmtW),
        (FetchesAt s n f.guard)
        ∧ (f.zero = 0)) :=
  ⟨⟨(atExe (exe 5 3 0x100)), 1, ({ guard := 0, rd := 4, ra := 1, rb := 2, fn := 0 }), 8, by simp only [FetchesAt, Core.ready]; decide +kernel⟩,
   ⟨(atExe (exe 5 3 0x100)), 1, ({ guard := 0, rd := 4, ra := 1, imm := 0xFFF }), by simp only [FetchesAt, Core.ready]; (try dsimp only); decide +kernel⟩,
   ⟨(atExe (exe 5 3 0x100)), 1, ({ guard := 0, rd := 4, ra := 1, imm := 0xFFF }), by simp only [FetchesAt, Core.ready]; (try dsimp only); decide +kernel⟩,
   ⟨(atExe (exe 5 3 0x100)), 1, ({ guard := 0, rd := 4, ra := 1, imm := 0xFFF }), by simp only [FetchesAt, Core.ready]; (try dsimp only); decide +kernel⟩,
   ⟨(atExe (exe 5 3 0x100)), 1, ({ guard := 0, rd := 4, ra := 1, imm := 0xFFF }), by simp only [FetchesAt, Core.ready]; (try dsimp only); decide +kernel⟩,
   ⟨(atExe (exe 5 3 0x100)), 1, ({ guard := 0, rd := 4, ra := 1, imm := 2051 }), 2, 3, by simp only [FetchesAt, Core.ready]; (try dsimp only); decide +kernel⟩,
   ⟨(atExe (exe 5 3 0x100)), 1, ({ guard := 0, zero := 0, rd := 4, imm := 0xABCD }), by simp only [FetchesAt, Core.ready]; decide +kernel⟩,
   ⟨(atExe (exe 5 3 0x100)), 1, ({ guard := 0, zero := 0, rd := 4, imm := 0xABCD }), by simp only [FetchesAt, Core.ready]; decide +kernel⟩,
   ⟨(atExe (exe 5 3 0x100)), 1, 3, ({ guard := 0, zero := 0, rd := 1, imm := 0xABCD }), by simp only [FetchesAt, Core.ready]; decide +kernel⟩⟩

/-- The hypotheses of every clause of `Obligations.LciPredicatesAndBranches` can be met. -/
theorem witness_LciPredicatesAndBranches :
      (∃ (s : State) (n : Nat) (f : FmtC),
        (FetchesAt s n f.guard)
        ∧ (8 ≤ f.low.toNat / 8 % 16 ∨ f.low.toNat % 8 ≠ 0 ∨ f.comb = 3))
      ∧ (∃ (s : State) (n : Nat) (f : FmtC),
        (FetchesAt s n f.guard)
        ∧ (8 ≤ f.low.toNat / 256 ∨ f.comb = 3))
      ∧ (∃ (s : State) (n : Nat) (f : FmtP),
        (FetchesAt s n f.guard)
        ∧ (f.pfn = 7 ∨ f.zero ≠ 0))
      ∧ (∃ (s : State) (n : Nat) (f : FmtC) (r : Bool) (v : Bool),
        (FetchesAt s n f.guard)
        ∧ (f.low.toNat % 8 = 0)
        ∧ (condFn (f.low.toNat / 8 % 16) ((s.core n).reg f.ra.toNat) ((s.core n).reg (f.low.toNat / 128)) = some r)
        ∧ (combFn f.comb ((s.core n).pred f.pd.toNat) r = some v))
      ∧ (∃ (s : State) (n : Nat) (f : FmtC) (r : Bool) (v : Bool),
        (FetchesAt s n f.guard)
        ∧ (condFn (f.low.toNat / 256) ((s.core n).reg f.ra.toNat) ((BitVec.ofNat 8 f.low.toNat).signExtend 64) = some r)
        ∧ (combFn f.comb ((s.core n).pred f.pd.toNat) r = some v))
      ∧ (∃ (s : State) (n : Nat) (f : FmtP) (v : Bool),
        (FetchesAt s n f.guard)
        ∧ (f.zero = 0)
        ∧ (plogFn f.pfn f.pa f.pb ((s.core n).pred f.pa.toNat) ((s.core n).pred f.pb.toNat) = some v))
      ∧ (∃ (s : State) (n : Nat) (f : FmtX),
        (FetchesAt s n f.guard)
        ∧ (f.zero = 0)
        ∧ (f.sub = 0)
        ∧ (f.ra = 0)
        ∧ (f.low.toNat % 128 = 0))
      ∧ (∃ (s : State) (n : Nat) (f : FmtX),
        (FetchesAt s n f.guard)
        ∧ (f.zero = 0)
        ∧ (f.sub = 1)
        ∧ (f.low = 0)
        ∧ ((s.core n).p.length = 8))
      ∧ (∃ (s : State) (n : Nat) (f : FmtI),
        (s.running = true)
        ∧ (n < 192)
        ∧ (n < s.cores.length)
        ∧ ((s.core n).ready)
        ∧ ((s.core n).pc.toNat % 4 = 0)
        ∧ ((s.core n).icache.contains ((s.core n).pc.toNat % 2 ^ 48 / 256) = true)
        ∧ (∀ x ∈ (s.core n).icacheUpsets, x.1 ≠ (s.core n).pc.toNat % 2 ^ 48 / 256)
        ∧ (f.guard ≠ 0b1000#4)
        ∧ ((s.core n).guardTrue f.guard = false))
      ∧ (∃ (s : State) (n : Nat) (f : FmtB),
        (FetchesAt s n f.guard))
      ∧ (∃ (s : State) (n : Nat) (f : FmtB),
        (FetchesAt s n f.guard))
      ∧ (∃ (s : State) (n : Nat) (f : FmtR),
        (FetchesAt s n f.guard)
        ∧ (((s.core n).reg f.ra.toNat).toNat % 4 = 0)
        ∧ (f.fn = 0)
        ∧ (f.rb = 0)
        ∧ (f.rd = 0))
      ∧ (∃ (s : State) (n : Nat) (f : FmtR),
        (FetchesAt s n f.guard)
        ∧ (((s.core n).reg f.ra.toNat).toNat % 4 = 0)
        ∧ (f.fn = 1)
        ∧ (f.rb = 0)) :=
  ⟨⟨(atExe (exe 5 3 0x100)), 1, ({ guard := 0, pd := 2, comb := 0, ra := 1, low := 64 }), by simp only [FetchesAt, Core.ready]; decide +kernel⟩,
   ⟨(atExe (exe 5 3 0x100)), 1, ({ guard := 0, pd := 2, comb := 3, ra := 1, low := 5 }), by simp only [FetchesAt, Core.ready]; decide +kernel⟩,
   ⟨(atExe (exe 5 3 0x100)), 1, ({ guard := 0, pd := 2, pa := 0, pb := 1, pfn := 7, zero := 0 }), by simp only [FetchesAt, Core.ready]; decide +kernel⟩,
   ⟨(atExe (exe 5 3 0x100)), 1, ({ guard := 0, pd := 2, comb := 0, ra := 1, low := 256 }), false, false, by simp only [FetchesAt, Core.ready]; decide +kernel⟩,
   ⟨(atExe (exe 5 3 0x100)), 1, ({ guard := 0, pd := 2, comb := 2, ra := 1, low := 5 }), true, true, by simp only [FetchesAt, Core.ready]; decide +kernel⟩,
   ⟨(atExe (exe 5 3 0x100)), 1, ({ guard := 0, pd := 2, pa := 0, pb := 1, pfn := 2, zero := 0 }), true, by simp only [FetchesAt, Core.ready]; decide +kernel⟩,
   ⟨(atExe (exe 5 3 0x100)), 1, ({ guard := 0, sub := 0, zero := 0, ra := 0, low := 512 }), by simp only [FetchesAt, Core.ready]; decide +kernel⟩,
   ⟨(atExe (exe 5 3 0x100)), 1, ({ guard := 0, sub := 1, zero := 0, ra := 1, low := 0 }), by simp only [FetchesAt, Core.ready]; decide +kernel⟩,
   ⟨(atExe { exe 5 3 0 with p := List.replicate 8 true }), 1, ({ guard := 9, rd := 1, ra := 1, imm := 1 }), by simp only [Core.ready]; decide +kernel⟩,
   ⟨(atExe (exe 5 3 0x100)), 1, ({ guard := 0, off := 0x3FFFFF }), by simp only [FetchesAt, Core.ready]; decide +kernel⟩,
   ⟨(atExe (exe 5 3 0x100)), 1, ({ guard := 0, off := 2 }), by simp only [FetchesAt, Core.ready]; decide +kernel⟩,
   ⟨(atExe (exe 5 3 0x100)), 1, ({ guard := 0, rd := 0, ra := 3, rb := 0, fn := 0 }), by simp only [FetchesAt, Core.ready]; decide +kernel⟩,
   ⟨(atExe (exe 5 3 0x100)), 1, ({ guard := 0, rd := 3, ra := 3, rb := 0, fn := 1 }), by simp only [FetchesAt, Core.ready]; decide +kernel⟩⟩

/-- The hypotheses of every clause of `Obligations.LciMemory` can be met. -/
theorem witness_LciMemory :
      (∃ (s : State) (n : Nat) (f : FmtL) (size : Nat) (sg : Bool),
        (FetchesAt s n f.guard)
        ∧ (szOf f.sz false = some (size, sg))
        ∧ ((s.core n).lAddr f size % size = 0)
        ∧ ((s.core n).fetched.mayRead ((s.core n).lAddr f size) size = true)
        ∧ ((s.core n).badWords = [])
        ∧ ((s.core n).flipWords = [])
        ∧ ((s.core n).missing = [])
        ∧ ((s.core n).poison = []))
      ∧ (∃ (s : State) (n : Nat) (f : FmtL) (size : Nat),
        (FetchesAt s n f.guard)
        ∧ (szOf f.sz true = some (size, false))
        ∧ ((s.core n).lAddr f size % size = 0)
        ∧ ((s.core n).inWork ((s.core n).lAddr f size) size = true)
        ∧ (Mem1.wf ramD (s.core n).sp = true))
      ∧ (∃ (s : State) (n : Nat) (f : FmtL) (size : Nat) (sg : Bool) (e : TlbEntry),
        (FetchesAt s n f.guard)
        ∧ (szOf f.sz false = some (size, sg))
        ∧ ((s.core n).lAddr f size % size = 0)
        ∧ ((s.core n).cacheMode = false)
        ∧ ((s.core n).tlbHit (s.core n).part ((s.core n).lAddr f size % 2 ^ 48) = some e)
        ∧ (s.maySend n (e.dpa + ((s.core n).lAddr f size % 2 ^ 48 - e.base)) size = true)
        ∧ ((s.touch (e.dpa + ((s.core n).lAddr f size % 2 ^ 48 - e.base)) size false).dramPoisoned (e.dpa + ((s.core n).lAddr f size % 2 ^ 48 - e.base)) size = false)) :=
  ⟨⟨(atExe { exe 5 3 0x100 with sp := [(0xF8, 0x80), (0x100, 2)] }), 1, ({ guard := 0, rd := 4, ra := 3, sz := 4, imm := 0x1F8 }), 1, true, by simp only [FetchesAt, Core.ready]; decide +kernel⟩,
   ⟨(atExe { exe 5 3 0x100 with sp := [(0xF8, 0x80), (0x100, 2)] }), 1, ({ guard := 0, rd := 1, ra := 3, sz := 3, imm := 0x1FF }), 8, by simp only [FetchesAt, Core.ready]; decide +kernel⟩,
   ⟨((atExe { exe 5 3 0x100 with tlb := [{ part := 0, base := 0, size := 65536, dpa := 0x10000000, w := false, x := false }] }).modMem (fun m => { m with dram := [(0x10000101, 7)] })), 1, ({ guard := 0, rd := 1, ra := 3, sz := 2, imm := 0 }), 4, false, ({ part := 0, base := 0, size := 65536, dpa := 0x10000000, w := false, x := false }), by simp only [FetchesAt, Core.ready]; decide +kernel⟩⟩

/-- The hypotheses of every clause of `Obligations.LciQueues` can be met. -/
theorem witness_LciQueues :
      (∃ (s : State) (n : Nat) (f : FmtQ),
        (FetchesAt s n f.guard)
        ∧ (f.zero = 0)
        ∧ (f.queue.toNat < 5)
        ∧ (f.queue.toNat = 0 → byteAt ((s.core n).spRead ((s.core n).reg f.ra.toNat).toNat (64 * (f.units.toNat + 1))) 0 ≠ 3)
        ∧ (f.queue.toNat = 3 → n % 12 = 0)
        ∧ (((s.core n).reg f.ra.toNat).toNat % 64 = 0)
        ∧ ((s.core n).inWork ((s.core n).reg f.ra.toNat).toNat (64 * (f.units.toNat + 1)) = true)
        ∧ ((s.core n).badWords = [])
        ∧ ((s.core n).flipWords = [])
        ∧ ((s.core n).missing = [])
        ∧ ((s.core n).poison = [])
        ∧ ((((s.core n).queue f.queue.toNat).issued - ((s.core n).queue f.queue.toNat).done).toNat < 32)
        ∧ ((s.core n).queues.length = 5)
        ∧ ((s.core n).g.length = 32)
        ∧ (cmdUnits f.queue.toNat (byteAt ((s.core n).spRead ((s.core n).reg f.ra.toNat).toNat (64 * (f.units.toNat + 1))) 0) = some (f.units.toNat + 1)))
      ∧ (∃ (s : State) (n : Nat) (f : FmtQ),
        (FetchesAt s n f.guard)
        ∧ (f.zero = 0)
        ∧ (f.units = 0)
        ∧ (f.rd = 0)
        ∧ (f.queue.toNat < 5)
        ∧ (((s.core n).reg f.ra.toNat).toNat % 2 ^ 32 ≤ ((s.core n).queue f.queue.toNat).issued.toNat)
        ∧ (((s.core n).reg f.ra.toNat).toNat % 2 ^ 32 ≤ ((s.core n).queue f.queue.toNat).done.toNat))
      ∧ (∃ (s : State) (n : Nat) (f : FmtQ),
        (FetchesAt s n f.guard)
        ∧ (f.zero = 0)
        ∧ (f.units = 0)
        ∧ (f.rd = 0)
        ∧ (f.queue.toNat < 5)
        ∧ (((s.core n).reg f.ra.toNat).toNat % 2 ^ 32 ≤ ((s.core n).queue f.queue.toNat).issued.toNat)
        ∧ (((s.core n).queue f.queue.toNat).done.toNat < ((s.core n).reg f.ra.toNat).toNat % 2 ^ 32))
      ∧ (∃ (s : State) (n : Nat) (f : FmtX),
        (FetchesAt s n f.guard)
        ∧ (f.sub = 0)
        ∧ (f.zero = 0)
        ∧ (f.ra = 0)
        ∧ (f.low.toNat < 32)
        ∧ (∀ q, q < 5 → f.low.getLsbD q = true → ((s.core n).queue q).done = ((s.core n).queue q).issued))
      ∧ (∃ (s : State) (n : Nat) (q : Nat) (f : FmtX),
        (FetchesAt s n f.guard)
        ∧ (f.sub = 0)
        ∧ (f.zero = 0)
        ∧ (f.ra = 0)
        ∧ (f.low.toNat < 32)
        ∧ (q < 5)
        ∧ (f.low.getLsbD q = true)
        ∧ (((s.core n).queue q).done ≠ ((s.core n).queue q).issued))
      ∧ (∃ (s : State) (n : Nat) (f : FmtX) (v : BitVec 64),
        (FetchesAt s n f.guard)
        ∧ (f.sub = 0)
        ∧ (f.zero = 0)
        ∧ (f.ra = 0)
        ∧ (s.controlReg n (f.low.toNat % 128) = some v))
      ∧ (∃ (s : State) (n : Nat) (f : FmtX),
        (FetchesAt s n f.guard)
        ∧ (f.sub = 0)
        ∧ (f.zero = 0)
        ∧ (f.low = 0)
        ∧ (((s.core n).reg f.ra.toNat).toNat % 2 ^ 44 ≤ s.time.beat.toNat))
      ∧ (∃ (s : State) (n : Nat) (f : FmtX),
        (FetchesAt s n f.guard)
        ∧ (f.sub = 0)
        ∧ (f.zero = 0)
        ∧ (f.low = 0)
        ∧ (s.time.beat.toNat < ((s.core n).reg f.ra.toNat).toNat % 2 ^ 44)) :=
  ⟨⟨(atExe { exe 5 3 0x100 with sp := [(0x100, 2)] }), 1, ({ guard := 0, queue := 0, units := 0, ra := 3, rd := 4, zero := 0 }), by simp only [FetchesAt, Core.ready]; decide +kernel⟩,
   ⟨(atExe { exe 4 3 0x100 with queues := (List.replicate 5 ({} : EQueue)).set 1 { issued := 6, done := 4 } }), 1, ({ guard := 0, queue := 1, units := 0, ra := 1, rd := 0, zero := 0 }), by simp only [FetchesAt, Core.ready]; decide +kernel⟩,
   ⟨(atExe { exe 5 3 0x100 with queues := (List.replicate 5 ({} : EQueue)).set 1 { issued := 6, done := 4 } }), 1, ({ guard := 0, queue := 1, units := 0, ra := 1, rd := 0, zero := 0 }), by simp only [FetchesAt, Core.ready]; decide +kernel⟩,
   ⟨(atExe (exe 5 3 0x100)), 1, ({ guard := 0, sub := 0, zero := 0, ra := 0, low := 31 }), by simp only [FetchesAt, Core.ready]; decide +kernel⟩,
   ⟨(atExe { exe 5 3 0x100 with queues := (List.replicate 5 ({} : EQueue)).set 1 { issued := 6, done := 4 } }), 1, 1, ({ guard := 0, sub := 0, zero := 0, ra := 0, low := 2 }), by simp only [FetchesAt, Core.ready]; decide +kernel⟩,
   ⟨(atExe (exe 5 3 0x100)), 1, ({ guard := 0, sub := 0, zero := 0, ra := 0, low := 0x205 }), 0, by simp only [FetchesAt, Core.ready]; decide +kernel⟩,
   ⟨(atExe (exe 5 3 0x100)), 1, ({ guard := 0, sub := 0, zero := 0, ra := 0, low := 0 }), by simp only [FetchesAt, Core.ready]; decide +kernel⟩,
   ⟨(atExe (exe 5 3 0x100)), 1, ({ guard := 0, sub := 0, zero := 0, ra := 1, low := 0 }), by simp only [FetchesAt, Core.ready]; decide +kernel⟩⟩

/-- The hypotheses of every clause of `Obligations.LciTallies` can be met. -/
theorem witness_LciTallies :
      (∃ (s : State) (n : Nat) (sz : Nat) (f : FmtT),
        (FetchesAt s n f.guard)
        ∧ (f.reg = 0)
        ∧ (f.count ≠ 0)
        ∧ (((s.core n).tally f.tally.toNat).size = some sz)
        ∧ (f.count.toNat ≤ sz)
        ∧ (f.count.toNat ≤ ((s.core n).tally f.tally.toNat).filled))
      ∧ (∃ (s : State) (n : Nat) (sz : Nat) (f : FmtT),
        (FetchesAt s n f.guard)
        ∧ (f.reg = 0)
        ∧ (f.count ≠ 0)
        ∧ (((s.core n).tally f.tally.toNat).size = some sz)
        ∧ (f.count.toNat ≤ sz)
        ∧ (((s.core n).tally f.tally.toNat).filled < f.count.toNat))
      ∧ (∃ (s : State) (n : Nat) (sz : Nat) (f : FmtT),
        (FetchesAt s n f.guard)
        ∧ (f.reg = 0)
        ∧ (f.count ≠ 0)
        ∧ (((s.core n).tally f.tally.toNat).size = some sz)
        ∧ (f.count.toNat ≤ sz)
        ∧ (f.count.toNat + ((s.core n).tally f.tally.toNat).filled ≤ sz))
      ∧ (∃ (s : State) (n : Nat) (sz : Nat) (f : FmtT),
        (FetchesAt s n f.guard)
        ∧ (f.reg = 0)
        ∧ (f.count ≠ 0)
        ∧ (((s.core n).tally f.tally.toNat).size = some sz)
        ∧ (f.count.toNat ≤ sz)
        ∧ (sz < f.count.toNat + ((s.core n).tally f.tally.toNat).filled))
      ∧ (∃ (s : State) (n : Nat) (sz : Nat) (f : FmtT),
        (FetchesAt s n f.guard)
        ∧ (f.reg = 0)
        ∧ (f.count ≠ 0)
        ∧ (((s.core n).tally f.tally.toNat).size = some sz)
        ∧ (f.count.toNat ≤ sz)
        ∧ (((s.core n).tally f.tally.toNat).filled + f.count.toNat ≤ sz))
      ∧ (∃ (s : State) (n : Nat) (sz : Nat) (f : FmtT),
        (FetchesAt s n f.guard)
        ∧ (f.reg = 0)
        ∧ (f.count ≠ 0)
        ∧ (((s.core n).tally f.tally.toNat).size = some sz)
        ∧ (f.count.toNat ≤ sz)
        ∧ (f.count.toNat ≤ ((s.core n).tally f.tally.toNat).filled))
      ∧ (∃ (s : State) (n : Nat) (f : FmtT),
        (FetchesAt s n f.guard)
        ∧ (f.count = 0))
      ∧ (∃ (s : State) (n : Nat) (task : Nat) (tally : Nat) (count : Nat) (d : Bool) (f : FmtT),
        (FetchesAt s n f.guard)
        ∧ (f.count = 0)
        ∧ (task < 65536)
        ∧ (task < (s.core n).taskCount)
        ∧ (tally < 64)
        ∧ (1 ≤ count)
        ∧ (count < 256)
        ∧ (((s.core n).reg f.reg.toNat).toNat = task + tally * 2 ^ 16 + b2n d * 2 ^ 22 + count * 2 ^ 24)
        ∧ ((s.core n).stageUsed + 64 ≤ 1024 * (s.core n).stagingKib)) :=
  ⟨⟨(atExe { exe 5 3 0x100 with tallies := (List.replicate 64 ({} : Tally)).set 3 { fill := 5, drain := 2, size := some 4 } }), 1, 4, ({ guard := 0, tally := 3, reg := 0, count := 3 }), by simp only [FetchesAt, Core.ready]; decide +kernel⟩,
   ⟨(atExe { exe 5 3 0x100 with tallies := (List.replicate 64 ({} : Tally)).set 3 { fill := 5, drain := 2, size := some 4 } }), 1, 4, ({ guard := 0, tally := 3, reg := 0, count := 4 }), by simp only [FetchesAt, Core.ready]; decide +kernel⟩,
   ⟨(atExe { exe 5 3 0x100 with tallies := (List.replicate 64 ({} : Tally)).set 3 { fill := 5, drain := 2, size := some 4 } }), 1, 4, ({ guard := 0, tally := 3, reg := 0, count := 1 }), by simp only [FetchesAt, Core.ready]; decide +kernel⟩,
   ⟨(atExe { exe 5 3 0x100 with tallies := (List.replicate 64 ({} : Tally)).set 3 { fill := 5, drain := 2, size := some 4 } }), 1, 4, ({ guard := 0, tally := 3, reg := 0, count := 2 }), by simp only [FetchesAt, Core.ready]; decide +kernel⟩,
   ⟨(atExe { exe 5 3 0x100 with tallies := (List.replicate 64 ({} : Tally)).set 3 { fill := 5, drain := 2, size := some 4 } }), 1, 4, ({ guard := 0, tally := 3, reg := 0, count := 1 }), by simp only [FetchesAt, Core.ready]; decide +kernel⟩,
   ⟨(atExe { exe 5 3 0x100 with tallies := (List.replicate 64 ({} : Tally)).set 3 { fill := 5, drain := 2, size := some 4 } }), 1, 4, ({ guard := 0, tally := 3, reg := 0, count := 3 }), by simp only [FetchesAt, Core.ready]; decide +kernel⟩,
   ⟨(atExe { exe 5 3 0x100 with tallies := (List.replicate 64 ({} : Tally)).set 3 { fill := 5, drain := 2, size := some 4 } }), 1, ({ guard := 0, tally := 3, reg := 5, count := 0 }), by simp only [FetchesAt, Core.ready]; decide +kernel⟩,
   ⟨(atExe (exe 0x01430001 3 0x100)), 1, 1, 3, 1, true, ({ guard := 0, tally := 0, reg := 1, count := 0 }), by simp only [FetchesAt, Core.ready]; decide +kernel⟩⟩

/-- The hypotheses of every clause of `Obligations.LciTaskEnd` can be met. -/
theorem witness_LciTaskEnd :
      (∃ (s : State) (n : Nat) (f : FmtX),
        (FetchesAt s n f.guard)
        ∧ (f.sub = 0)
        ∧ (f.zero = 0)
        ∧ (f.ra = 0)
        ∧ (f.low = 0)
        ∧ ((s.core n).drained = false))
      ∧ (∃ (s : State) (n : Nat) (ser : Nat) (f : FmtX) (j : Job) (t : TaskSt),
        (FetchesAt s n f.guard)
        ∧ (f.sub = 0)
        ∧ (f.zero = 0)
        ∧ (f.ra = 0)
        ∧ (f.low = 0)
        ∧ ((s.core n).drained = true)
        ∧ ((s.core n).effects = [])
        ∧ ((s.core n).kind = .run)
        ∧ (s.wnd.jobs = [j])
        ∧ (s.wnd.serials = [ser])
        ∧ ((s.core n).job = ser)
        ∧ ((s.core n).task = 0)
        ∧ (j.tasks = [t])
        ∧ (t.st = .running)
        ∧ (t.pair = none)
        ∧ (t.heldGrant = false)
        ∧ (j.phase = .live)
        ∧ (j.ending = none)
        ∧ (s.runsOf ser 0 = [n]))
      ∧ (∃ (s : State) (n : Nat) (f : FmtX),
        (FetchesAt s n f.guard)
        ∧ (f.sub = 1)
        ∧ (f.zero = 0)
        ∧ (f.low = 0)
        ∧ (predValueOffset (s.core n).effects (s.core n).stageBase = none)
        ∧ ((s.core n).stageUsed + 64 ≤ 1024 * (s.core n).stagingKib))
      ∧ (∃ (s : State) (n : Nat) (off : Nat) (f : FmtX),
        (FetchesAt s n f.guard)
        ∧ (f.sub = 1)
        ∧ (f.zero = 0)
        ∧ (f.low = 0)
        ∧ (predValueOffset (s.core n).effects (s.core n).stageBase = some off))
      ∧ (∃ (s : State) (n : Nat) (ser : Nat) (f : FmtX) (j : Job) (t : TaskSt),
        (FetchesAt s n f.guard)
        ∧ (f.sub = 2)
        ∧ (f.zero = 0)
        ∧ (f.ra = 0)
        ∧ (f.low.toNat < 256)
        ∧ ((s.core n).kind = .run)
        ∧ (s.wnd.jobs = [j])
        ∧ (s.wnd.serials = [ser])
        ∧ ((s.core n).job = ser)
        ∧ ((s.core n).task = 0)
        ∧ (j.tasks = [t])
        ∧ (t.pair = none)
        ∧ (t.heldGrant = false)
        ∧ (j.phase = .live)
        ∧ (j.ending = none)
        ∧ (s.runsOf ser 0 = [n])) :=
  ⟨⟨(atExe { exe 5 3 0x100 with queues := (List.replicate 5 ({} : EQueue)).set 1 { issued := 6, done := 4 } }), 1, ({ guard := 0, sub := 0, zero := 0, ra := 0, low := 0 }), by simp only [FetchesAt, Core.ready]; decide +kernel⟩,
   ⟨(atRun (exe 5 3 0)), 1, 0, ({ guard := 0, sub := 0, zero := 0, ra := 0, low := 0 }), (job0 { task0 with st := .running }), ({ task0 with st := .running }), by simp only [FetchesAt, Core.ready]; decide +kernel⟩,
   ⟨(atExe (exe 5 3 0x100)), 1, ({ guard := 0, sub := 1, zero := 0, ra := 1, low := 0 }), by simp only [FetchesAt, Core.ready]; decide +kernel⟩,
   ⟨(atExe { exe 5 3 0x100 with effects := [.predValue true], stageUsed := 64 }), 1, (({} : Core).stageBase), ({ guard := 0, sub := 1, zero := 0, ra := 1, low := 0 }), by simp only [FetchesAt, Core.ready]; decide +kernel⟩,
   ⟨(atRun (exe 5 3 0)), 1, 0, ({ guard := 0, sub := 2, zero := 0, ra := 0, low := 0x55 }), (job0 { task0 with st := .running }), ({ task0 with st := .running }), by simp only [FetchesAt, Core.ready]; decide +kernel⟩⟩

/-- The hypotheses of every clause of `Obligations.LciExceptions` can be met. -/
theorem witness_LciExceptions :
      (∃ (s : State) (n : Nat) (f : FmtR),
        (FetchesAt s n f.guard)
        ∧ (0x16 ≤ f.fn.toNat))
      ∧ (∃ (s : State) (n : Nat) (op : BitVec 6) (f : FmtR),
        (FetchesAt s n f.guard)
        ∧ (op = 0 ∨ op = 7 ∨ 0x1F ≤ op.toNat))
      ∧ (∃ (s : State) (n : Nat) (top : BitVec 3) (f : FmtT),
        (FetchesAt s n f.guard)
        ∧ (6 ≤ top.toNat))
      ∧ (∃ (s : State) (n : Nat) (f : FmtI),
        (s.running = true)
        ∧ (n < 192)
        ∧ (n < s.cores.length)
        ∧ ((s.core n).ready)
        ∧ ((s.core n).pc.toNat % 4 = 0)
        ∧ ((s.core n).icache.contains ((s.core n).pc.toNat % 2 ^ 48 / 256) = true)
        ∧ (∀ x ∈ (s.core n).icacheUpsets, x.1 ≠ (s.core n).pc.toNat % 2 ^ 48 / 256)
        ∧ (f.guard = 0b1000#4))
      ∧ (∃ (s : State) (n : Nat) (_f : FmtI),
        (s.running = true)
        ∧ (n < 192)
        ∧ ((s.core n).ready)
        ∧ ((s.core n).pc.toNat % 4 ≠ 0))
      ∧ (∃ (s : State) (n : Nat) (f : FmtR),
        (FetchesAt s n f.guard)
        ∧ (f.fn = 0)
        ∧ (f.rb = 0)
        ∧ (f.rd = 0)
        ∧ (((s.core n).reg f.ra.toNat).toNat % 4 ≠ 0))
      ∧ (∃ (s : State) (n : Nat) (f : FmtL) (size : Nat),
        (FetchesAt s n f.guard)
        ∧ (szOf f.sz true = some (size, false))
        ∧ ((s.core n).lAddr f size % size = 0)
        ∧ ((s.core n).lAddr f size < (s.core n).resTop)) :=
  ⟨⟨(atRun (exe 5 3 0)), 1, ({ guard := 0, rd := 4, ra := 1, rb := 2, fn := 0x16 }), by simp only [FetchesAt, Core.ready]; decide +kernel⟩,
   ⟨(atRun (exe 5 3 0)), 1, 0x3F, ({ guard := 0, rd := 4, ra := 1, rb := 2, fn := 0 }), by simp only [FetchesAt, Core.ready]; decide +kernel⟩,
   ⟨(atRun (exe 5 3 0)), 1, 7, ({ guard := 0, tally := 0, reg := 1, count := 0 }), by simp only [FetchesAt, Core.ready]; decide +kernel⟩,
   ⟨(atRun (exe 5 3 0)), 1, ({ guard := 8, rd := 4, ra := 1, imm := 2 }), by simp only [Core.ready]; decide +kernel⟩,
   ⟨(atRun { exe 5 3 0 with pc := 0x40002 }), 1, ({ guard := 0, rd := 4, ra := 1, imm := 2 }), by simp only [Core.ready]; decide +kernel⟩,
   ⟨(atRun (exe 5 3 0)), 1, ({ guard := 0, rd := 0, ra := 1, rb := 0, fn := 0 }), by simp only [FetchesAt, Core.ready]; decide +kernel⟩,
   ⟨(atRun { exe 5 3 0 with resTop := 64 }), 1, ({ guard := 0, rd := 1, ra := 3, sz := 3, imm := 0 }), 8, by simp only [FetchesAt, Core.ready]; decide +kernel⟩⟩

/-- The hypotheses of every clause of `Obligations.OutputEngine` can be met. -/
theorem witness_OutputEngine :
      (∃ (s : State) (n : Nat) (x : QCmd) (rest : List QCmd) (pieces : List (Nat × Nat)),
        (HeadsQueue s n 4 x rest)
        ∧ (byteAt x.bytes 0 = 1)
        ∧ (dramWriteOk x.bytes = true)
        ∧ (byteAt x.bytes 20 < 64)
        ∧ ((s.core n).mayRead (field x.bytes 16 4) (field x.bytes 4 4) = true)
        ∧ (s.xlateRange n (s.core n).part (field x.bytes 8 8) (field x.bytes 4 4) true = (s, .inl pieces))
        ∧ ((s.core n).stageUsed + stageSize (field x.bytes 4 4) ≤ 1024 * (s.core n).stagingKib))
      ∧ (∃ (s : State) (n : Nat) (x : QCmd) (rest : List QCmd),
        (HeadsQueue s n 4 x rest)
        ∧ (byteAt x.bytes 0 = 2)
        ∧ (byteAt x.bytes 1 = 1)
        ∧ (sendOk x.bytes = true)
        ∧ (byteAt x.bytes 20 < 64)
        ∧ ((s.core n).mayRead (field x.bytes 16 4) (field x.bytes 4 4) = true)
        ∧ ((s.core n).stageUsed + stageSize (field x.bytes 4 4) ≤ 1024 * (s.core n).stagingKib))
      ∧ (∃ (s : State) (n : Nat) (x : QCmd) (rest : List QCmd),
        (HeadsQueue s n 4 x rest)
        ∧ (byteAt x.bytes 0 = 2)
        ∧ (byteAt x.bytes 1 = 2)
        ∧ (armOk x.bytes = true)
        ∧ (byteAt x.bytes 20 < 64)
        ∧ ((s.core n).stageUsed + 64 ≤ 1024 * (s.core n).stagingKib))
      ∧ (∃ (s : State) (n : Nat) (x : QCmd) (rest : List QCmd),
        (HeadsQueue s n 4 x rest)
        ∧ (byteAt x.bytes 0 = 2)
        ∧ (byteAt x.bytes 1 = 3)
        ∧ (barrierOk x.bytes = true)
        ∧ (byteAt x.bytes 20 < 64)
        ∧ ((s.core n).stageUsed + 64 ≤ 1024 * (s.core n).stagingKib)) :=
  ⟨⟨(atRun ({ inQ 4 (cmd 64 [1, 0, 0, 0, 16, 0, 0, 0, 0, 1, 0, 0, 0, 0, 0, 0, 0, 2, 0, 0]) with tlb := [{ tlb0 with dpa := 0x10000000 }], sp := [(0x201, 9)] })), 1, (cmd 64 [1, 0, 0, 0, 16, 0, 0, 0, 0, 1, 0, 0, 0, 0, 0, 0, 0, 2, 0, 0]), ([]), ([(0x10000100, 16)]), by simp only [HeadsQueue]; decide +kernel⟩,
   ⟨(atRun ({ inQ 4 (cmd 64 [2, 1, 3, 0, 16, 0, 0, 0, 0, 1, 0, 0, 0, 0, 0, 0, 0, 2, 0, 0, 0, 1, 0]) with sp := [(0x201, 9)] })), 1, (cmd 64 [2, 1, 3, 0, 16, 0, 0, 0, 0, 1, 0, 0, 0, 0, 0, 0, 0, 2, 0, 0, 0, 1, 0]), ([]), by simp only [HeadsQueue]; decide +kernel⟩,
   ⟨(atRun (inQ 4 (cmd 64 [2, 2, 3, 0, 0, 0, 0, 0, 0, 1]))), 1, (cmd 64 [2, 2, 3, 0, 0, 0, 0, 0, 0, 1]), ([]), by simp only [HeadsQueue]; decide +kernel⟩,
   ⟨(atRun (inQ 4 (cmd 64 ([2, 3, 3, 0] ++ List.replicate 19 0 ++ [1, 7, 0, 0, 0, 0, 0, 4, 1])))), 1, (cmd 64 ([2, 3, 3, 0] ++ List.replicate 19 0 ++ [1, 7, 0, 0, 0, 0, 0, 4, 1])), ([]), by simp only [HeadsQueue]; decide +kernel⟩⟩

/-- The hypotheses of every clause of `Obligations.EngineExceptions` can be met. -/
theorem witness_EngineExceptions :
      (∃ (s : State) (n : Nat) (x : QCmd) (rest : List QCmd),
        (HeadsQueue s n 4 x rest)
        ∧ (3 ≤ byteAt x.bytes 0))
      ∧ (∃ (s : State) (n : Nat) (x : QCmd) (rest : List QCmd),
        (HeadsQueue s n 1 x rest)
        ∧ (4 ≤ byteAt x.bytes 0)
        ∧ (x.finished = false)
        ∧ (x.taken = false)
        ∧ (((s.core n).queue 2).cmds = []))
      ∧ (∃ (s : State) (n : Nat) (x : QCmd) (rest : List QCmd),
        (HeadsQueue s n 0 x rest)
        ∧ (byteAt x.bytes 0 = 1)
        ∧ ((s.core n).streams.length < 8)
        ∧ ((s.core n).streamOk x.bytes = false))
      ∧ (∃ (s : State) (n : Nat) (x : QCmd) (rest : List QCmd),
        (HeadsQueue s n 4 x rest)
        ∧ (byteAt x.bytes 0 = 2)
        ∧ (byteAt x.bytes 1 = 2)
        ∧ (armOk x.bytes = true)
        ∧ (byteAt x.bytes 20 < 64)
        ∧ (1024 * (s.core n).stagingKib < (s.core n).stageUsed + 64))
      ∧ (∃ (s : State) (n : Nat) (x : QCmd) (rest : List QCmd) (k : Clash),
        (HeadsQueue s n 2 x rest)
        ∧ (byteAt x.bytes 0 = 1)
        ∧ ((s.core n).stealQuad = none)
        ∧ (k.third = none)
        ∧ (k.hiCode = 2)
        ∧ (k.loCode = 3)
        ∧ (k.hiOffset % 32 = 0)
        ∧ (k.loOffset % 32 = 0)
        ∧ (k.hiOffset < 0x600000)
        ∧ (k.hiOffset / 2 ^ 20 = k.loOffset / 2 ^ 20)
        ∧ (k.hiRead = true ∧ k.loRead = true → k.hiOffset ≠ k.loOffset)) :=
  ⟨⟨(atRun (inQ 4 (cmd 64 [3]))), 1, (cmd 64 [3]), ([]), by simp only [HeadsQueue]; decide +kernel⟩,
   ⟨(atRun (inQ 1 (cmd 64 [4]))), 1, (cmd 64 [4]), ([]), by simp only [HeadsQueue]; decide +kernel⟩,
   ⟨(atRun (inQ 0 (cmd 128 [1]))), 1, (cmd 128 [1]), ([]), by simp only [HeadsQueue]; decide +kernel⟩,
   ⟨(atRun ({ inQ 4 (cmd 64 [2, 2]) with stageUsed := 262144 })), 1, (cmd 64 [2, 2]), ([]), by simp only [HeadsQueue]; decide +kernel⟩,
   ⟨(atRun (inQ 2 (cmd 64 [1]))), 1, (cmd 64 [1]), ([]), ({ hiCode := 2, loCode := 3, hiOffset := 0, loOffset := 32, hiRead := true, loRead := true }), by simp only [HeadsQueue]; decide +kernel⟩⟩

/-- The hypotheses of every clause of `Obligations.DriftCommands` can be met. -/
theorem witness_DriftCommands :
      (∃ (s : State) (n : Nat) (x : QCmd) (rest : List QCmd),
        (HeadsQueue s n 0 x rest)
        ∧ (byteAt x.bytes 0 = 1)
        ∧ ((s.core n).streams.length < 8)
        ∧ ((s.core n).streamOk x.bytes = true))
      ∧ (∃ (s : State) (n : Nat) (x : QCmd) (rest : List QCmd),
        (HeadsQueue s n 0 x rest)
        ∧ (byteAt x.bytes 0 = 2)
        ∧ ((s.core n).streams.length < 8)
        ∧ (tallyCmdOk x.bytes = true)
        ∧ ((s.core n).tallies.length = 64)
        ∧ ((s.core n).driftDone = [])
        ∧ (((s.core n).queue 0).headSerial = ((s.core n).queue 0).done + 1)
        ∧ (∀ i, i < byteAt x.bytes 2 → ((s.core n).tally (byteAt x.bytes 1 + i)).size = none ∧ ((s.core n).tally (byteAt x.bytes 1 + i)).filled ≤ byteAt x.bytes (16 + i)))
      ∧ (∃ (s : State) (n : Nat) (x : QCmd) (rest : List QCmd),
        (HeadsQueue s n 0 x rest)
        ∧ (byteAt x.bytes 0 = 3)
        ∧ ((s.core n).streams.length < 8)
        ∧ (drModeOk x.bytes = true)
        ∧ ((s.core n).driftDone = [])
        ∧ (((s.core n).queue 0).headSerial = ((s.core n).queue 0).done + 1)) :=
  ⟨⟨(atRun (inQ 0 (stream0))), 1, stream0, ([]), by simp only [HeadsQueue]; decide +kernel⟩,
   ⟨(atRun (inQ 0 (cmd 64 ([2, 3, 2] ++ List.replicate 13 0 ++ [4, 255])))), 1, (cmd 64 ([2, 3, 2] ++ List.replicate 13 0 ++ [4, 255])), ([]), by simp only [HeadsQueue]; decide +kernel⟩,
   ⟨(atRun (inQ 0 (cmd 64 [3, 1]))), 1, (cmd 64 [3, 1]), ([]), by simp only [HeadsQueue]; decide +kernel⟩⟩

/-- The hypotheses of every clause of `Obligations.DriftData` can be met. -/
theorem witness_DriftData :
      (∃ (s : State) (n : Nat) (k : Nat) (x : Stream) (e : TlbEntry),
        (s.running = true)
        ∧ (n < s.cores.length)
        ∧ ((s.core n).phase = .executing)
        ∧ ((s.core n).streams[k]? = some x)
        ∧ (s.creditOk n = true)
        ∧ (s.streamTurn n = some k)
        ∧ (let d := parseStream x.cmd.bytes
        let va := (d.addr x.pos).toNat
        let size := d.readSize x.pos
        (gateOf d.tally = false)
        ∧ (x.pos + size < d.total)
        ∧ ((s.core n).tlbHit (s.core n).part (va % 2 ^ 48) = some e)
        ∧ ((s.touch (e.dpa + (va % 2 ^ 48 - e.base)) size false).dramPoisoned (e.dpa + (va % 2 ^ 48 - e.base)) size = false)
        ∧ (Mem1.wf ramD (s.core n).sp = true)))
      ∧ (∃ (s : State) (n : Nat),
        (s.running = true)
        ∧ ((s.core n).phase = .executing)
        ∧ ((s.core n).creditAt + 16 ≤ s.time.ticks))
      ∧ (∃ (s : State) (n : Nat),
        (s.time.ticks < (s.core n).creditAt + 16))
      ∧ (∃ (s : State) (n : Nat) (line : Nat) (dpa : Nat) (va : BitVec 64),
        (s.running = true)
        ∧ (n < s.cores.length)
        ∧ ((s.core n).phase = .executing)
        ∧ ((s.core n).stall = some (.cacheFill line dpa))
        ∧ (va.toNat / 256 = line)
        ∧ ((s.core n).cacheHit line = none)
        ∧ (s.maySend n dpa 256 = true)
        ∧ ((s.touch dpa 256 false).dramPoisoned dpa 256 = false)
        ∧ (Mem1.wf ramD (s.core n).sp = true))
      ∧ (∃ (s : State) (n : Nat) (_quad : Fin 6),
        (s.running = true)
        ∧ (n < 192)
        ∧ ((s.core n).phase = .executing)) :=
  ⟨⟨((atRun { exe 0 0 0 with streams := [{ cmd := stream0, serial := 1 }], tlb := [{ tlb0 with dpa := 0x10000000 }], sp := [(0x3FF, 1), (0x4FF, 2), (0x500, 3)] }).modMem (fun m => { m with dram := [(0x10000100, 8), (0x10000201, 7)] })), 1, 0, ({ cmd := stream0, serial := 1 }), ({ tlb0 with dpa := 0x10000000 }), by (try dsimp only); decide +kernel⟩,
   ⟨(((atRun (exe 0 0 0)).modPart 0 (fun p => { p with fetch := 0x10003#64 })).modTime (fun t => { t with ticks := 16 })), 1, by decide +kernel⟩,
   ⟨((atRun (exe 0 0 0)).modTime (fun t => { t with ticks := 15 })), 1, by decide +kernel⟩,
   ⟨((atRun { exe 0 0 0 with stall := some (.cacheFill 5 0x10000000), cacheMode := true, sp := [(0x400000, 1)] }).modMem (fun m => { m with dram := [(0x10000000, 8), (0x10000201, 7)] })), 1, 5, 0x10000000, 0x510, by decide +kernel⟩,
   ⟨(atRun (exe 0 0 0)), 1, 3, by decide +kernel⟩⟩

/-- The hypotheses of every clause of `Obligations.MatrixArray` can be met. -/
theorem witness_MatrixArray :
      (∃ (s : State) (n : Nat) (x : QCmd),
        (HeadsQueue s n 1 x [])
        ∧ (x.finished = false)
        ∧ (((s.core n).queue 2).cmds = [])
        ∧ (byteAt x.bytes 0 = 1)
        ∧ ((s.core n).loadOk x.bytes = true)
        ∧ (byteAt x.bytes 16 < 64))
      ∧ (∃ (s : State) (n : Nat) (x : QCmd) (m : StreamOp),
        (HeadsQueue s n 1 x [])
        ∧ (x.finished = false)
        ∧ (((s.core n).queue 2).cmds = [])
        ∧ (byteAt x.bytes 0 = 2)
        ∧ ((s.core n).streamOp x.bytes = some m)
        ∧ ((s.core n).streamValid x.bytes m = true)
        ∧ (gateOf m.inTally = false)
        ∧ (gateOf m.outTally = false)
        ∧ (m.rows = 1)
        ∧ (m.sink = false)
        ∧ (m.status = 0xFFFFFFFF)
        ∧ ((s.core n).pass = {}))
      ∧ (∃ (s : State) (n : Nat) (x : QCmd),
        (HeadsQueue s n 1 x [])
        ∧ (x.finished = false)
        ∧ (((s.core n).queue 2).cmds = [])
        ∧ (byteAt x.bytes 0 = 3)
        ∧ (drainOk x.bytes = true)
        ∧ (∀ l, ((s.core n).accLine l).length = 64)
        ∧ ((s.core n).stageUsed + stageSize (256 * field x.bytes 4 2) ≤ 1024 * (s.core n).stagingKib)) :=
  ⟨⟨(atRun ({ inQ 1 (load0) with sp := [(0x1005, 0x38)] })), 1, load0, by simp only [HeadsQueue]; decide +kernel⟩,
   ⟨(atRun ({ inQ 1 (streamMx) with slot0 := tile1, sp := [(0x2000, 0x40)], acc := [(0, 0x3F800000#32 :: List.replicate 63 0)] })), 1, streamMx, mxOp, by simp only [HeadsQueue]; decide +kernel⟩,
   ⟨(atRun ({ inQ 1 (drain0) with acc := [(2, 0x3F800000#32 :: List.replicate 63 0)] })), 1, drain0, by simp only [HeadsQueue]; (repeat' apply And.intro) <;> first | decide +kernel | (intro l; rfl) | (intro w h; exact absurd h (by decide +kernel)) | (intro w; decide +kernel) | (intro w h; cases h) | (intro l; show (if 2 = l then _ else _ : Line).length = 64; split <;> rfl) | exact Or.inl ⟨rfl, by decide +kernel⟩ | exact ⟨_, _, _, rfl⟩⟩⟩

/-- The hypotheses of every clause of `Obligations.FloatFormats` can be met. -/
theorem witness_FloatFormats :
      (∃ (code : Nat),
        (code < 2 ^ 32)
        ∧ (∃ n m e, Fmt.f32.val code = .fin n m e))
      ∧ (∃ (code : Nat),
        (code < 2 ^ 16)
        ∧ (∃ n m e, Fmt.bf16.val code = .fin n m e))
      ∧ (∃ (code : Nat),
        (code < 256)
        ∧ (∃ n m e, Fmt.e4m3.val code = .fin n m e))
      ∧ (∃ (code : Nat),
        (code < 256)
        ∧ (∃ n m e, Fmt.e5m2.val code = .fin n m e))
      ∧ (∃ (code : Nat),
        (code < 16))
      ∧ (∃ (x : F32) (_y : F32),
        ((fval x).isNan = true)) :=
  ⟨⟨0x80000001, by (repeat' apply And.intro) <;> first | decide +kernel | (intro l; rfl) | (intro w h; exact absurd h (by decide +kernel)) | (intro w; decide +kernel) | (intro w h; cases h) | (intro l; show (if 2 = l then _ else _ : Line).length = 64; split <;> rfl) | exact Or.inl ⟨rfl, by decide +kernel⟩ | exact ⟨_, _, _, rfl⟩⟩,
   ⟨0x7F7F, by (repeat' apply And.intro) <;> first | decide +kernel | (intro l; rfl) | (intro w h; exact absurd h (by decide +kernel)) | (intro w; decide +kernel) | (intro w h; cases h) | (intro l; show (if 2 = l then _ else _ : Line).length = 64; split <;> rfl) | exact Or.inl ⟨rfl, by decide +kernel⟩ | exact ⟨_, _, _, rfl⟩⟩,
   ⟨0xFE, by (repeat' apply And.intro) <;> first | decide +kernel | (intro l; rfl) | (intro w h; exact absurd h (by decide +kernel)) | (intro w; decide +kernel) | (intro w h; cases h) | (intro l; show (if 2 = l then _ else _ : Line).length = 64; split <;> rfl) | exact Or.inl ⟨rfl, by decide +kernel⟩ | exact ⟨_, _, _, rfl⟩⟩,
   ⟨0x01, by (repeat' apply And.intro) <;> first | decide +kernel | (intro l; rfl) | (intro w h; exact absurd h (by decide +kernel)) | (intro w; decide +kernel) | (intro w h; cases h) | (intro l; show (if 2 = l then _ else _ : Line).length = 64; split <;> rfl) | exact Or.inl ⟨rfl, by decide +kernel⟩ | exact ⟨_, _, _, rfl⟩⟩,
   ⟨15, by decide +kernel⟩,
   ⟨0xFFC00001, 0x3F800000, by decide +kernel⟩⟩

/-- The hypotheses of every clause of `Obligations.VectorCommands` can be met. -/
theorem witness_VectorCommands :
      (∃ (s : State) (n : Nat) (x : QCmd) (rest : List QCmd),
        (HeadsQueue s n 2 x rest)
        ∧ (byteAt x.bytes 0 = 1)
        ∧ ((s.core n).mapOk x.bytes = true)
        ∧ ((s.core n).gatesOpen (byteAt x.bytes 10) (byteAt x.bytes 11) 4 = true))
      ∧ (∃ (s : State) (n : Nat) (x : QCmd) (rest : List QCmd),
        (HeadsQueue s n 2 x rest)
        ∧ (byteAt x.bytes 0 = 2)
        ∧ ((s.core n).reduceOk x.bytes = true)
        ∧ ((s.core n).gatesOpen (byteAt x.bytes 10) (byteAt x.bytes 11) 4 = true))
      ∧ (∃ (s : State) (n : Nat) (x : QCmd) (rest : List QCmd),
        (HeadsQueue s n 2 x rest)
        ∧ (byteAt x.bytes 0 = 3)
        ∧ ((s.core n).normOk x.bytes = true)
        ∧ ((s.core n).gatesOpen (byteAt x.bytes 10) (byteAt x.bytes 11) 4 = true))
      ∧ (∃ (s : State) (n : Nat) (x : QCmd) (rest : List QCmd),
        (HeadsQueue s n 2 x rest)
        ∧ (byteAt x.bytes 0 = 4)
        ∧ ((s.core n).softmaxOk x.bytes = true)
        ∧ ((s.core n).gatesOpen (byteAt x.bytes 10) (byteAt x.bytes 11) 4 = true))
      ∧ (∃ (s : State) (n : Nat) (x : QCmd) (rest : List QCmd),
        (HeadsQueue s n 2 x rest)
        ∧ (byteAt x.bytes 0 = 5)
        ∧ ((s.core n).convertOk x.bytes = true)
        ∧ ((s.core n).gatesOpen (byteAt x.bytes 10) (byteAt x.bytes 11) 4 = true))
      ∧ (∃ (s : State) (n : Nat) (x : QCmd) (rest : List QCmd),
        (HeadsQueue s n 2 x rest)
        ∧ (byteAt x.bytes 0 = 9)
        ∧ ((s.core n).kvPackOk x.bytes = true)
        ∧ ((s.core n).gatesOpen (byteAt x.bytes 24) (byteAt x.bytes 25) 4 = true))
      ∧ (∃ (s : State) (n : Nat) (x : QCmd) (rest : List QCmd),
        (HeadsQueue s n 2 x rest)
        ∧ (byteAt x.bytes 0 = 1)
        ∧ (let y := vxCmd x.bytes
        ((s.core n).mapOk x.bytes = true)
        ∧ ((s.core n).gatesOpen y.inTally y.outTally 4 = true)
        ∧ (y.rows = 1)
        ∧ (y.fmtA = 6)
        ∧ (y.fmtOut = 6)
        ∧ (mapArity y.fn = 1)
        ∧ (y.status = 0xFFFFFFFF)
        ∧ (Mem1.wf ramD (s.core n).sp = true)))
      ∧ (∃ (s : State) (n : Nat) (x : QCmd) (rest : List QCmd) (op : RedOp),
        (HeadsQueue s n 2 x rest)
        ∧ (byteAt x.bytes 0 = 2)
        ∧ (let y := vxCmd x.bytes
        ((s.core n).reduceOk x.bytes = true)
        ∧ ((s.core n).gatesOpen y.inTally y.outTally 4 = true)
        ∧ (y.rows = 1)
        ∧ (y.fmtA = 6)
        ∧ (redOp y.fn = some op)
        ∧ (y.status = 0xFFFFFFFF)
        ∧ (Mem1.wf ramD (s.core n).sp = true)))
      ∧ (∃ (s : State) (n : Nat) (x : QCmd) (rest : List QCmd),
        (HeadsQueue s n 2 x rest)
        ∧ (byteAt x.bytes 0 = 4)
        ∧ (let y := vxCmd x.bytes
        ((s.core n).softmaxOk x.bytes = true)
        ∧ ((s.core n).gatesOpen y.inTally y.outTally 4 = true)
        ∧ (y.rows = 1)
        ∧ (y.fmtA = 6)
        ∧ (y.fmtOut = 6)
        ∧ (y.aux = 0xFFFFFFFF)
        ∧ (y.status = 0xFFFFFFFF)
        ∧ (Mem1.wf ramD (s.core n).sp = true)))
      ∧ (∃ (s : State) (n : Nat) (x : QCmd) (rest : List QCmd),
        (HeadsQueue s n 2 x rest)
        ∧ (byteAt x.bytes 0 = 5)
        ∧ (let y := vxCmd x.bytes
        ((s.core n).convertOk x.bytes = true)
        ∧ ((s.core n).gatesOpen y.inTally y.outTally 4 = true)
        ∧ (y.rows = 1)
        ∧ (y.fmtA = 6)
        ∧ (y.fmtOut = 5)
        ∧ (y.aux = 0xFFFFFFFF)
        ∧ (y.status = 0xFFFFFFFF)
        ∧ (Mem1.wf ramD (s.core n).sp = true))) :=
  ⟨⟨(atRun ({ inQ 2 (vx 1 0x0E 6 0 6 4 0 0x2000 0 0) with sp := [(0x1002, 0x80), (0x1003, 0x3F), (0x1007, 0xC0)] })), 1, (vx 1 0x0E 6 0 6 4 0 0x2000 0 0), ([]), by simp only [HeadsQueue]; decide +kernel⟩,
   ⟨(atRun ({ inQ 2 (vx 2 1 6 0 0 4 0 0 0 0x2000) with sp := [(0x1002, 0x80), (0x1003, 0x3F), (0x1007, 0xC0)] })), 1, (vx 2 1 6 0 0 4 0 0 0 0x2000), ([]), by simp only [HeadsQueue]; decide +kernel⟩,
   ⟨(atRun ({ inQ 2 (vx 3 1 6 6 6 4 0x1100 0x2000 0x3727C5AC 0xFFFFFFFF) with sp := [(0x1002, 0x80), (0x1003, 0x3F), (0x1007, 0xC0)] })), 1, (vx 3 1 6 6 6 4 0x1100 0x2000 0x3727C5AC 0xFFFFFFFF), ([]), by simp only [HeadsQueue]; decide +kernel⟩,
   ⟨(atRun ({ inQ 2 (vx 4 1 6 0 6 4 0 0x2000 0x3F800000 0xFFFFFFFF) with sp := [(0x1002, 0x80), (0x1003, 0x3F), (0x1007, 0xC0)] })), 1, (vx 4 1 6 0 6 4 0 0x2000 0x3F800000 0xFFFFFFFF), ([]), by simp only [HeadsQueue]; decide +kernel⟩,
   ⟨(atRun ({ inQ 2 (vx 5 0 6 0 5 4 0 0x2000 0 0xFFFFFFFF) with sp := [(0x1002, 0x80), (0x1003, 0x3F), (0x1007, 0xC0)] })), 1, (vx 5 0 6 0 5 4 0 0x2000 0 0xFFFFFFFF), ([]), by simp only [HeadsQueue]; decide +kernel⟩,
   ⟨(atRun ({ inQ 2 (kvPack0) with sp := [(0x1002, 0x80), (0x1003, 0x3F), (0x1007, 0xC0)] })), 1, kvPack0, ([]), by simp only [HeadsQueue]; decide +kernel⟩,
   ⟨(atRun ({ inQ 2 (vx 1 0x0E 6 0 6 4 0 0x2000 0 0) with sp := [(0x1002, 0x80), (0x1003, 0x3F), (0x1007, 0xC0)] })), 1, (vx 1 0x0E 6 0 6 4 0 0x2000 0 0), ([]), by simp only [HeadsQueue]; (try dsimp only); decide +kernel⟩,
   ⟨(atRun ({ inQ 2 (vx 2 1 6 0 0 4 0 0 0 0x2000) with sp := [(0x1002, 0x80), (0x1003, 0x3F), (0x1007, 0xC0)] })), 1, (vx 2 1 6 0 0 4 0 0 0 0x2000), ([]), .sum, by simp only [HeadsQueue]; (try dsimp only); decide +kernel⟩,
   ⟨(atRun ({ inQ 2 (vx 4 1 6 0 6 4 0 0x2000 0x3F800000 0xFFFFFFFF) with sp := [(0x1002, 0x80), (0x1003, 0x3F), (0x1007, 0xC0)] })), 1, (vx 4 1 6 0 6 4 0 0x2000 0x3F800000 0xFFFFFFFF), ([]), by simp only [HeadsQueue]; (try dsimp only); decide +kernel⟩,
   ⟨(atRun ({ inQ 2 (vx 5 0 6 0 5 4 0 0x2000 0 0xFFFFFFFF) with sp := [(0x1002, 0x80), (0x1003, 0x3F), (0x1007, 0xC0)] })), 1, (vx 5 0 6 0 5 4 0 0x2000 0 0xFFFFFFFF), ([]), by simp only [HeadsQueue]; (try dsimp only); decide +kernel⟩⟩

/-- The hypotheses of every clause of `Obligations.ScaleTracker` can be met. -/
theorem witness_ScaleTracker :
      (∃ (s : State) (n : Nat) (x : QCmd) (rest : List QCmd),
        (HeadsQueue s n 2 x rest)
        ∧ (byteAt x.bytes 0 = 6)
        ∧ ((s.core n).trackOk x.bytes = true)
        ∧ ((s.core n).gatesOpen (byteAt x.bytes 16) (byteAt x.bytes 17) 4 = true)
        ∧ (trackerOk ((s.core n).spRead (field x.bytes 4 4) 64) = true)
        ∧ (Mem1.wf ramD (s.core n).sp = true))
      ∧ (∃ (r : Bytes) (obs : Bytes),
        (r.length = 64)
        ∧ (obs.length = 8)
        ∧ ((fval (BitVec.ofNat 32 (field obs 0 4))).isNan = true ∨ (fval (BitVec.ofNat 32 (field obs 0 4))).isInf = true))
      ∧ (∃ (r : Bytes) (obs : Bytes) (neg : Bool) (m : Nat) (e : Int),
        (r.length = 64)
        ∧ (obs.length = 8)
        ∧ (fval (BitVec.ofNat 32 (field obs 0 4)) = .fin neg m e)
        ∧ (field obs 4 4 ≠ 0)) :=
  ⟨⟨(atRun ({ inQ 2 (track0) with sp := [(0x1000, 1), (0x1001, 1), (0x1003, 127), (0x1042, 0x80), (0x1043, 0x3F)] })), 1, track0, ([]), by simp only [HeadsQueue]; decide +kernel⟩,
   ⟨([1, 1, 0, 127, 2, 2] ++ List.replicate 58 0), ([0, 0, 0xC0, 0x7F, 0, 0, 0, 0]), by decide +kernel⟩,
   ⟨([1, 1, 0, 254, 2, 2] ++ List.replicate 58 0), ([0, 0, 0x80, 0x3F, 1, 0, 0, 0]), false, 0x800000, (-23), by decide +kernel⟩⟩

/-- The hypotheses of every clause of `Obligations.AttentionCommands` can be met. -/
theorem witness_AttentionCommands :
      (∃ (s : State) (n : Nat) (x : QCmd) (rest : List QCmd),
        (HeadsQueue s n 2 x rest)
        ∧ (byteAt x.bytes 0 = 7)
        ∧ (let a := attnCmd x.bytes
        let map := if a.mask % 2 = 1 then (s.core n).spRead a.map a.mapBytes else []
        ((s.core n).attnOk x.bytes = true)
        ∧ ((s.core n).matrixReached x = true)
        ∧ ((s.core n).gatesOpen a.inTally a.outTally 4 = true)
        ∧ (∀ i, i < a.queryTiles * a.keyTiles → maskCode a.mask map i ≠ 3 ∧ (maskCode a.mask map i = 2 → (s.core n).mayRead (a.bitmap + 2048 * partialIndex map i) 2048 = true))))
      ∧ (∃ (s : State) (n : Nat) (x : QCmd) (rest : List QCmd),
        (HeadsQueue s n 2 x rest)
        ∧ (byteAt x.bytes 0 = 8)
        ∧ (let a := attnCmd x.bytes
        let map := if a.mask % 2 = 1 then (s.core n).spRead a.map a.mapBytes else []
        ((s.core n).attnOk x.bytes = true)
        ∧ ((s.core n).matrixReached x = true)
        ∧ ((s.core n).gatesOpen a.inTally a.outTally 4 = true)
        ∧ (∀ i, i < a.queryTiles * a.keyTiles → maskCode a.mask map i ≠ 3 ∧ (maskCode a.mask map i = 2 → (s.core n).mayRead (a.bitmap + 2048 * partialIndex map i) 2048 = true))))
      ∧ (∃ (s : State) (n : Nat) (x : QCmd) (rest : List QCmd),
        (HeadsQueue s n 2 x rest)
        ∧ (byteAt x.bytes 0 = 7)
        ∧ (let a := attnCmd x.bytes
        ((s.core n).attnOk x.bytes = true)
        ∧ ((s.core n).matrixReached x = true)
        ∧ ((s.core n).gatesOpen a.inTally a.outTally 4 = true)
        ∧ (a.mask = 0)
        ∧ (a.qRows = 1)
        ∧ (a.outFmt = 6)
        ∧ (a.lseOut = false)
        ∧ (a.status = 0xFFFFFFFF)
        ∧ (Mem1.wf ramD (s.core n).sp = true)))
      ∧ (∃ (s : State) (s1 : State) (n : Nat) (x : QCmd) (rest : List QCmd) (q : Sequence),
        (HeadsQueue s n 3 x rest)
        ∧ (let a := attendCmd x.bytes
        (byteAt x.bytes 0 = 1)
        ∧ ((s.core n).attend = none)
        ∧ ((s.core n).attendOk x.bytes = true)
        ∧ ((s.core n).gatesOpen a.inTally a.outTally 5 = true)
        ∧ (s.attendRoot n a = (s1, .inl q))
        ∧ (q.tokens = 0)
        ∧ (a.mask % 2 = 0)
        ∧ (a.lseOut = false)))
      ∧ (∃ (s : State) (s1 : State) (n : Nat) (x : QCmd) (rest : List QCmd) (f : Cause),
        (HeadsQueue s n 3 x rest)
        ∧ (let a := attendCmd x.bytes
        (byteAt x.bytes 0 = 1)
        ∧ ((s.core n).attend = none)
        ∧ ((s.core n).attendOk x.bytes = true)
        ∧ ((s.core n).gatesOpen a.inTally a.outTally 5 = true)
        ∧ (s.attendRoot n a = (s1, .inr f))))
      ∧ (∃ (s : State) (s1 : State) (n : Nat) (x : QCmd) (rest : List QCmd) (h : AttendHeld),
        (HeadsQueue s n 3 x rest)
        ∧ (let a := attendCmd x.bytes
        (byteAt x.bytes 0 = 1)
        ∧ ((s.core n).attend = some h)
        ∧ (s.attendRecheck n a h = (s1, none))
        ∧ ((s.core n).gatesOpen a.inTally a.outTally 5 = true)
        ∧ (a.status = 0xFFFFFFFF)))
      ∧ (∃ (s : State) (s1 : State) (n : Nat) (x : QCmd) (rest : List QCmd) (h : AttendHeld) (f : Cause),
        (HeadsQueue s n 3 x rest)
        ∧ (byteAt x.bytes 0 = 1)
        ∧ ((s.core n).attend = some h)
        ∧ (s.attendRecheck n (attendCmd x.bytes) h = (s1, some f))) :=
  ⟨⟨(atRun ({ inQ 2 (attn0 7 0 0 0 0 0) with sp := [(0x1002, 0x80), (0x1003, 0x3F), (0x1007, 0xC0)] })), 1, (attn0 7 0 0 0 0 0), ([]), by simp only [HeadsQueue]; (try dsimp only); decide +kernel⟩,
   ⟨(atRun ({ inQ 2 (attn0 8 0x1500 0x1600 0x1700 0x1800 0x1400) with sp := [(0x1002, 0x80), (0x1003, 0x3F), (0x1007, 0xC0)] })), 1, (attn0 8 0x1500 0x1600 0x1700 0x1800 0x1400), ([]), by simp only [HeadsQueue]; (try dsimp only); decide +kernel⟩,
   ⟨(atRun ({ inQ 2 (attn0 7 0 0 0 0 0) with sp := [(0x1001, 0x3F), (0x1101, 0x40), (0x1201, 0x40), (0x1300, 5)] })), 1, (attn0 7 0 0 0 0 0), ([]), by simp only [HeadsQueue]; (try dsimp only); decide +kernel⟩,
   ⟨((putCore 12 { inQ 3 attend0 with tlb := [{ tlb0 with dpa := 0x10000000 }], pillars := [pillar0.setSlot 0 (.live 0)], resTop := 0x2000, sp := [(0x3005, 1), (0x3040, 1)] } run0).modMem (fun m => { m with dram := seqDram })), ((((putCore 12 { inQ 3 attend0 with tlb := [{ tlb0 with dpa := 0x10000000 }], pillars := [pillar0.setSlot 0 (.live 0)], resTop := 0x2000, sp := [(0x3005, 1), (0x3040, 1)] } run0).modMem (fun m => { m with dram := seqDram })).attendRoot 12 (attendCmd attend0.bytes)).1), 12, attend0, ([]), seq0, by simp only [HeadsQueue]; (try dsimp only); decide +kernel⟩,
   ⟨((putCore 12 { inQ 3 attend0 with tlb := [{ tlb0 with dpa := 0x10000000 }], pillars := [pillar0.setSlot 0 (.live 0)], resTop := 0x2000, sp := [(0x3005, 1), (0x3040, 1)] } run0).modMem (fun m => { m with dram := [] })), ((((putCore 12 { inQ 3 attend0 with tlb := [{ tlb0 with dpa := 0x10000000 }], pillars := [pillar0.setSlot 0 (.live 0)], resTop := 0x2000, sp := [(0x3005, 1), (0x3040, 1)] } run0).modMem (fun m => { m with dram := [] })).attendRoot 12 (attendCmd attend0.bytes)).1), 12, attend0, ([]), (.kvTable 3 0x100), by simp only [HeadsQueue]; (try dsimp only); decide +kernel⟩,
   ⟨((putCore 12 { inQ 3 attend0 with attend := some { root := 0x1000, gen := 1, writes := [(0x3000, [1, 2])] }, tlb := [{ tlb0 with dpa := 0x10000000 }], pillars := [pillar0.setSlot 0 (.live 0)], resTop := 0x2000, sp := [(0x3005, 1), (0x3040, 1)] } run0).modMem (fun m => { m with dram := seqDram })), ((((putCore 12 { inQ 3 attend0 with attend := some { root := 0x1000, gen := 1, writes := [(0x3000, [1, 2])] }, tlb := [{ tlb0 with dpa := 0x10000000 }], pillars := [pillar0.setSlot 0 (.live 0)], resTop := 0x2000, sp := [(0x3005, 1), (0x3040, 1)] } run0).modMem (fun m => { m with dram := seqDram })).attendRecheck 12 (attendCmd attend0.bytes) { root := 0x1000, gen := 1, writes := [(0x3000, [1, 2])] }).1), 12, attend0, ([]), ({ root := 0x1000, gen := 1, writes := [(0x3000, [1, 2])] }), by simp only [HeadsQueue]; (try dsimp only); decide +kernel⟩,
   ⟨((putCore 12 { inQ 3 attend0 with attend := some { root := 0x1000, gen := 2, writes := [(0x3000, [1, 2])] }, tlb := [{ tlb0 with dpa := 0x10000000 }], pillars := [pillar0.setSlot 0 (.live 0)], resTop := 0x2000, sp := [(0x3005, 1), (0x3040, 1)] } run0).modMem (fun m => { m with dram := seqDram })), ((((putCore 12 { inQ 3 attend0 with attend := some { root := 0x1000, gen := 2, writes := [(0x3000, [1, 2])] }, tlb := [{ tlb0 with dpa := 0x10000000 }], pillars := [pillar0.setSlot 0 (.live 0)], resTop := 0x2000, sp := [(0x3005, 1), (0x3040, 1)] } run0).modMem (fun m => { m with dram := seqDram })).attendRecheck 12 (attendCmd attend0.bytes) { root := 0x1000, gen := 2, writes := [(0x3000, [1, 2])] }).1), 12, attend0, ([]), ({ root := 0x1000, gen := 2, writes := [(0x3000, [1, 2])] }), (.kvTable 1 0x100), by simp only [HeadsQueue]; decide +kernel⟩⟩

/-- The hypotheses of every clause of `Obligations.ResidentCommands` can be met. -/
theorem witness_ResidentCommands :
      (∃ (s : State) (n : Nat) (x : QCmd) (rest : List QCmd),
        (HeadsQueue s n 2 x rest)
        ∧ (byteAt x.bytes 0 = 0x10)
        ∧ (byteAt x.bytes 1 = 1)
        ∧ ((s.core n).residentCommon x.bytes = true)
        ∧ (s.defineOk n x.bytes = true)
        ∧ ((s.core n).gatesOpen (byteAt x.bytes 3) (byteAt x.bytes 4) 4 = true))
      ∧ (∃ (s : State) (n : Nat) (x : QCmd) (rest : List QCmd) (p : Pillar),
        (HeadsQueue s n 2 x rest)
        ∧ (let b := x.bytes
        let c := s.core n
        (byteAt b 0 = 0x10)
        ∧ (byteAt b 1 = 2)
        ∧ (c.viewPillar (byteAt b 2) = some p)
        ∧ (c.residentCommon b = true)
        ∧ (c.gatesOpen (byteAt b 3) (byteAt b 4) 4 = true)
        ∧ (zeroBytes b 16 127 = true)))
      ∧ (∃ (s : State) (n : Nat) (x : QCmd) (rest : List QCmd) (p : Pillar),
        (HeadsQueue s n 2 x rest)
        ∧ (let b := x.bytes
        let c := s.core n
        (byteAt b 0 = 0x10)
        ∧ (byteAt b 1 = 5)
        ∧ (c.viewPillar (byteAt b 2) = some p)
        ∧ (c.residentCommon b = true)
        ∧ (c.gatesOpen (byteAt b 3) (byteAt b 4) 4 = true)
        ∧ (zeroBytes b 20 127 = true)
        ∧ (field b 16 4 < 0xFFFFFFFF)
        ∧ (∀ w, p.newest = some w → w < field b 16 4)
        ∧ (∀ w, p.slotState (field b 16 4) ≠ .live w)))
      ∧ (∃ (s : State) (n : Nat) (x : QCmd) (rest : List QCmd) (p : Pillar),
        (HeadsQueue s n 2 x rest)
        ∧ (let b := x.bytes
        let c := s.core n
        (byteAt b 0 = 0x10)
        ∧ (byteAt b 1 = 6)
        ∧ (c.viewPillar (byteAt b 2) = some p)
        ∧ (c.residentCommon b = true)
        ∧ (c.gatesOpen (byteAt b 3) (byteAt b 4) 4 = true)
        ∧ (zeroBytes b 20 127 = true)
        ∧ (field b 16 4 < 0xFFFFFFFF)
        ∧ (p.slotState (field b 16 4) = .live (field b 16 4))))
      ∧ (∃ (s : State) (n : Nat) (x : QCmd) (rest : List QCmd) (p : Pillar),
        (HeadsQueue s n 2 x rest)
        ∧ (let b := x.bytes
        let c := s.core n
        (byteAt b 0 = 0x10)
        ∧ (byteAt b 1 = 9)
        ∧ (c.viewPillar (byteAt b 2) = some p)
        ∧ (c.residentCommon b = true)
        ∧ (c.gatesOpen (byteAt b 3) (byteAt b 4) 4 = true)
        ∧ (s.stashAllowed n p = true)
        ∧ (keyOk b 20 = true)))
      ∧ (∃ (s : State) (n : Nat) (x : QCmd) (rest : List QCmd) (p : Pillar),
        (HeadsQueue s n 2 x rest)
        ∧ (let b := x.bytes
        let c := s.core n
        (byteAt b 0 = 0x10)
        ∧ (byteAt b 1 = 3)
        ∧ (c.viewPillar (byteAt b 2) = some p)
        ∧ (c.residentCommon b = true)
        ∧ (field b 8 4 = 0xFFFFFFFF)
        ∧ (c.gatesOpen (byteAt b 3) (byteAt b 4) 4 = true)
        ∧ (Mem1.wf ramD c.sp = true)
        ∧ (field b 16 4 < 0xFFFFFFFF)
        ∧ (∀ w, p.slotState (field b 16 4) ≠ .live w)
        ∧ (32 ∣ field b 20 4)
        ∧ (1 ≤ field b 24 4)
        ∧ (32 ∣ field b 28 4)
        ∧ (field b 28 4 + field b 24 4 ≤ p.slotBytes)
        ∧ (zeroBytes b 32 127 = true)
        ∧ (c.inWork (field b 20 4) (field b 24 4) = true)))
      ∧ (∃ (s : State) (n : Nat) (x : QCmd) (rest : List QCmd) (p : Pillar),
        (HeadsQueue s n 2 x rest)
        ∧ (let b := x.bytes
        let c := s.core n
        (byteAt b 0 = 0x10)
        ∧ (byteAt b 1 = 4)
        ∧ (c.viewPillar (byteAt b 2) = some p)
        ∧ (c.residentCommon b = true)
        ∧ (field b 8 4 = 0xFFFFFFFF)
        ∧ (c.gatesOpen (byteAt b 3) (byteAt b 4) 4 = true)
        ∧ (c.stepOk p b = true)
        ∧ (∀ w, p.slotState (field b 20 4) ≠ .live w)))
      ∧ (∃ (s : State) (n : Nat) (k : Nat) (x : QCmd) (rest : List QCmd) (p : Pillar),
        (HeadsQueue s n 2 x rest)
        ∧ (let b := x.bytes
        let c := s.core n
        (byteAt b 0 = 0x10)
        ∧ (byteAt b 1 = 7)
        ∧ (c.viewPillar (byteAt b 2) = some p)
        ∧ (c.residentCommon b = true)
        ∧ (field b 8 4 = 0xFFFFFFFF)
        ∧ (c.gatesOpen (byteAt b 3) (byteAt b 4) 4 = true)
        ∧ (Mem1.wf ramD c.sp = true)
        ∧ (s.stashAllowed n p = true)
        ∧ (keyOk b 28 = true)
        ∧ (32 ∣ field b 20 4)
        ∧ (1 ≤ field b 24 4)
        ∧ (field b 24 4 ≤ p.entryBytes)
        ∧ (c.inWork (field b 20 4) (field b 24 4) = true)
        ∧ (c.keyTaken p (c.stashKey b) = false)
        ∧ (p.freeScratch = some k)))
      ∧ (∃ (s : State) (n : Nat) (x : QCmd) (rest : List QCmd) (p : Pillar),
        (HeadsQueue s n 2 x rest)
        ∧ (let b := x.bytes
        let c := s.core n
        (byteAt b 0 = 0x10)
        ∧ (byteAt b 1 = 8)
        ∧ (c.viewPillar (byteAt b 2) = some p)
        ∧ (c.residentCommon b = true)
        ∧ (field b 8 4 = 0xFFFFFFFF)
        ∧ (c.gatesOpen (byteAt b 3) (byteAt b 4) 4 = true)
        ∧ (Mem1.wf ramD c.sp = true)
        ∧ (s.stashAllowed n p = true)
        ∧ (keyOk b 24 = true)
        ∧ (16 ∣ field b 20 4)
        ∧ (c.inWork (field b 20 4) 16 = true))) :=
  ⟨⟨(putCore 1 (inQ 2 (opt 1 (leBytes 4 0 ++ leBytes 4 256 ++ [2, 0, 1, 0] ++ leBytes 4 256))) (holding (job0 { task0 with st := .running, flags := 4, coreFix := 1 }) run0)), 1, (opt 1 (leBytes 4 0 ++ leBytes 4 256 ++ [2, 0, 1, 0] ++ leBytes 4 256)), ([]), by simp only [HeadsQueue]; decide +kernel⟩,
   ⟨((atPillar (inQ 2 (opt 2 [])))), 1, (opt 2 []), ([]), pillar0, by simp only [HeadsQueue]; (try dsimp only); decide +kernel⟩,
   ⟨((atPillar (inQ 2 (opt 5 (leBytes 4 1))))), 1, (opt 5 (leBytes 4 1)), ([]), pillar0, by simp only [HeadsQueue]; (try dsimp only); (repeat' apply And.intro) <;> first | decide +kernel | (intro l; rfl) | (intro w h; exact absurd h (by decide +kernel)) | (intro w; decide +kernel) | (intro w h; cases h) | (intro l; show (if 2 = l then _ else _ : Line).length = 64; split <;> rfl) | exact Or.inl ⟨rfl, by decide +kernel⟩ | exact ⟨_, _, _, rfl⟩⟩,
   ⟨((atPillar (inQ 2 (opt 6 (leBytes 4 1)))).modCore 1 (fun c => { c with pillars := [pillar0.setSlot 1 (.live 1)] })), 1, (opt 6 (leBytes 4 1)), ([]), (pillar0.setSlot 1 (.live 1)), by simp only [HeadsQueue]; (try dsimp only); decide +kernel⟩,
   ⟨((atPillar (inQ 2 (opt 9 [5])))), 1, (opt 9 [5]), ([]), pillar0, by simp only [HeadsQueue]; (try dsimp only); decide +kernel⟩,
   ⟨((atPillar ({ inQ 2 (opt 3 (leBytes 4 1 ++ leBytes 4 0x5000 ++ leBytes 4 40 ++ leBytes 4 32)) with sp := [(0x5001, 7), (0x5027, 9)] }))), 1, (opt 3 (leBytes 4 1 ++ leBytes 4 0x5000 ++ leBytes 4 40 ++ leBytes 4 32)), ([]), pillar0, by simp only [HeadsQueue]; (try dsimp only); (repeat' apply And.intro) <;> first | decide +kernel | (intro l; rfl) | (intro w h; exact absurd h (by decide +kernel)) | (intro w; decide +kernel) | (intro w h; cases h) | (intro l; show (if 2 = l then _ else _ : Line).length = 64; split <;> rfl) | exact Or.inl ⟨rfl, by decide +kernel⟩ | exact ⟨_, _, _, rfl⟩⟩,
   ⟨((atPillar ({ inQ 2 (step0) with sp := [(0x5002, 0x80), (0x5003, 0x3F), (0x5103, 0x3F)] }))), 1, step0, ([]), pillar0, by simp only [HeadsQueue]; (try dsimp only); (repeat' apply And.intro) <;> first | decide +kernel | (intro l; rfl) | (intro w h; exact absurd h (by decide +kernel)) | (intro w; decide +kernel) | (intro w h; cases h) | (intro l; show (if 2 = l then _ else _ : Line).length = 64; split <;> rfl) | exact Or.inl ⟨rfl, by decide +kernel⟩ | exact ⟨_, _, _, rfl⟩⟩,
   ⟨((atPillar ({ inQ 2 (opt 7 ([5, 0, 0, 0] ++ leBytes 4 0x5000 ++ leBytes 4 40)) with sp := [(0x5001, 7), (0x5027, 9)] }))), 1, 0, (opt 7 ([5, 0, 0, 0] ++ leBytes 4 0x5000 ++ leBytes 4 40)), ([]), pillar0, by simp only [HeadsQueue]; (try dsimp only); decide +kernel⟩,
   ⟨((atPillar ({ inQ 2 (opt 8 ([5, 0, 0, 0] ++ leBytes 4 0x5000)) with sp := [(0x5001, 7), (0x5027, 9)] }))), 1, (opt 8 ([5, 0, 0, 0] ++ leBytes 4 0x5000)), ([]), pillar0, by simp only [HeadsQueue]; (try dsimp only); decide +kernel⟩⟩

/-- The hypotheses of every clause of `Obligations.ResidentGrant` can be met. -/
theorem witness_ResidentGrant :
      (∃ (c : Core) (p : Pillar) (_v : Nat),
        (c.pillars = [p])
        ∧ (p.part = c.part)
        ∧ (p.slots ≠ []))
      ∧ (∃ (c : Core) (p : Pillar) (v : Nat),
        (c.pillars = [p])
        ∧ (p.part = c.part)
        ∧ (p.slots ≠ [])
        ∧ (p.slotState v = .live v ∨ p.slotState v = .building))
      ∧ (∃ (c : Core) (p : Pillar) (_k : Nat) (_pl : StashPlace) (_len : Nat),
        (c.pillars = [p])
        ∧ (p.part = c.part))
      ∧ (∃ (c : Core) (p : Pillar) (_k : Nat),
        (c.pillars = [p])
        ∧ (p.part = c.part))
      ∧ (∃ (c : Core) (p : Pillar),
        (c.pillars = [p])
        ∧ (p.part = c.part)
        ∧ (Mem1.wf ramD c.sp = true)) :=
  ⟨⟨({ pillars := [{ pillar0 with slots := [{ st := .live 2 }, { st := .building }], newest := some 2, stash := [{ key := 5, place := .scratch 0, length := 8 }] }], sp := [(3, 1), (9000, 2)] }), ({ pillar0 with slots := [{ st := .live 2 }, { st := .building }], newest := some 2, stash := [{ key := 5, place := .scratch 0, length := 8 }] }), 3, by decide +kernel⟩,
   ⟨({ pillars := [{ pillar0 with slots := [{ st := .live 2 }, { st := .building }], newest := some 2, stash := [{ key := 5, place := .scratch 0, length := 8 }] }], sp := [(3, 1), (9000, 2)] }), ({ pillar0 with slots := [{ st := .live 2 }, { st := .building }], newest := some 2, stash := [{ key := 5, place := .scratch 0, length := 8 }] }), 3, by decide +kernel⟩,
   ⟨({ pillars := [{ pillar0 with slots := [{ st := .live 2 }, { st := .building }], newest := some 2, stash := [{ key := 5, place := .scratch 0, length := 8 }] }], sp := [(3, 1), (9000, 2)] }), ({ pillar0 with slots := [{ st := .live 2 }, { st := .building }], newest := some 2, stash := [{ key := 5, place := .scratch 0, length := 8 }] }), 6, (.scratch 1), 8, by decide +kernel⟩,
   ⟨({ pillars := [{ pillar0 with slots := [{ st := .live 2 }, { st := .building }], newest := some 2, stash := [{ key := 5, place := .scratch 0, length := 8 }] }], sp := [(3, 1), (9000, 2)] }), ({ pillar0 with slots := [{ st := .live 2 }, { st := .building }], newest := some 2, stash := [{ key := 5, place := .scratch 0, length := 8 }] }), 5, by decide +kernel⟩,
   ⟨({ pillars := [{ pillar0 with slots := [{ st := .live 2 }, { st := .building }], newest := some 2, stash := [{ key := 5, place := .scratch 0, length := 8 }] }], sp := [(3, 1), (9000, 2)] }), ({ pillar0 with slots := [{ st := .live 2 }, { st := .building }], newest := some 2, stash := [{ key := 5, place := .scratch 0, length := 8 }] }), by decide +kernel⟩⟩

/-- The hypotheses of every clause of `Obligations.MemoryAccess` can be met. -/
theorem witness_MemoryAccess :
      (∃ (s : State) (n : Nat) (id : Nat) (dpa : Nat) (w : Bool),
        (s.running = true)
        ∧ (s.mesh.injectStopped = false)
        ∧ (n < 192)
        ∧ (n < s.cores.length)
        ∧ ((s.core n).phase ≠ .idle)
        ∧ (s.accessOk (some (s.core n).part) dpa = true)
        ∧ ((s.core n).slotFree id dpa = true)
        ∧ (let a : Access := { who := .core n, slot := id, block := dpa / 256, part := some (s.core n).part, write := w }
        (s.hitsNow a = true)))
      ∧ (∃ (s : State) (n : Nat) (id : Nat) (dpa : Nat) (w : Bool),
        (s.running = true)
        ∧ (s.mesh.injectStopped = false)
        ∧ (n < 192)
        ∧ (n < s.cores.length)
        ∧ ((s.core n).phase ≠ .idle)
        ∧ (s.accessOk (some (s.core n).part) dpa = true)
        ∧ ((s.core n).slotFree id dpa = true)
        ∧ (let a : Access := { who := .core n, slot := id, block := dpa / 256, part := some (s.core n).part, write := w }
        let x := s.bank (s.accessBank a).1 (s.accessBank a).2
        (s.hitsNow a = false)
        ∧ (x.used true < 32)))
      ∧ (∃ (s : State) (n : Nat) (id : Nat) (dpa : Nat) (w : Bool),
        (s.running = true)
        ∧ (s.mesh.injectStopped = false)
        ∧ (n < 192)
        ∧ (n < s.cores.length)
        ∧ ((s.core n).phase ≠ .idle)
        ∧ (s.accessOk (some (s.core n).part) dpa = true)
        ∧ ((s.core n).slotFree id dpa = true)
        ∧ (let a : Access := { who := .core n, slot := id, block := dpa / 256, part := some (s.core n).part, write := w }
        let x := s.bank (s.accessBank a).1 (s.accessBank a).2
        (s.hitsNow a = false)
        ∧ (32 ≤ x.used true)
        ∧ (.core n ∉ x.wake)))
      ∧ (∃ (s : State) (q : Nat) (id : Nat) (dpa : Nat) (part : Option Nat) (w : Bool),
        (s.running = true)
        ∧ (s.mesh.injectStopped = false)
        ∧ (s.accessOk part dpa = true)
        ∧ (s.hitsNow { who := .agent q, slot := id, block := dpa / 256, part := part, write := w } = true))
      ∧ (∃ (s : State) (q : Nat) (id : Nat) (dpa : Nat) (part : Option Nat) (w : Bool),
        (s.running = true)
        ∧ (s.mesh.injectStopped = false)
        ∧ (s.accessOk part dpa = true)
        ∧ (let a : Access := { who := .agent q, slot := id, block := dpa / 256, part := part, write := w }
        let x := s.bank (s.accessBank a).1 (s.accessBank a).2
        (s.hitsNow a = false)
        ∧ (x.used false < 4)))
      ∧ (∃ (s : State) (q : Nat) (id : Nat) (dpa : Nat) (part : Option Nat) (w : Bool),
        (s.running = true)
        ∧ (s.mesh.injectStopped = false)
        ∧ (s.accessOk part dpa = true)
        ∧ (let a : Access := { who := .agent q, slot := id, block := dpa / 256, part := part, write := w }
        let x := s.bank (s.accessBank a).1 (s.accessBank a).2
        (s.hitsNow a = false)
        ∧ (4 ≤ x.used false)
        ∧ (.agent q ∉ x.wake))) :=
  ⟨⟨((atRun (exe 0 0 0)).modMem (fun m => { m with msc := [{ block := 0x120000, way := 0, part := some 0 }] })), 1, 3, 0x12000000, true, by (try dsimp only); decide +kernel⟩,
   ⟨(atRun (exe 0 0 0)), 1, 3, 0x12000000, true, by (try dsimp only); decide +kernel⟩,
   ⟨(banked { coreQ := List.replicate 32 { acc0 with who := .core 2 } } (atRun (exe 0 0 0))), 1, 3, 0x12000000, true, by (try dsimp only); decide +kernel⟩,
   ⟨((atRun (exe 0 0 0)).modMem (fun m => { m with msc := [{ block := 0x120000, way := 0, part := some 0 }] })), 3, 3, 0x12000000, ((some 0)), false, by decide +kernel⟩,
   ⟨(atRun (exe 0 0 0)), 3, 3, 0x12000000, none, true, by (try dsimp only); decide +kernel⟩,
   ⟨(banked { edgeQ := List.replicate 4 { acc0 with who := .agent 2 } } (atRun (exe 0 0 0))), 3, 3, 0x12000000, ((some 0)), true, by (try dsimp only); decide +kernel⟩⟩

/-- The hypotheses of every clause of `Obligations.BankService` can be met. -/
theorem witness_BankService :
      (∃ (s : State) (ch : Fin 64) (b : Fin 16) (a : Access) (n : Nat) (p : Nat) (way : Nat),
        (s.running = true)
        ∧ ((s.bank ch b).coreQ = [a])
        ∧ ((s.bank ch b).edgeQ = [])
        ∧ ((s.bank ch b).wake = [])
        ∧ (a.who = .core n)
        ∧ (a.scrub = false)
        ∧ (s.mem.line a.block = none)
        ∧ (s.dpaPart (256 * a.block) = some p)
        ∧ (s.victim p a.block = some (way, none))
        ∧ (∀ x ∈ s.mem.bad, x / 8 ≠ s.remap (256 * a.block) / 256 ∧ ∀ y, y < 8 → x ≠ s.burstOf (8 * a.block + y)))
      ∧ (∃ (s : State) (ch : Fin 64) (b : Fin 16) (n : Nat),
        (s.running = true)
        ∧ ((s.bank ch b).reserved = [.core n])
        ∧ (s.isFenced n = false)
        ∧ (s.wnd.clusters.getD (clusterOf n) .stopped = .running)
        ∧ ((s.core n).slots = []))
      ∧ (∃ (s : State) (n : Nat) (a : Access) (ch : Fin 64) (b : Fin 16) (y : ReqSlot),
        (s.running = true)
        ∧ (n < s.cores.length)
        ∧ (s.isFenced n = false)
        ∧ (s.wnd.clusters.getD (clusterOf n) .stopped = .running)
        ∧ ((s.bank ch b).reserved = [.core n])
        ∧ ((s.core n).slots = [y])
        ∧ (y.waiting = true)
        ∧ (a = { who := .core n, slot := y.id, block := y.block, part := y.part, write := y.write })
        ∧ (s.accessBank a = (ch.val, b.val))
        ∧ (s.mem.line y.block = none))
      ∧ (∃ (s : State) (ch : Fin 64) (b : Fin 16) (n : Nat),
        (s.running = true)
        ∧ (.core n ∈ (s.bank ch b).reserved)
        ∧ (s.isFenced n = false)
        ∧ (s.wnd.clusters.getD (clusterOf n) .stopped ≠ .running))
      ∧ (∃ (s : State) (ch : Fin 64) (b : Fin 16) (n : Nat),
        (s.running = true)
        ∧ (n < s.cores.length)
        ∧ (.core n ∈ (s.bank ch b).reserved)
        ∧ (s.isFenced n = true))
      ∧ (∃ (s : State) (ch : Fin 64) (b : Fin 16) (q : Nat) (a : Access),
        (s.running = true)
        ∧ ((s.bank ch b).reserved = [.agent q])
        ∧ ((s.bank ch b).agentWait = [a])
        ∧ (a.who = .agent q)
        ∧ (s.accessBank a = (ch.val, b.val))
        ∧ (s.hitsNow a = false))
      ∧ (∃ (s : State) (ch : Fin 64) (b : Fin 16) (r : Requester),
        (s.running = true)
        ∧ ((s.bank ch b).reserved = [r])
        ∧ ((s.bank ch b).wake = []))
      ∧ (∃ (s : State) (_ch : Fin 64) (_b : Fin 16) (_rfm : Bool),
        (s.running = true))
      ∧ (∃ (s : State) (n : Nat) (id : Nat) (y : ReqSlot),
        (n < s.cores.length)
        ∧ ((s.core n).slots.find? (fun z => z.id == id) = some y)
        ∧ (y.waiting = false)
        ∧ ((s.bank y.channel y.bank).coreQ = []))
      ∧ (∃ (s : State) (s1 : State) (n : Nat) (b : Nat) (sz : Nat) (d : Nat) (w : Bool) (x : Bool) (_k : AccessKind) (va : BitVec 64),
        (s.running = true)
        ∧ (n < 192)
        ∧ (n < s.cores.length)
        ∧ ((s.core n).phase = .executing)
        ∧ (s.maySend n 0 0 = true)
        ∧ ((s.core n).tlbHit (s.core n).part (va.toNat % 2 ^ 48) = none)
        ∧ (s.walk (halfOf n) (s.core n).part (va.toNat % 2 ^ 48) = (s1, .page b sz d w x))
        ∧ (s1.cores = s.cores))
      ∧ (∃ (s : State) (n : Nat) (_k : AccessKind) (va : BitVec 64) (e : TlbEntry),
        (s.running = true)
        ∧ (n < 192)
        ∧ ((s.core n).phase = .executing)
        ∧ (s.maySend n 0 0 = true)
        ∧ ((s.core n).tlbHit (s.core n).part (va.toNat % 2 ^ 48) = some e)) :=
  ⟨⟨(banked { coreQ := [acc0] } run0), 8, 1, acc0, 1, 0, 0, by decide +kernel⟩,
   ⟨((banked { reserved := [.core 1] } run0).modWnd (fun w => { w with clusters := w.clusters.set 0 .running })), 8, 1, 1, by decide +kernel⟩,
   ⟨((putCore 1 { slots := [{ id := 2, block := 0x120000, channel := 8, bank := 1, part := some 0, write := true, waiting := true }] } (banked { reserved := [.core 1] } run0)).modWnd (fun w => { w with clusters := w.clusters.set 0 .running })), 1, ({ acc0 with slot := 2, part := some 0 }), 8, 1, ({ id := 2, block := 0x120000, channel := 8, bank := 1, part := some 0, write := true, waiting := true }), by decide +kernel⟩,
   ⟨(banked { reserved := [.core 1] } run0), 8, 1, 1, by decide +kernel⟩,
   ⟨((banked { reserved := [.core 1] } run0).modWnd (fun w => { w with fenced := [1] })), 8, 1, 1, by decide +kernel⟩,
   ⟨(banked { reserved := [.agent 3], agentWait := [{ acc0 with who := .agent 3 }] } run0), 8, 1, 3, ({ acc0 with who := .agent 3 }), by decide +kernel⟩,
   ⟨(banked { reserved := [.core 1] } run0), 8, 1, (.core 1), by decide +kernel⟩,
   ⟨(banked { openRow := some 5 } run0), 8, 1, true, by decide +kernel⟩,
   ⟨(putCore 1 { slots := [{ id := 2, block := 0x120000, channel := 8, bank := 1, part := some 0, write := true }] } run0), 1, 2, ({ id := 2, block := 0x120000, channel := 8, bank := 1, part := some 0, write := true }), by decide +kernel⟩,
   ⟨(paged (atRun (exe 0 0 0))), (((paged (atRun (exe 0 0 0))).walk (halfOf 1) 0 0x1234).1), 1, 0, 33554432, 0x12000000, true, true, .drift, 0x1234, by decide +kernel⟩,
   ⟨(atRun { exe 0 0 0 with tlb := [tlb0] }), 1, .drift, 0x1234, tlb0, by decide +kernel⟩⟩

/-- The hypotheses of every clause of `Obligations.ScrubAndRetirement` can be met. -/
theorem witness_ScrubAndRetirement :
      (∃ (s : State) (ch : Fin 64),
        (s.running = true)
        ∧ (s.mem.scrubCfg.toNat % 256 ≠ 0)
        ∧ (ch.val < s.mem.scrubPos.length)
        ∧ (let block := scrubBlock ch (s.mem.scrubPos.getD ch 0)
        (∀ x ∈ blockSectors block, x ∉ s.mem.bad ∧ x ∉ s.mem.flip)
        ∧ ((s.bank (dpaChannel (256 * block)) (dpaBank (256 * block))).used false < 4)))
      ∧ (∃ (s : State) (ch : Fin 64),
        (s.running = true)
        ∧ (s.mem.scrubCfg.toNat % 256 ≠ 0)
        ∧ (ch.val < s.mem.scrubPos.length)
        ∧ (let block := scrubBlock ch (s.mem.scrubPos.getD ch 0)
        let g := dpaChannel (256 * block)
        (∀ x ∈ blockSectors block, x ∉ s.mem.bad)
        ∧ (s.mem.line (s.sectorAt (8 * block) / 8) = none)
        ∧ (g < s.mem.ecc.length)
        ∧ ((s.bank g (dpaBank (256 * block))).used false < 4)))
      ∧ (∃ (s : State) (ch : Fin 64),
        (s.running = true)
        ∧ (s.mem.scrubCfg.toNat % 256 ≠ 0)
        ∧ (let block := scrubBlock ch (s.mem.scrubPos.getD ch 0)
        let x := s.bank (dpaChannel (256 * block)) (dpaBank (256 * block))
        (4 ≤ x.used false)
        ∧ (scrubAgent ch ∉ x.wake)))
      ∧ (∃ (s : State) (_ch : Fin 64),
        (s.mem.scrubCfg.toNat % 256 = 0))
      ∧ (∃ (s : State) (page : Nat) (reason : Nat) (group : Nat) (rest : List (Nat × Nat × Nat)),
        (s.running = true)
        ∧ (s.mem.retireReq = (page, reason, group) :: rest)
        ∧ (s.flash.retired.length < 4096)
        ∧ (65536 * (page + 1) ≤ s.spareBase))
      ∧ (∃ (s : State) (page : Nat) (reason : Nat) (group : Nat) (rest : List (Nat × Nat × Nat)),
        (s.running = true)
        ∧ (s.mem.retireReq = (page, reason, group) :: rest)
        ∧ (4096 ≤ s.flash.retired.length)
        ∧ (s.flash.retireFullSent = true))
      ∧ (∃ (s : State) (n : Nat),
        (s.running = true)
        ∧ (n < 192)
        ∧ (n < s.cores.length)
        ∧ ((s.core n).phase = .idle)
        ∧ ((s.core n).badWords = []))
      ∧ (∃ (s : State) (n : Nat) (w : Nat),
        (s.running = true)
        ∧ (n < 192)
        ∧ (n < s.cores.length)
        ∧ ((s.core n).phase = .idle)
        ∧ ((s.core n).badWords = [w])
        ∧ (w ∈ rowWords (s.core n).scrubRow)
        ∧ (16 * w < (s.core n).resEnd)) :=
  ⟨⟨run0, 3, by (try dsimp only); decide +kernel⟩,
   ⟨(run0.modMem (fun m => { m with flip := [24] })), 3, by (try dsimp only); decide +kernel⟩,
   ⟨(run0.modMem (fun m => { m with banks := [(48, { edgeQ := List.replicate 4 { acc0 with who := .agent 2 } })] })), 3, by (try dsimp only); decide +kernel⟩,
   ⟨(run0.modMem (fun m => { m with scrubCfg := 0 })), 63, by decide +kernel⟩,
   ⟨(run0.modMem (fun m => { m with retireReq := [(0x1200, 1, 1)] })), 0x1200, 1, 1, ([]), by decide +kernel⟩,
   ⟨((run0.modMem (fun m => { m with retireReq := [(0x1200, 1, 1)] })).modFlash (fun x => { x with retired := List.replicate 4096 { page := 7, reason := 1 }, retireFullSent := true })), 0x1200, 1, 1, ([]), by decide +kernel⟩,
   ⟨(putCore 1 { pillars := [pillar0], flipWords := [1, 17, 70000] } run0), 1, by decide +kernel⟩,
   ⟨(putCore 1 { pillars := [pillar0], badWords := [1] } run0), 1, 1, by decide +kernel⟩⟩

/-- The hypotheses of every clause of `Obligations.LinkBringUp` can be met. -/
theorem witness_LinkBringUp :
      (∃ (s : State) (p : Fin 6),
        (s.running = true)
        ∧ ((s.port p).st = .localTest)
        ∧ (p.val < s.lnk.ports.length)
        ∧ (p.val < 2)
        ∧ (s.pwr.bypassOpen = false))
      ∧ (∃ (s : State) (p : Fin 6),
        (s.running = true)
        ∧ ((s.port p).st = .localTest)
        ∧ (p.val < s.lnk.ports.length)
        ∧ (2 ≤ p.val ∨ s.pwr.bypassOpen = true))
      ∧ (∃ (s : State) (p : Fin 6),
        (s.running = true)
        ∧ ((s.port p).st = .opening)
        ∧ (p.val < s.lnk.ports.length))
      ∧ (∃ (s : State) (p : Fin 6),
        (s.running = true)
        ∧ ((s.port p).st = .train)
        ∧ (p.val < s.lnk.ports.length))
      ∧ (∃ (s : State) (p : Fin 6) (node : BitVec 12) (_k : BitVec 8) (_h : List (BitVec 8)),
        (s.running = true)
        ∧ ((s.port p).st = .ident)
        ∧ (p.val < 2)
        ∧ (p.val < s.lnk.ports.length)
        ∧ (node.toNat ≠ s.nodeId)
        ∧ ((s.port (1 - p.val)).neighbour ≠ some node.toNat)
        ∧ ((s.port p).neighbour = none))
      ∧ (∃ (s : State) (p : Fin 6) (node : BitVec 12) (_k : BitVec 8) (_h : List (BitVec 8)),
        (s.running = true)
        ∧ ((s.port p).st = .ident)
        ∧ (2 ≤ p.val)
        ∧ (p.val < s.lnk.ports.length)
        ∧ (node.toNat ≠ s.nodeId)
        ∧ ((s.port p).neighbour = none)
        ∧ (s.lnk.tx = [])
        ∧ ((s.port p).txq = [])
        ∧ ((s.port p).fwd = []))
      ∧ (∀ (offer : Bytes) (accept : Bytes) (secret : Bytes), ((run.modPort 0 (fun x => { x with st := .secure, neighbour := some 7 })).peerOk accept 7 (run.modPort 0 (fun x => { x with st := .secure, neighbour := some 7 })).nodeId (some (Config.sha3_512 offer)) = true) → ∃ (s : State) (p : Fin 6) (offer : List (BitVec 8)) (accept : List (BitVec 8)) (_secret : List (BitVec 8)) (n : Nat),
        (s.running = true)
        ∧ ((s.port p).st = .secure)
        ∧ (p.val < s.lnk.ports.length)
        ∧ ((s.port p).neighbour = some n)
        ∧ (s.lnk.tx = [])
        ∧ (∀ x ∈ s.lnk.ports, x.txq = [] ∧ x.replay = [])
        ∧ (s.nodeId < n)
        ∧ (s.peerOk accept n s.nodeId (some (Config.sha3_512 offer)) = true))
      ∧ (∀ (offer : Bytes) (accept : Bytes) (secret : Bytes), (((run.modPort 0 (fun x => { x with st := .secure, neighbour := some 7 })).modLnk (fun l => { l with node := 9 })).peerOk offer 7 ((run.modPort 0 (fun x => { x with st := .secure, neighbour := some 7 })).modLnk (fun l => { l with node := 9 })).nodeId none = true) → ∃ (s : State) (p : Fin 6) (offer : List (BitVec 8)) (_accept : List (BitVec 8)) (_secret : List (BitVec 8)) (n : Nat),
        (s.running = true)
        ∧ ((s.port p).st = .secure)
        ∧ (p.val < s.lnk.ports.length)
        ∧ ((s.port p).neighbour = some n)
        ∧ (s.lnk.tx = [])
        ∧ (∀ x ∈ s.lnk.ports, x.txq = [] ∧ x.replay = [])
        ∧ (n ≤ s.nodeId)
        ∧ (s.peerOk offer n s.nodeId none = true))
      ∧ (∃ (s : State) (p : Fin 6) (offer : List (BitVec 8)) (accept : List (BitVec 8)) (_secret : List (BitVec 8)) (n : Nat),
        (s.running = true)
        ∧ ((s.port p).st = .secure)
        ∧ (p.val < s.lnk.ports.length)
        ∧ ((s.port p).neighbour = some n)
        ∧ (s.nodeId < n → s.peerOk accept n s.nodeId (some (Config.sha3_512 offer)) = false)
        ∧ (n ≤ s.nodeId → s.peerOk offer n s.nodeId none = false))
      ∧ (∃ (s : State) (p : Fin 6),
        (s.running = true)
        ∧ ((s.port p).st = .localTest)
        ∧ (p.val < s.lnk.ports.length))
      ∧ (∃ (s : State) (p : Fin 6),
        (s.running = true)
        ∧ ((s.port p).st = .train)
        ∧ (p.val < s.lnk.ports.length))
      ∧ (∃ (s : State) (p : Fin 6),
        (s.running = true)
        ∧ ((s.port p).st ≠ .down)
        ∧ (p.val < s.lnk.ports.length))
      ∧ (∃ (s : State) (p : Fin 6) (node : BitVec 12) (_k : BitVec 8) (_h : List (BitVec 8)),
        (s.running = true)
        ∧ ((s.port p).st = .ident)
        ∧ (p.val < s.lnk.ports.length)
        ∧ (node.toNat = s.nodeId ∨ (p.val < 2 ∧ (s.port (1 - p.val)).neighbour = some node.toNat)))
      ∧ (∃ (s : State) (p : Fin 6) (node : BitVec 12) (_k : BitVec 8) (h : List (BitVec 8)),
        (s.running = true)
        ∧ ((s.port p).st = .up)
        ∧ (p.val < s.lnk.ports.length)
        ∧ ((s.port p).neighbour ≠ some node.toNat ∨ (s.port p).neighbourHash ≠ h))
      ∧ (∃ (s : State) (p : Fin 6),
        (s.running = true)
        ∧ ((s.port p).st = .down)
        ∧ (s.lnk.cfg.toNat.testBit p = true)
        ∧ ((s.port p).retryAt.getD 0 ≤ s.time.ticks)
        ∧ (p.val < s.lnk.ports.length)) :=
  ⟨⟨(portIn 0 .localTest), 0, by decide +kernel⟩,
   ⟨(portIn 5 .localTest), 5, by decide +kernel⟩,
   ⟨(portIn 0 .opening), 0, by decide +kernel⟩,
   ⟨(portIn 0 .train), 0, by decide +kernel⟩,
   ⟨(portIn 0 .ident), 0, 7, 0, ([]), by decide +kernel⟩,
   ⟨(portIn 2 .ident), 2, 7, 0, ([]), by decide +kernel⟩,
   fun offer accept secret h => ⟨(run.modPort 0 (fun x => { x with st := .secure, neighbour := some 7 })), 0, offer, accept, secret, 7, by exact ⟨by decide +kernel, by decide +kernel, by decide +kernel, by decide +kernel, by decide +kernel, by decide +kernel, by decide +kernel, h⟩⟩,
   fun offer accept secret h => ⟨((run.modPort 0 (fun x => { x with st := .secure, neighbour := some 7 })).modLnk (fun l => { l with node := 9 })), 0, offer, accept, secret, 7, by exact ⟨by decide +kernel, by decide +kernel, by decide +kernel, by decide +kernel, by decide +kernel, by decide +kernel, by decide +kernel, h⟩⟩,
   ⟨(run.modPort 0 (fun x => { x with st := .secure, neighbour := some 7 })), 0, ([]), ([]), ([]), 7, by decide +kernel⟩,
   ⟨(portIn 0 .localTest), 0, by decide +kernel⟩,
   ⟨(portIn 0 .train), 0, by decide +kernel⟩,
   ⟨(portIn 1 .up), 1, by decide +kernel⟩,
   ⟨(portIn 5 .ident), 5, 0, 0, ([]), by decide +kernel⟩,
   ⟨(run.modPort 5 (fun x => { x with st := .up, neighbour := some 7 })), 5, 8, 0, ([]), by decide +kernel⟩,
   ⟨(portIn 0 .down), 0, by decide +kernel⟩⟩

/-- The hypotheses of every clause of `Obligations.FlitsArrive` can be met. -/
theorem witness_FlitsArrive :
      (∃ (s : State) (p : Fin 6) (_f : Flit),
        (p.val < 2)
        ∧ (s.pwr.bypassOpen = false)
        ∧ (s.lnk.ports.length = 6))
      ∧ (∃ (s : State) (p : Fin 6) (f : Flit),
        (Listens s p)
        ∧ (f.bad = true)
        ∧ ((s.port p).creditsOwed = [0, 0, 0, 0]))
      ∧ (∃ (s : State) (p : Fin 6) (f : Flit),
        (Listens s p)
        ∧ (f.bad = false)
        ∧ (f.typ = 3#2))
      ∧ (∃ (s : State) (p : Fin 6) (f : Flit),
        (Listens s p)
        ∧ (f.bad = false)
        ∧ (f.typ = 1#2)
        ∧ (f.hopSeq ≠ (s.port p).rxSeq + 1))
      ∧ (∃ (s : State) (p : Fin 6) (f : Flit),
        (Listens s p)
        ∧ (f.bad = false)
        ∧ (f.typ = 0#2)
        ∧ (f.nak = false)
        ∧ (∀ g ∈ (s.port p).replay, (f.ackSeq - g.1.hopSeq).toNat < 2 ^ 15))
      ∧ (∃ (s : State) (p : Fin 6) (f : Flit),
        (Listens s p)
        ∧ (f.bad = false)
        ∧ (f.typ = 0#2)
        ∧ (f.nak = true)
        ∧ (∀ g ∈ (s.port p).replay, (g.1.hopSeq - f.ackSeq).toNat < 2 ^ 15)
        ∧ ((s.port p).owes = false))
      ∧ (∃ (s : State) (p : Fin 6) (f : Flit),
        (Listens s p)
        ∧ (f.bad = false)
        ∧ (f.typ = 1#2)
        ∧ (f.hopSeq = (s.port p).rxSeq + 1)
        ∧ (p.val < 2)
        ∧ (s.lnk.ports.length = 6)
        ∧ (f.dst.toNat ≠ s.nodeId)
        ∧ ((s.port (1 - p.val)).st ≠ .up))
      ∧ (∀ (b : Bytes), (Config.gcmOpen ({ node := 7 } : LinkKey).kIn (flitNonce ({ typ := 1, hopSeq := 1, src := 7, first := true } : Flit).src ({ typ := 1, hopSeq := 1, src := 7, first := true } : Flit).dst ({ typ := 1, hopSeq := 1, src := 7, first := true } : Flit).vc (rebuildCtr (({ node := 7 } : LinkKey).ctrIn.getD ({ typ := 1, hopSeq := 1, src := 7, first := true } : Flit).vc.toNat 0) ({ typ := 1, hopSeq := 1, src := 7, first := true } : Flit).e2eSeq.toNat)) (flitAad { typ := 1, hopSeq := 1, src := 7, first := true }) ({ typ := 1, hopSeq := 1, src := 7, first := true } : Flit).payload ({ typ := 1, hopSeq := 1, src := 7, first := true } : Flit).tag = some b) → ∃ (s : State) (p : Fin 6) (f : Flit) (k : LinkKey) (b : Bytes),
        (Listens s p)
        ∧ (f.bad = false)
        ∧ (f.typ = 1#2)
        ∧ (f.hopSeq = (s.port p).rxSeq + 1)
        ∧ (f.dst.toNat = s.nodeId)
        ∧ (s.lnk.keys = [k])
        ∧ (k.node = f.src.toNat)
        ∧ (k.refused = false)
        ∧ (f.first = true)
        ∧ (f.last = false)
        ∧ (k.ctrIn.length = 4)
        ∧ (let ctr := rebuildCtr (k.ctrIn.getD f.vc.toNat 0) f.e2eSeq.toNat
        (Config.gcmOpen k.kIn (flitNonce f.src f.dst f.vc ctr) (flitAad f) f.payload f.tag = some b)))
      ∧ ((Config.gcmOpen ({ node := 7 } : LinkKey).kIn (flitNonce ({ typ := 1, hopSeq := 1, src := 7, first := true } : Flit).src ({ typ := 1, hopSeq := 1, src := 7, first := true } : Flit).dst ({ typ := 1, hopSeq := 1, src := 7, first := true } : Flit).vc (rebuildCtr (({ node := 7 } : LinkKey).ctrIn.getD ({ typ := 1, hopSeq := 1, src := 7, first := true } : Flit).vc.toNat 0) ({ typ := 1, hopSeq := 1, src := 7, first := true } : Flit).e2eSeq.toNat)) (flitAad { typ := 1, hopSeq := 1, src := 7, first := true }) ({ typ := 1, hopSeq := 1, src := 7, first := true } : Flit).payload ({ typ := 1, hopSeq := 1, src := 7, first := true } : Flit).tag = none) → ∃ (s : State) (p : Fin 6) (f : Flit) (k : LinkKey),
        (Listens s p)
        ∧ (f.bad = false)
        ∧ (f.typ = 1#2)
        ∧ (f.hopSeq = (s.port p).rxSeq + 1)
        ∧ (f.dst.toNat = s.nodeId)
        ∧ (s.lnk.keys = [k])
        ∧ (k.node = f.src.toNat)
        ∧ (k.refused = false)
        ∧ (Config.gcmOpen k.kIn (flitNonce f.src f.dst f.vc (rebuildCtr (k.ctrIn.getD f.vc.toNat 0) f.e2eSeq.toNat)) (flitAad f) f.payload f.tag = none)) :=
  ⟨⟨(portIn 0 .down), 0, ({ typ := 1 }), by decide +kernel⟩,
   ⟨(portIn 2 .up), 2, ({ bad := true }), by simp only [Listens]; decide +kernel⟩,
   ⟨(portIn 2 .up), 2, ({ typ := 3 }), by simp only [Listens]; decide +kernel⟩,
   ⟨(portIn 2 .up), 2, ({ typ := 1 }), by simp only [Listens]; decide +kernel⟩,
   ⟨(run.modPort 2 (fun x => { x with st := .up, replay := [({ hopSeq := 0xFFFF }, [])] })), 2, ({ typ := 0, ackSeq := 1 }), by simp only [Listens]; decide +kernel⟩,
   ⟨(run.modPort 2 (fun x => { x with st := .up, replay := [({ hopSeq := 2 }, [])] })), 2, ({ typ := 0, nak := true, ackSeq := 2 }), by simp only [Listens]; decide +kernel⟩,
   ⟨((portIn 0 .up).modPwr (fun p => { p with bypassOpen := true })), 0, ({ typ := 1, hopSeq := 1, dst := 7 }), by simp only [Listens]; decide +kernel⟩,
   fun b h => ⟨((portIn 2 .up).modLnk (fun l => { l with keys := [{ node := 7 }] })), 2, ({ typ := 1, hopSeq := 1, src := 7, first := true }), ({ node := 7 }), b, by simp only [Listens]; (try dsimp only); (repeat' apply And.intro) <;> first | decide +kernel | exact h | rfl⟩,
   fun h => ⟨((portIn 2 .up).modLnk (fun l => { l with keys := [{ node := 7 }] })), 2, ({ typ := 1, hopSeq := 1, src := 7, first := true }), ({ node := 7 }), by simp only [Listens]; (repeat' apply And.intro) <;> first | decide +kernel | exact h | rfl⟩⟩

/-- The hypotheses of every clause of `Obligations.TermsAreAddedInOrder` can be met. -/
theorem witness_TermsAreAddedInOrder :
      (∃ (s : State) (i : Nat) (pkt : Packet) (l : Line),
        (Arrived s pkt 1)
        ∧ (CarriesLine s i pkt l)
        ∧ (Contributes s i pkt)
        ∧ (NobodyWaits s)
        ∧ (let x := s.lineOf i pkt.bucket.toNat pkt.tile.toNat pkt.offset.toNat
        (x.next = (s.coll i).termOf pkt.rank.toNat pkt.part.toNat)
        ∧ (x.held = [])
        ∧ (x.gaveUp = false)
        ∧ (x.finished = false)
        ∧ (x.next + 1 ≠ (s.coll i).terms)))
      ∧ (∃ (s : State) (i : Nat) (pkt : Packet) (l : Line),
        (Arrived s pkt 2)
        ∧ (CarriesLine s i pkt l)
        ∧ (NobodyWaits s)
        ∧ ((s.coll i).desc.topology ≠ 3)
        ∧ ((s.coll i).desc.myRank = pkt.rank.toNat + 1)
        ∧ (((s.coll i).rankNode pkt.rank.toNat).1 = pkt.src.toNat)
        ∧ (s.lineOf i pkt.bucket.toNat pkt.tile.toNat pkt.offset.toNat = {})
        ∧ ((s.coll i).terms ≠ 1))
      ∧ (∃ (s : State) (i : Nat) (pkt : Packet) (l : Line),
        (Arrived s pkt 1)
        ∧ (CarriesLine s i pkt l)
        ∧ (Contributes s i pkt)
        ∧ (NobodyWaits s)
        ∧ (let x := s.lineOf i pkt.bucket.toNat pkt.tile.toNat pkt.offset.toNat
        (x.next < (s.coll i).termOf pkt.rank.toNat pkt.part.toNat)
        ∧ (x.held = [])
        ∧ (x.gaveUp = false)
        ∧ (x.finished = false)
        ∧ (s.pinOk (s.coll i).part (s.bucket i pkt.bucket.toNat) (pkt.tile.toNat * (s.bucket i pkt.bucket.toNat).tileLines + pkt.offset.toNat) = true)))
      ∧ (∃ (s : State) (i : Nat) (pkt : Packet) (l : Line),
        (Arrived s pkt 1)
        ∧ (CarriesLine s i pkt l)
        ∧ (Contributes s i pkt)
        ∧ (NobodyWaits s)
        ∧ (let x := s.lineOf i pkt.bucket.toNat pkt.tile.toNat pkt.offset.toNat
        (x.next < (s.coll i).termOf pkt.rank.toNat pkt.part.toNat)
        ∧ (x.held = [])
        ∧ (x.gaveUp = false)
        ∧ (x.finished = false)
        ∧ (s.pinOk (s.coll i).part (s.bucket i pkt.bucket.toNat) (pkt.tile.toNat * (s.bucket i pkt.bucket.toNat).tileLines + pkt.offset.toNat) = false)))
      ∧ (∃ (s : State) (i : Nat) (pkt : Packet),
        (Arrived s pkt 1)
        ∧ (s.findColl pkt.key pkt.src.toNat [1] = some i)
        ∧ (s.linesFit i pkt = true)
        ∧ (Contributes s i pkt)
        ∧ (NobodyWaits s)
        ∧ ((s.bucket i pkt.bucket.toNat).st = .armed)
        ∧ (pkt.tile.toNat < (s.bucket i pkt.bucket.toNat).tiles.length))
      ∧ (∃ (s : State) (pkt : Packet) (c : Instr),
        (s.running = true)
        ∧ (s.lnk.recvPend = [pkt])
        ∧ (pkt.port < 6)
        ∧ (s.doneBefore pkt = true)
        ∧ ((c = .contrib pkt .clean ∧ pkt.msg = 1) ∨ (c = .partialSum pkt .clean ∧ pkt.msg = 2) ∨ (c = .result pkt ∧ pkt.msg = 3) ∨ (c = .sendReceive pkt ∧ pkt.msg = 4))) :=
  ⟨⟨(collIn (coll0 .opened) (pkt0 1)), 0, (pkt0 1), (List.replicate 64 0x3F800000#32), by simp only [Arrived, CarriesLine, Contributes, NobodyWaits]; (try dsimp only); decide +kernel⟩,
   ⟨(collIn { coll0 .opened with desc := { (coll0 .opened).desc with topology := 1 } } (pkt0 2)), 0, (pkt0 2), (List.replicate 64 0x3F800000#32), by simp only [Arrived, CarriesLine, NobodyWaits]; decide +kernel⟩,
   ⟨(paged (collIn { coll0 .opened with desc := { (coll0 .opened).desc with parts := 2 } } { pkt0 1 with part := 1 })), 0, ({ pkt0 1 with part := 1 }), (List.replicate 64 0x3F800000#32), by simp only [Arrived, CarriesLine, Contributes, NobodyWaits]; (try dsimp only); decide +kernel⟩,
   ⟨(collIn { coll0 .opened with desc := { (coll0 .opened).desc with parts := 2 } } { pkt0 1 with part := 1 }), 0, ({ pkt0 1 with part := 1 }), (List.replicate 64 0x3F800000#32), by simp only [Arrived, CarriesLine, Contributes, NobodyWaits]; (try dsimp only); decide +kernel⟩,
   ⟨(collIn (coll0 .armed) (pkt0 1)), 0, (pkt0 1), by simp only [Arrived, Contributes, NobodyWaits]; decide +kernel⟩,
   ⟨((collIn (coll0 .opened) (pkt0 1)).modLnk (fun l => { l with rxDone := [(7, 3, 1)] })), (pkt0 1), (.contrib (pkt0 1) .clean), by decide +kernel⟩⟩

/-- The hypotheses of every clause of `Obligations.PacketsReceived` can be met. -/
theorem witness_PacketsReceived :
      (∃ (s : State) (i : Nat) (d : Nat) (pkt : Packet) (l : Line),
        (Arrived s pkt 3)
        ∧ (CarriesLine s i pkt l)
        ∧ (NobodyWaits s)
        ∧ ((s.coll i).desc.topology = 1)
        ∧ ((s.coll i).desc.myRank = 0)
        ∧ (l.length = 64)
        ∧ (Mem1.wf ramD s.mem.dram = true)
        ∧ (let b := pkt.bucket.toNat
        let k := pkt.tile.toNat * (s.bucket i b).tileLines + pkt.offset.toNat
        (k ∉ (s.bucket i b).written)
        ∧ (s.lineDpa (s.coll i).part (s.bucket i b) k = some d)))
      ∧ (∃ (s : State) (i : Nat) (d : Nat) (pkt : Packet),
        (Arrived s pkt 4)
        ∧ (s.findColl pkt.key pkt.src.toNat [3, 4] = some i)
        ∧ (pkt.addr.toNat + pkt.data.length ≤ (s.coll i).desc.recvBytes)
        ∧ (pkt.sig = false)
        ∧ (pkt.poison = [])
        ∧ (let va := (s.coll i).desc.recvVa + pkt.addr.toNat
        ((s.touchWalks (s.coll i).part va pkt.data.length).xlateRangeAgent (s.coll i).part va pkt.data.length true = .inl [(d, pkt.data.length)])
        ∧ (Mem1.wf ramD s.mem.dram = true)))
      ∧ (∃ (s : State) (i : Nat) (r : Nat) (pkt : Packet),
        (s.running = true)
        ∧ (s.lnk.recvPend = [pkt])
        ∧ (pkt.msg = 5)
        ∧ (s.findColl pkt.key pkt.src.toNat [2] = some i)
        ∧ (pkt.rank.toNat < (s.coll i).desc.ranks)
        ∧ ((s.coll i).desc.myRank = 0)
        ∧ (((s.coll i).rankNode pkt.rank.toNat).1 = pkt.src.toNat)
        ∧ (r < (s.coll i).desc.ranks)
        ∧ (r ≠ pkt.rank.toNat)
        ∧ (r ∉ (s.coll i).arrivals))
      ∧ (∃ (s : State) (i : Nat) (pkt : Packet),
        (s.running = true)
        ∧ (s.lnk.recvPend = [pkt])
        ∧ (pkt.msg = 6)
        ∧ (s.findColl pkt.key pkt.src.toNat [2] = some i)
        ∧ ((s.coll i).desc.myRank ≠ 0)
        ∧ (((s.coll i).rankNode 0).1 = pkt.src.toNat)
        ∧ ((s.coll i).keptSignals = [])
        ∧ (s.time.sync = 0))
      ∧ (∃ (s : State) (pkt : Packet) (c : Instr),
        (s.running = true)
        ∧ (s.lnk.recvPend = [pkt])
        ∧ (s.doneBefore pkt = false)
        ∧ (s.closedBucket pkt.key pkt.bucket.toNat pkt.src.toNat = false)
        ∧ (∀ ks, s.findColl pkt.key pkt.src.toNat ks = none)
        ∧ ((c = .contrib pkt .clean ∧ pkt.msg = 1) ∨ (c = .partialSum pkt .clean ∧ pkt.msg = 2) ∨ (c = .result pkt ∧ pkt.msg = 3) ∨ (c = .sendReceive pkt ∧ pkt.msg = 4) ∨ (c = .barrierArriveReceive pkt ∧ pkt.msg = 5) ∨ (c = .barrierRelease pkt ∧ pkt.msg = 6)))
      ∧ (∃ (s : State) (pkt : Packet) (k : Nat),
        (s.running = true)
        ∧ (s.lnk.recvPend = [pkt])
        ∧ (pkt.msg = 7)
        ∧ (s.answered pkt = some k))
      ∧ (∃ (s : State) (pkt : Packet) (k : Nat),
        (s.running = true)
        ∧ (s.lnk.recvPend = [pkt])
        ∧ (pkt.msg = 8)
        ∧ (s.answered pkt = some k))
      ∧ (∃ (s : State) (pkt : Packet) (x : TxPacket),
        (s.running = true)
        ∧ (s.lnk.recvPend = [pkt])
        ∧ (pkt.msg = 9)
        ∧ (s.lnk.tx = [x])
        ∧ (x.port < 6)
        ∧ (x.busy = true)
        ∧ (x.pkt.dst = pkt.src)
        ∧ (x.pkt.key = pkt.key)
        ∧ (x.pkt.bucket = pkt.bucket)) :=
  ⟨⟨(paged (collIn { coll0 .opened with desc := { (coll0 .opened).desc with topology := 1, myRank := 0 } } { pkt0 3 with vc := 2, status := 4 })), 0, 0x12000100, ({ pkt0 3 with vc := 2, status := 4 }), (List.replicate 64 0x3F800000#32), by simp only [Arrived, CarriesLine, NobodyWaits]; (try dsimp only); decide +kernel⟩,
   ⟨(paged (collIn (collOf 3 1) { pkt0 4 with vc := 1, lines := [], data := [1, 2, 3], addr := 32 })), 0, 0x12001020, ({ pkt0 4 with vc := 1, lines := [], data := [1, 2, 3], addr := 32 }), by simp only [Arrived]; (try dsimp only); decide +kernel⟩,
   ⟨(collIn { collOf 2 0 with desc := { (collOf 2 0).desc with ranks := 3 } } { pkt0 5 with vc := 0, rank := 1, lines := [], data := [1, 2, 3] }), 0, 2, ({ pkt0 5 with vc := 0, rank := 1, lines := [], data := [1, 2, 3] }), by decide +kernel⟩,
   ⟨(collIn (collOf 2 1) { pkt0 6 with vc := 0, lines := [] }), 0, ({ pkt0 6 with vc := 0, lines := [] }), by decide +kernel⟩,
   ⟨(run0.modLnk (fun l => { l with recvPend := [pkt0 1] })), (pkt0 1), (.contrib (pkt0 1) .clean), by (repeat' apply And.intro) <;> first | decide +kernel | (intro l; rfl) | (intro w h; exact absurd h (by decide +kernel)) | (intro w; decide +kernel) | (intro w h; cases h) | (intro l; show (if 2 = l then _ else _ : Line).length = 64; split <;> rfl) | exact Or.inl ⟨rfl, by decide +kernel⟩ | exact ⟨_, _, _, rfl⟩⟩,
   ⟨(run0.modLnk (fun l => { l with recvPend := [{ pkt0 7 with vc := 2 }], tx := [{ pkt := { pkt0 1 with dst := 7 }, port := 1 }] })), ({ pkt0 7 with vc := 2 }), 0, by decide +kernel⟩,
   ⟨(run0.modLnk (fun l => { l with recvPend := [{ pkt0 8 with vc := 2 }], tx := [{ pkt := { pkt0 1 with dst := 7 }, port := 1 }] })), ({ pkt0 8 with vc := 2 }), 0, by decide +kernel⟩,
   ⟨(run0.modLnk (fun l => { l with recvPend := [{ pkt0 9 with vc := 0 }], tx := [{ pkt := { pkt0 1 with dst := 7 }, port := 1, busy := true }] })), ({ pkt0 9 with vc := 0 }), ({ pkt := { pkt0 1 with dst := 7 }, port := 1, busy := true }), by decide +kernel⟩⟩

/-- The hypotheses of every clause of `Obligations.LifeOfABucket` can be met. -/
theorem witness_LifeOfABucket :
      (∃ (s : State) (a : ArmReq) (r : Nat),
        (s.running = true)
        ∧ (s.lnk.armPending = [a])
        ∧ (s.armCheck a = .inr r))
      ∧ (∃ (s : State) (a : ArmReq) (d : CollDesc) (ns : List (Nat × Nat)) (bs : List Bytes),
        (s.running = true)
        ∧ (s.lnk.armPending = [a])
        ∧ (s.armCheck a = .inl (d, ns, bs))
        ∧ (s.keysReady ns = true)
        ∧ (s.armedColl a.part a.coll = none)
        ∧ (∀ e ∈ bs, s.time.beat.toNat < a.base + field e 8 4))
      ∧ (∃ (s : State) (key : BitVec 32) (b : Nat) (c : Coll) (x : Bucket),
        (s.running = true)
        ∧ (s.time.stopped = false)
        ∧ (s.lnk.colls = [c])
        ∧ (c.desc.key = key)
        ∧ (c.desc.kind = 1)
        ∧ (c.buckets[b]? = some x)
        ∧ (x.st = .armed)
        ∧ (x.tiles = [])
        ∧ (x.openBeat ≤ s.time.beat.toNat)
        ∧ (s.lnk.tx = [])
        ∧ (s.lnk.keyWaiters = []))
      ∧ (∃ (s : State) (key : BitVec 32) (b : Nat) (k : Nat) (c : Coll) (x : Bucket) (y : TileSt) (n : Nat),
        (s.running = true)
        ∧ (s.lnk.colls = [c])
        ∧ (c.desc.key = key)
        ∧ (c.desc.kind = 1)
        ∧ (c.buckets[b]? = some x)
        ∧ (x.st = .opened)
        ∧ (x.tiles[k]? = some y)
        ∧ (y.waiting = some n)
        ∧ (c.addsTile k = true)
        ∧ ((if c.desc.lateBeats = 0 then 1024 else c.desc.lateBeats) * (y.lastLate + 1) ≤ s.openBeats x))
      ∧ (∃ (s : State) (key : BitVec 32) (b : Nat) (c : Coll) (x : Bucket),
        (s.running = true)
        ∧ (s.lnk.colls = [c])
        ∧ (c.desc.key = key)
        ∧ (c.desc.kind = 1)
        ∧ (c.buckets[b]? = some x)
        ∧ (x.st = .opened)
        ∧ (x.gaveUp = false)
        ∧ (c.desc.giveUpBeats ≠ 0)
        ∧ (c.desc.giveUpBeats ≤ s.openBeats x)
        ∧ (∀ k, k < x.tiles.length → c.addsTile k = false)
        ∧ (s.lnk.tx = []))
      ∧ (∃ (s : State) (key : BitVec 32) (b : Nat) (c : Coll) (x : Bucket) (y : TileSt) (l : LineSt) (v : Line),
        (s.running = true)
        ∧ (s.lnk.colls = [c])
        ∧ (c.desc.key = key)
        ∧ (c.desc.kind = 1)
        ∧ (c.buckets[b]? = some x)
        ∧ (x.st = .opened)
        ∧ (x.gaveUp = false)
        ∧ (c.desc.giveUpBeats ≠ 0)
        ∧ (c.desc.giveUpBeats ≤ s.openBeats x)
        ∧ (x.tiles = [y])
        ∧ (c.addsTile 0 = true)
        ∧ (y.lines = [l])
        ∧ (l.acc = some v)
        ∧ (l.held = [])
        ∧ (l.finished = false)
        ∧ (s.lnk.tx = []))
      ∧ (∃ (s : State) (key : BitVec 32) (b : Nat) (d : Nat) (c : Coll) (x : Bucket),
        (s.running = true)
        ∧ (s.lnk.colls = [c])
        ∧ (c.desc.key = key)
        ∧ (c.desc.kind = 1)
        ∧ (c.buckets[b]? = some x)
        ∧ (x.st = .opened)
        ∧ (x.written.length = x.lines)
        ∧ (x.tiles = [])
        ∧ (c.desc.completeEvents = false)
        ∧ (s.wnd.serials = [])
        ∧ (s.lnk.tx = [])
        ∧ (Mem1.wf ramD s.mem.dram = true)
        ∧ ((s.touchWalks c.part (c.desc.recordVa + 16 * b) 16).xlateRangeAgent c.part (c.desc.recordVa + 16 * b) 16 true = .inl [(d, 16)]))
      ∧ (∃ (s : State) (key : BitVec 32) (c : Coll),
        (s.running = true)
        ∧ (s.lnk.colls = [c])
        ∧ (c.desc.key = key)
        ∧ (c.desc.kind = 4)
        ∧ (c.permuteFired = false)
        ∧ (c.baseBeat ≤ s.time.beat.toNat)
        ∧ (c.permuteHeld = []))
      ∧ (∃ (s : State) (n : Nat) (x : TxPacket) (k : TaskSt),
        (s.running = true)
        ∧ (n < 192)
        ∧ (s.lnk.tx = [x])
        ∧ (x.core = some n)
        ∧ (s.deadPorts.contains x.port = true)
        ∧ (s.task (s.core n).job (s.core n).task = some k))
      ∧ (∃ (s : State) (n : Nat) (x : TxPacket),
        (s.running = true)
        ∧ (192 ≤ n)
        ∧ (s.lnk.tx = [x])
        ∧ (x.core = none)
        ∧ (s.deadPorts.contains x.port = true)) :=
  ⟨⟨(run0.modLnk (fun l => { l with armPending := [{ part := 0, coll := 1, base := 0 }] })), ({ part := 0, coll := 1, base := 0 }), 1, by decide +kernel⟩,
   ⟨(((paged (run0.modPart 0 (fun p => { p with collBase := 0x1000, collCount := 2 }))).modMem (fun m => { m with dram := Mem1.write ramD m.dram 0x12001080 [2, 0, 0, 0, 1, 0] })).modLnk (fun l => { l with armPending := [{ part := 0, coll := 1, base := 0 }] })), ({ part := 0, coll := 1, base := 0 }), ({ kind := 2, ranks := 1 }), ([(0, 0)]), ([]), by decide +kernel⟩,
   ⟨(run0.modLnk (fun l => { l with colls := [bucketColl { st := .armed }] })), 5, 0, (bucketColl { st := .armed }), ({ st := .armed }), by decide +kernel⟩,
   ⟨({ run0 with lnk := { run0.lnk with colls := [coll0 .opened] }, time := { run0.time with counted := 1024 } }), 5, 0, 1, (coll0 .opened), ({ st := .opened, lines := 2, tileLines := 1, tiles := [{ lines := [{}] }, { lines := [{}] }] }), ({ lines := [{}] }), 0, by decide +kernel⟩,
   ⟨({ run0 with lnk := { run0.lnk with colls := [bucketColl { st := .opened }] }, time := { run0.time with counted := 4 } }), 5, 0, (bucketColl { st := .opened }), ({ st := .opened }), by decide +kernel⟩,
   ⟨({ run0 with lnk := { run0.lnk with colls := [{ bucketColl { st := .opened, lines := 1, tileLines := 1, tiles := [{ lines := [{ acc := some (List.replicate 64 0), next := 1 }] }] } with desc := { (bucketColl {}).desc with myRank := 0 } }] }, time := { run0.time with counted := 4 } }), 5, 0, ({ bucketColl { st := .opened, lines := 1, tileLines := 1, tiles := [{ lines := [{ acc := some (List.replicate 64 0), next := 1 }] }] } with desc := { (bucketColl {}).desc with myRank := 0 } }), ({ st := .opened, lines := 1, tileLines := 1, tiles := [{ lines := [{ acc := some (List.replicate 64 0), next := 1 }] }] }), ({ lines := [{ acc := some (List.replicate 64 0), next := 1 }] }), ({ acc := some (List.replicate 64 0), next := 1 }), (List.replicate 64 0), by decide +kernel⟩,
   ⟨(paged (run0.modLnk (fun l => { l with colls := [bucketColl { st := .opened, lines := 1, written := [0], status := 4, replaced := 3 }] }))), 5, 0, 0x12000100, (bucketColl { st := .opened, lines := 1, written := [0], status := 4, replaced := 3 }), ({ st := .opened, lines := 1, written := [0], status := 4, replaced := 3 }), by decide +kernel⟩,
   ⟨(run0.modLnk (fun l => { l with colls := [collOf 4 1] })), 5, (collOf 4 1), by decide +kernel⟩,
   ⟨({ atRun (exe 0 0 0) with lnk := { run0.lnk with cfg := 0x20643F#64, tx := [{ pkt := { pkt0 1 with dst := 7 }, port := 1, core := some 1 }], ports := run0.lnk.ports.set 1 { downSince := some 0 } }, time := { run0.time with counted := 0x20 } }), 1, ({ pkt := { pkt0 1 with dst := 7 }, port := 1, core := some 1 }), ({ task0 with st := .running }), by decide +kernel⟩,
   ⟨({ atRun (exe 0 0 0) with lnk := { run0.lnk with cfg := 0x20643F#64, tx := [{ pkt := { pkt0 1 with dst := 7 }, port := 1 }], ports := run0.lnk.ports.set 1 { downSince := some 0 } }, time := { run0.time with counted := 0x20 } }), 192, ({ pkt := { pkt0 1 with dst := 7 }, port := 1 }), by decide +kernel⟩⟩

/-- The hypotheses of every clause of `Obligations.HardwareErrors` can be met. -/
theorem witness_HardwareErrors :
      (∃ (s : State) (n : Nat) (i : Nat) (k : HwKind) (_pos : Fin 9),
        (s.running = true)
        ∧ (n < 192)
        ∧ (n < s.cores.length)
        ∧ ((s.core n).phase = .executing)
        ∧ (s.judged n = true)
        ∧ ((s.core n).rel.length = 7)
        ∧ (checkFinds k = true)
        ∧ (hwCounter k = some i))
      ∧ (∃ (s : State) (n : Nat) (ser : Nat) (j : Job) (x : TaskSt) (_pos : Fin 9) (ps : List ((Int × Nat) × (Int × Nat))) (v : Int × Nat),
        (predictedResidue ps ≠ residue15 v)
        ∧ (s.running = true)
        ∧ (n < 192)
        ∧ (n < s.cores.length)
        ∧ ((s.core n).phase = .executing)
        ∧ (s.wnd.jobs = [j])
        ∧ (s.wnd.serials = [ser])
        ∧ ((s.core n).job = ser)
        ∧ ((s.core n).task = 0)
        ∧ (j.tasks = [x])
        ∧ (x.pair = none)
        ∧ (x.heldGrant = false)
        ∧ (x.st = .running)
        ∧ (x.bound = false)
        ∧ (j.phase = .live)
        ∧ (j.ending = none)
        ∧ (j.preds = [])
        ∧ (x.pred = 0xFF#8)
        ∧ (j.invalidated = true)
        ∧ (x.discards + 1 < j.limit)
        ∧ ((s.core n).kind = .run)
        ∧ (s.wnd.clusters.getD (clusterOf n) .stopped = .restarting)
        ∧ (j.part < s.parts.length))
      ∧ (∃ (_s : State) (_n : Nat) (_pos : Fin 9) (ps : List ((Int × Nat) × (Int × Nat))) (v : Int × Nat),
        (predictedResidue ps = residue15 v))
      ∧ (∃ (s : State) (n : Nat) (crc : BitVec 64),
        (s.running = true)
        ∧ (n < s.cores.length)
        ∧ ((s.core n).phase = .finished)
        ∧ ((s.core n).ended = some (.clean crc))
        ∧ ((s.core n).kind = .repeatRun)
        ∧ ((s.core n).dissentCrc = none)
        ∧ (s.job (s.core n).job = none)
        ∧ ((s.core n).rel.length = 7))
      ∧ (∃ (s : State) (n : Nat) (k : Nat) (pos : Nat),
        (s.running = true)
        ∧ (n < s.cores.length)
        ∧ ((s.core n).phase = .finished)
        ∧ ((s.core n).ended = some (.cause (.hardware k pos)))
        ∧ (k ≠ 4)
        ∧ ((s.core n).kind = .repeatRun)
        ∧ ((s.core n).dissentCrc = none)
        ∧ (s.wnd.serials = [])
        ∧ (s.isFenced n = false))
      ∧ (∃ (s : State) (ser : Nat) (j : Job) (x : TaskSt) (p : Pair) (a : BitVec 64),
        (s.running = true)
        ∧ (s.wnd.jobs = [j])
        ∧ (s.wnd.serials = [ser])
        ∧ (j.tasks = [x])
        ∧ (x.pair = some p)
        ∧ (p.miscompared = false)
        ∧ (p.primary ≠ p.shadow)
        ∧ (p.shadow < s.cores.length)
        ∧ (s.endedRun ser 0 p.primary = some (.clean a))
        ∧ (s.endedRun ser 0 p.shadow = some (.clean a))
        ∧ (x.st = .running)
        ∧ (j.phase = .live)
        ∧ (j.ending = none)
        ∧ (j.preds = []))
      ∧ (∃ (s : State) (ser : Nat) (n : Nat) (j : Job) (x : TaskSt) (p : Pair) (a : BitVec 64),
        (s.running = true)
        ∧ (s.wnd.jobs = [j])
        ∧ (s.wnd.serials = [ser])
        ∧ (j.tasks = [x])
        ∧ (x.pair = some p)
        ∧ (p.dissenter = none)
        ∧ (p.arbiter = some n)
        ∧ (s.endedRun ser 0 n = some (.clean a))
        ∧ (p.primaryCrc = some a)
        ∧ (p.shadowCrc ≠ some a)
        ∧ (s.isFenced p.shadow = true)
        ∧ ((s.core p.shadow).rel.length = 7)
        ∧ (p.shadow < s.cores.length)
        ∧ (x.st = .running)
        ∧ (j.phase = .live)
        ∧ (j.ending = none)
        ∧ (j.preds = [])) :=
  ⟨⟨(putCore 1 { exe 0 0 0 with kind := .repeatRun } run0), 1, 1, .rounder, 3, by decide +kernel⟩,
   ⟨(putCore 1 (exe 0 0 0) ((holding { job0 { task0 with st := .running } with replayLimit := 3 } run0).modWnd (fun w => { w with clusters := List.replicate 16 .restarting }))), 1, 0, ({ job0 { task0 with st := .running } with replayLimit := 3 }), ({ task0 with st := .running }), 2, ([((1, 0), (1, 0))]), ((2, 0)), by decide +kernel⟩,
   ⟨run, 1, 2, ([((3, 2), (5, 1))]), ((15, 3)), by decide +kernel⟩,
   ⟨(putCore 1 { kind := .repeatRun, phase := .finished, ended := some (.clean 5), job := 3 } run0), 1, 5, by decide +kernel⟩,
   ⟨(putCore 1 { kind := .repeatRun, phase := .finished, ended := some (.cause (.hardware 1 2)) } run0), 1, 1, 2, by decide +kernel⟩,
   ⟨(putCore 2 { phase := .finished, ended := some (.clean 5), kind := .run } (putCore 1 { phase := .finished, ended := some (.clean 5) } (holding (job0 { task0 with st := .running, pair := some { primary := 1, shadow := 2 } }) run0))), 0, (job0 { task0 with st := .running, pair := some { primary := 1, shadow := 2 } }), ({ task0 with st := .running, pair := some { primary := 1, shadow := 2 } }), ({ primary := 1, shadow := 2 }), 5, by decide +kernel⟩,
   ⟨((putCore 3 { phase := .finished, ended := some (.clean 5), kind := .arbiter } (holding (job0 { task0 with st := .running, pair := some { primary := 1, shadow := 2, miscompared := true, arbiter := some 3, primaryCrc := some 5, shadowCrc := some 6 } }) run0)).modWnd (fun w => { w with fenced := [2] })), 0, 3, (job0 { task0 with st := .running, pair := some { primary := 1, shadow := 2, miscompared := true, arbiter := some 3, primaryCrc := some 5, shadowCrc := some 6 } }), ({ task0 with st := .running, pair := some { primary := 1, shadow := 2, miscompared := true, arbiter := some 3, primaryCrc := some 5, shadowCrc := some 6 } }), ({ primary := 1, shadow := 2, miscompared := true, arbiter := some 3, primaryCrc := some 5, shadowCrc := some 6 }), 5, by decide +kernel⟩⟩

/-- The hypotheses of every clause of `Obligations.RouterFailures` can be met. -/
theorem witness_RouterFailures :
      (∃ (s : State) (_r : Fin 16) (_c : Fin 16),
        (s.running = true)
        ∧ (s.mesh.retries.length = 256))
      ∧ (∃ (s : State) (r : Fin 16) (c : Fin 16) (_k : RouterCause) (_w : List (Nat × Nat)),
        (s.running = true)
        ∧ (s.mesh.failed.contains (r.val, c.val) = false)
        ∧ (r.val = 0 ∨ r.val = 15)
        ∧ (s.mgt.fatal = false)
        ∧ (s.wnd.serials = []))
      ∧ (∃ (s : State) (r : Fin 16) (c : Fin 16) (_k : RouterCause) (w : List (Nat × Nat)) (n : Nat),
        (s.running = true)
        ∧ (s.mesh.failed = [])
        ∧ (0 < r.val)
        ∧ (r.val < 15)
        ∧ (s.coreAt r c = some n)
        ∧ ((s.core n).phase = .idle)
        ∧ (s.isFenced n = false)
        ∧ (s.wnd.serials = [])
        ∧ (∀ m, m < 192 → s.waitsAcross w (r.val, c.val) m = false))
      ∧ (∃ (s : State) (r : Fin 16) (c : Fin 16) (_k : RouterCause),
        (s.running = true)
        ∧ (s.mesh.failed = [(r.val, c.val)])
        ∧ (s.flash.fenceEntries = [])) :=
  ⟨⟨run, 15, 15, by decide +kernel⟩,
   ⟨run, 15, 4, .parity, ([]), by decide +kernel⟩,
   ⟨run, ((Fin.ofNat 16 (run.corePos 5).1)), ((Fin.ofNat 16 (run.corePos 5).2)), .parity, ([(7, 0)]), 5, by decide +kernel⟩,
   ⟨({ run with mesh := { run.mesh with failed := [(3, 4)], injectStopped := true } }), 3, 4, .parity, by decide +kernel⟩⟩

/-- The hypotheses of every clause of `Obligations.MailboxBasics` can be met. -/
theorem witness_MailboxBasics :
      (∃ (s : State) (k : Fin 4) (f : Fin 8) (_b : Bytes),
        (s.running = true)
        ∧ (k.val < s.linkCount)
        ∧ (k.val < s.links.length)
        ∧ (f.val < (s.link k).fns.length)
        ∧ ((s.fn k f).mboxBusy = false))
      ∧ (∃ (_s : State) (_k : Fin 4) (_f : Fin 8) (r : HostRead),
        (∀ b, r ≠ .ok b))
      ∧ (∃ (s : State) (m : Mbox) (rest : List Mbox),
        (AsksMgmt s m rest 1 9891)
        ∧ (m.formed (· == 64) = true))
      ∧ (∃ (s : State) (m : Mbox) (rest : List Mbox),
        (AsksMgmt s m rest 2 5251)
        ∧ (m.formed (· == 128) = true)
        ∧ (byteAt m.req 2 < 8 ∨ byteAt m.req 2 = 0xFF))
      ∧ (∃ (s : State) (m : Mbox) (rest : List Mbox),
        (AsksMgmt s m rest 3 96)
        ∧ (m.formed (· == 64) = true))
      ∧ (∃ (s : State) (m : Mbox) (rest : List Mbox),
        (AsksMgmt s m rest 0x20 64))
      ∧ (∃ (s : State) (m : Mbox) (rest : List Mbox) (ty : Nat),
        (typeRights ty = none)
        ∧ (AsksMgmt s m rest ty 64)) :=
  ⟨⟨run, 0, 7, ([1, 2, 3]), by decide +kernel⟩,
   ⟨run, 0, 7, .timeout, by intro b h; cases h⟩,
   ⟨(asking (reqM 1 16384 [] 0) run), (reqM 1 16384 [] 0), ([]), by simp only [AsksMgmt]; (repeat' apply And.intro) <;> first | (rw [formed_reqM _ _ _ _ _ (by decide +kernel)]; rfl) | (rw [formed_reqT _ _ _ _ _ (by decide +kernel)]; rfl) | decide +kernel | exact noEventRings_of _ (by decide +kernel) | rfl⟩,
   ⟨(asking (reqM 2 6000 (List.replicate 64 7) 0) run), (reqM 2 6000 (List.replicate 64 7) 0), ([]), by simp only [AsksMgmt]; (repeat' apply And.intro) <;> first | (rw [formed_reqM _ _ _ _ _ (by decide +kernel)]; rfl) | (rw [formed_reqT _ _ _ _ _ (by decide +kernel)]; rfl) | decide +kernel | exact noEventRings_of _ (by decide +kernel) | rfl⟩,
   ⟨(asking (reqM 3 96 [] 0) run), (reqM 3 96 [] 0), ([]), by simp only [AsksMgmt]; (repeat' apply And.intro) <;> first | (rw [formed_reqM _ _ _ _ _ (by decide +kernel)]; rfl) | (rw [formed_reqT _ _ _ _ _ (by decide +kernel)]; rfl) | decide +kernel | exact noEventRings_of _ (by decide +kernel) | rfl⟩,
   ⟨(asking (reqM 0x20 64 [] 0) run), (reqM 0x20 64 [] 0), ([]), by simp only [AsksMgmt]; (repeat' apply And.intro) <;> first | (rw [formed_reqM _ _ _ _ _ (by decide +kernel)]; rfl) | (rw [formed_reqT _ _ _ _ _ (by decide +kernel)]; rfl) | decide +kernel | exact noEventRings_of _ (by decide +kernel) | rfl⟩,
   ⟨(asking (reqM 0x55 64 [] 0) run), (reqM 0x55 64 [] 0), ([]), 0x55, by simp only [AsksMgmt]; (repeat' apply And.intro) <;> first | (rw [formed_reqM _ _ _ _ _ (by decide +kernel)]; rfl) | (rw [formed_reqT _ _ _ _ _ (by decide +kernel)]; rfl) | decide +kernel | exact noEventRings_of _ (by decide +kernel) | rfl⟩⟩

/-- The hypotheses of every clause of `Obligations.OwnerAndPolicy` can be met. -/
theorem witness_OwnerAndPolicy :
      ((let s : State := asking (reqM 0x10 64 [0x57, 0x4F, 0x58, 0x4C, 1, 0, 0, 0] 7227) run; let m : Mbox := reqM 0x10 64 [0x57, 0x4F, 0x58, 0x4C, 1, 0, 0, 0] 7227; let rest : List Mbox := []; let r := (m.req.drop 64).take 7235; Config.mldsaVerify ((r.drop 16).take 2592) (r.take 2608) (ascii "LX960-OWNER-ENROL") (r.drop 2608) = true) → ∃ (s : State) (m : Mbox) (rest : List Mbox),
        (AsksMgmt s m rest 0x10 64)
        ∧ (let r := (m.req.drop 64).take 7235
        (m.formed (· == 7299) = true)
        ∧ (field r 0 4 = 0x4C584F57)
        ∧ (field r 4 4 = 1)
        ∧ (field r 8 8 = s.flash.dsn.toNat)
        ∧ ((s.flashRead 0x50000 7235).all (· == 0xFF#8) = true)
        ∧ (Mem1.wf flashD s.flash.bytes = true)
        ∧ (Config.mldsaVerify ((r.drop 16).take 2592) (r.take 2608) (ascii "LX960-OWNER-ENROL") (r.drop 2608) = true)))
      ∧ ((let s : State := asking (reqM 0x10 64 [0x57, 0x4F, 0x58, 0x4C, 1, 0, 0, 0] 7227) run; let m : Mbox := reqM 0x10 64 [0x57, 0x4F, 0x58, 0x4C, 1, 0, 0, 0] 7227; let rest : List Mbox := []; let r := (m.req.drop 64).take 7235; Config.mldsaVerify ((r.drop 16).take 2592) (r.take 2608) (ascii "LX960-OWNER-ENROL") (r.drop 2608) = false) → ∃ (s : State) (m : Mbox) (rest : List Mbox),
        (AsksMgmt s m rest 0x10 64)
        ∧ (let r := (m.req.drop 64).take 7235
        (m.formed (· == 7299) = true)
        ∧ (field r 0 4 = 0x4C584F57)
        ∧ (field r 4 4 = 1)
        ∧ (field r 8 8 = s.flash.dsn.toNat)
        ∧ ((s.flashRead 0x50000 7235).all (· == 0xFF#8) = true)
        ∧ (Config.mldsaVerify ((r.drop 16).take 2592) (r.take 2608) (ascii "LX960-OWNER-ENROL") (r.drop 2608) = false)))
      ∧ (∃ (s : State) (m : Mbox) (rest : List Mbox) (c : Instr),
        (s.ownerEnrolled = true)
        ∧ (m.formed (· == 4731) = true)
        ∧ (s.sec.challenge = none)
        ∧ ((c = .ownerRelease ∧ AsksMgmt s m rest 0x11 64) ∨ (c = .partitionReset ∧ AsksMgmt s m rest 0x13 64 ∧ byteAt m.req 96 ≠ 2) ∨ (c = .endSession ∧ AsksMgmt s m rest 0x13 64 ∧ byteAt m.req 96 = 2)))
      ∧ ((let s : State := owned (reqM 0x11 64 [] 4667) (some (List.replicate 32 0)); let m : Mbox := reqM 0x11 64 [] 4667; let rest : List Mbox := []; Config.mldsaVerify s.ownerPk ((m.req.drop 64).take 40) (ascii "LX960-OWNER-CMD") ((m.req.drop 104).take 4627) = true) → ∃ (s : State) (m : Mbox) (rest : List Mbox),
        (AsksMgmt s m rest 0x11 64)
        ∧ (s.ownerEnrolled = true)
        ∧ (m.formed (· == 4731) = true)
        ∧ (s.sec.challenge = some ((m.req.drop 64).take 32))
        ∧ (field m.req 96 8 = s.flash.dsn.toNat)
        ∧ (∀ p, p < 8 → (s.part p).valid = false)
        ∧ (Mem1.wf flashD s.flash.bytes = true)
        ∧ (Config.mldsaVerify s.ownerPk ((m.req.drop 64).take 40) (ascii "LX960-OWNER-CMD") ((m.req.drop 104).take 4627) = true))
      ∧ ((let s : State := owned (reqM 0x11 64 [] 4667) (some (List.replicate 32 0)); let m : Mbox := reqM 0x11 64 [] 4667; let rest : List Mbox := []; Config.mldsaVerify s.ownerPk ((m.req.drop 64).take 40) (ascii "LX960-OWNER-CMD") ((m.req.drop 104).take 4627) = false) → ∃ (s : State) (m : Mbox) (rest : List Mbox),
        (AsksMgmt s m rest 0x11 64)
        ∧ (s.ownerEnrolled = true)
        ∧ (m.formed (· == 4731) = true)
        ∧ (s.sec.challenge = some ((m.req.drop 64).take 32))
        ∧ (Config.mldsaVerify s.ownerPk ((m.req.drop 64).take 40) (ascii "LX960-OWNER-CMD") ((m.req.drop 104).take 4627) = false))
      ∧ ((let s : State := (owned (reqM 0x13 64 (List.replicate 32 0 ++ [1]) 4634) (some (List.replicate 32 0))).modPart 0 (fun p => { p with valid := true, policy := pol }); let m : Mbox := reqM 0x13 64 (List.replicate 32 0 ++ [1]) 4634; let rest : List Mbox := []; let p := byteAt m.req 97; Config.mldsaVerify s.ownerPk ((m.req.drop 64).take 40) (ascii "LX960-OWNER-CMD") ((m.req.drop 104).take 4627) = true) → ∃ (s : State) (m : Mbox) (rest : List Mbox),
        (AsksMgmt s m rest 0x13 64)
        ∧ (s.ownerEnrolled = true)
        ∧ (m.formed (· == 4731) = true)
        ∧ (s.sec.challenge = some ((m.req.drop 64).take 32))
        ∧ (byteAt m.req 96 = 1)
        ∧ (let p := byteAt m.req 97
        (p < 8)
        ∧ (p < s.parts.length)
        ∧ (zeroBytes m.req 98 103 = true)
        ∧ ((s.part p).valid = true)
        ∧ ((s.part p).flag 0 = true)
        ∧ (s.wnd.jobs = [])
        ∧ (s.wnd.serials = [])
        ∧ (∀ x ∈ rest, x.moved = false)
        ∧ (Mem1.wf ramD s.mem.dram = true)
        ∧ (Config.mldsaVerify s.ownerPk ((m.req.drop 64).take 40) (ascii "LX960-OWNER-CMD") ((m.req.drop 104).take 4627) = true)))
      ∧ ((let s : State := (owned (reqM 0x13 64 (List.replicate 32 0 ++ [1]) 4634) (some (List.replicate 32 0))).modPart 0 (fun p => { p with valid := true, policy := pol }); let m : Mbox := reqM 0x13 64 (List.replicate 32 0 ++ [1]) 4634; let rest : List Mbox := []; Config.mldsaVerify s.ownerPk ((m.req.drop 64).take 40) (ascii "LX960-OWNER-CMD") ((m.req.drop 104).take 4627) = false) → ∃ (s : State) (m : Mbox) (rest : List Mbox),
        (AsksMgmt s m rest 0x13 64)
        ∧ (s.ownerEnrolled = true)
        ∧ (m.formed (· == 4731) = true)
        ∧ (s.sec.challenge = some ((m.req.drop 64).take 32))
        ∧ (byteAt m.req 96 ≠ 2)
        ∧ (Config.mldsaVerify s.ownerPk ((m.req.drop 64).take 40) (ascii "LX960-OWNER-CMD") ((m.req.drop 104).take 4627) = false))
      ∧ ((let s : State := (owned (reqM 0x13 64 (List.replicate 32 0 ++ [2]) 4634) (some (List.replicate 32 0))).modPart 0 (fun p => { p with valid := true, policy := pol }); let m : Mbox := reqM 0x13 64 (List.replicate 32 0 ++ [2]) 4634; let rest : List Mbox := []; let p := byteAt m.req 97; Config.mldsaVerify s.ownerPk ((m.req.drop 64).take 40) (ascii "LX960-OWNER-CMD") ((m.req.drop 104).take 4627) = true) → ∃ (s : State) (m : Mbox) (rest : List Mbox),
        (AsksMgmt s m rest 0x13 64)
        ∧ (s.ownerEnrolled = true)
        ∧ (m.formed (· == 4731) = true)
        ∧ (s.sec.challenge = some ((m.req.drop 64).take 32))
        ∧ (byteAt m.req 96 = 2)
        ∧ (let p := byteAt m.req 97
        (p < 8)
        ∧ (p < s.parts.length)
        ∧ (zeroBytes m.req 98 103 = true)
        ∧ (Config.mldsaVerify s.ownerPk ((m.req.drop 64).take 40) (ascii "LX960-OWNER-CMD") ((m.req.drop 104).take 4627) = true)))
      ∧ ((let s : State := (owned (reqM 0x13 64 (List.replicate 32 0 ++ [2]) 4634) (some (List.replicate 32 0))).modPart 0 (fun p => { p with valid := true, policy := pol }); let m : Mbox := reqM 0x13 64 (List.replicate 32 0 ++ [2]) 4634; let rest : List Mbox := []; Config.mldsaVerify s.ownerPk ((m.req.drop 64).take 40) (ascii "LX960-OWNER-CMD") ((m.req.drop 104).take 4627) = false) → ∃ (s : State) (m : Mbox) (rest : List Mbox),
        (AsksMgmt s m rest 0x13 64)
        ∧ (s.ownerEnrolled = true)
        ∧ (m.formed (· == 4731) = true)
        ∧ (s.sec.challenge = some ((m.req.drop 64).take 32))
        ∧ (byteAt m.req 96 = 2)
        ∧ (Config.mldsaVerify s.ownerPk ((m.req.drop 64).take 40) (ascii "LX960-OWNER-CMD") ((m.req.drop 104).take 4627) = false))
      ∧ (∃ (s : State) (m : Mbox) (rest : List Mbox) (d : Nat),
        (AsksMgmt s m rest 0x12 64)
        ∧ (m.formed (· == 6035) = true)
        ∧ (s.policyFault (m.req.drop 64) = some d))
      ∧ ((let s : State := owned (reqM 0x12 64 ([0x4F, 0x50, 0x58, 0x4C, 1, 0, 0, 0]) 5963) none; let m : Mbox := reqM 0x12 64 ([0x4F, 0x50, 0x58, 0x4C, 1, 0, 0, 0]) 5963; let rest : List Mbox := []; s.policyFault (m.req.drop 64) = none) → ∃ (s : State) (m : Mbox) (rest : List Mbox),
        (AsksMgmt s m rest 0x12 64)
        ∧ (m.formed (· == 6035) = true)
        ∧ (∀ p, p < 8 → (s.part p).valid = false ∧ bitOf (byteAt (policyEntry (m.req.drop 64) p) 0) 0 = false)
        ∧ (s.policyFault (m.req.drop 64) = none))
      ∧ ((let s : State := owned (reqM 0x12 64 ([0x4F, 0x50, 0x58, 0x4C, 1, 0, 0, 0] ++ List.replicate 56 0 ++ pol) 5747) none; let m : Mbox := reqM 0x12 64 ([0x4F, 0x50, 0x58, 0x4C, 1, 0, 0, 0] ++ List.replicate 56 0 ++ pol) 5747; let rest : List Mbox := []; s.policyFault (m.req.drop 64) = none) → ∃ (s : State) (m : Mbox) (rest : List Mbox),
        (AsksMgmt s m rest 0x12 64)
        ∧ (m.formed (· == 6035) = true)
        ∧ (s.parts.length = 8)
        ∧ (∀ p, p < 8 → (s.part p).valid = false)
        ∧ (s.wnd.jobs = [])
        ∧ (s.wnd.serials = [])
        ∧ (∀ x ∈ rest, x.moved = false)
        ∧ (s.policyFault (m.req.drop 64) = none))
      ∧ (∃ (s : State) (p : Fin 8),
        (s.running = true)
        ∧ ((s.part p).valid = true)
        ∧ ((s.part p).zeroing = true)
        ∧ (0 < (s.part p).capacity)
        ∧ (Mem1.wf ramD s.mem.dram = true)
        ∧ (p.val < s.parts.length)) :=
  ⟨fun h => ⟨(asking (reqM 0x10 64 [0x57, 0x4F, 0x58, 0x4C, 1, 0, 0, 0] 7227) run), (reqM 0x10 64 [0x57, 0x4F, 0x58, 0x4C, 1, 0, 0, 0] 7227), ([]), (by simp only [AsksMgmt, AsksTenant]; (repeat' apply And.intro) <;> first | (rw [formed_reqM _ _ _ _ _ (by decide +kernel)]; rfl) | (rw [formed_reqT _ _ _ _ _ (by decide +kernel)]; rfl) | decide +kernel | exact noEventRings_of _ (by decide +kernel) | rfl), (by first | (rw [formed_reqM _ _ _ _ _ (by decide +kernel)]; decide +kernel) | (rw [formed_reqT _ _ _ _ _ (by decide +kernel)]; decide +kernel) | decide +kernel | rfl), (by first | (rw [formed_reqM _ _ _ _ _ (by decide +kernel)]; decide +kernel) | (rw [formed_reqT _ _ _ _ _ (by decide +kernel)]; decide +kernel) | decide +kernel | rfl), (by first | (rw [formed_reqM _ _ _ _ _ (by decide +kernel)]; decide +kernel) | (rw [formed_reqT _ _ _ _ _ (by decide +kernel)]; decide +kernel) | decide +kernel | rfl), (by first | (rw [formed_reqM _ _ _ _ _ (by decide +kernel)]; decide +kernel) | (rw [formed_reqT _ _ _ _ _ (by decide +kernel)]; decide +kernel) | decide +kernel | rfl), (by first | (rw [formed_reqM _ _ _ _ _ (by decide +kernel)]; decide +kernel) | (rw [formed_reqT _ _ _ _ _ (by decide +kernel)]; decide +kernel) | decide +kernel | rfl), (by first | (rw [formed_reqM _ _ _ _ _ (by decide +kernel)]; decide +kernel) | (rw [formed_reqT _ _ _ _ _ (by decide +kernel)]; decide +kernel) | decide +kernel | rfl), h⟩,
   fun h => ⟨(asking (reqM 0x10 64 [0x57, 0x4F, 0x58, 0x4C, 1, 0, 0, 0] 7227) run), (reqM 0x10 64 [0x57, 0x4F, 0x58, 0x4C, 1, 0, 0, 0] 7227), ([]), (by simp only [AsksMgmt, AsksTenant]; (repeat' apply And.intro) <;> first | (rw [formed_reqM _ _ _ _ _ (by decide +kernel)]; rfl) | (rw [formed_reqT _ _ _ _ _ (by decide +kernel)]; rfl) | decide +kernel | exact noEventRings_of _ (by decide +kernel) | rfl), (by first | (rw [formed_reqM _ _ _ _ _ (by decide +kernel)]; decide +kernel) | (rw [formed_reqT _ _ _ _ _ (by decide +kernel)]; decide +kernel) | decide +kernel | rfl), (by first | (rw [formed_reqM _ _ _ _ _ (by decide +kernel)]; decide +kernel) | (rw [formed_reqT _ _ _ _ _ (by decide +kernel)]; decide +kernel) | decide +kernel | rfl), (by first | (rw [formed_reqM _ _ _ _ _ (by decide +kernel)]; decide +kernel) | (rw [formed_reqT _ _ _ _ _ (by decide +kernel)]; decide +kernel) | decide +kernel | rfl), (by first | (rw [formed_reqM _ _ _ _ _ (by decide +kernel)]; decide +kernel) | (rw [formed_reqT _ _ _ _ _ (by decide +kernel)]; decide +kernel) | decide +kernel | rfl), (by first | (rw [formed_reqM _ _ _ _ _ (by decide +kernel)]; decide +kernel) | (rw [formed_reqT _ _ _ _ _ (by decide +kernel)]; decide +kernel) | decide +kernel | rfl), h⟩,
   ⟨(owned (reqM 0x11 64 [] 4667) none), (reqM 0x11 64 [] 4667), ([]), .ownerRelease, by simp only [AsksMgmt]; (repeat' apply And.intro) <;> first | (rw [formed_reqM _ _ _ _ _ (by decide +kernel)]; rfl) | (rw [formed_reqT _ _ _ _ _ (by decide +kernel)]; rfl) | decide +kernel | exact noEventRings_of _ (by decide +kernel) | exact Or.inl (by (repeat' apply And.intro) <;> first | (rw [formed_reqM _ _ _ _ _ (by decide +kernel)]; rfl) | (rw [formed_reqT _ _ _ _ _ (by decide +kernel)]; rfl) | decide +kernel | exact noEventRings_of _ (by decide +kernel) | rfl) | rfl⟩,
   fun h => ⟨(owned (reqM 0x11 64 [] 4667) (some (List.replicate 32 0))), (reqM 0x11 64 [] 4667), ([]), (by simp only [AsksMgmt, AsksTenant]; (repeat' apply And.intro) <;> first | (rw [formed_reqM _ _ _ _ _ (by decide +kernel)]; rfl) | (rw [formed_reqT _ _ _ _ _ (by decide +kernel)]; rfl) | decide +kernel | exact noEventRings_of _ (by decide +kernel) | rfl), (by first | (rw [formed_reqM _ _ _ _ _ (by decide +kernel)]; decide +kernel) | (rw [formed_reqT _ _ _ _ _ (by decide +kernel)]; decide +kernel) | decide +kernel | rfl), (by first | (rw [formed_reqM _ _ _ _ _ (by decide +kernel)]; decide +kernel) | (rw [formed_reqT _ _ _ _ _ (by decide +kernel)]; decide +kernel) | decide +kernel | rfl), (by first | (rw [formed_reqM _ _ _ _ _ (by decide +kernel)]; decide +kernel) | (rw [formed_reqT _ _ _ _ _ (by decide +kernel)]; decide +kernel) | decide +kernel | rfl), (by first | (rw [formed_reqM _ _ _ _ _ (by decide +kernel)]; decide +kernel) | (rw [formed_reqT _ _ _ _ _ (by decide +kernel)]; decide +kernel) | decide +kernel | rfl), (by first | (rw [formed_reqM _ _ _ _ _ (by decide +kernel)]; decide +kernel) | (rw [formed_reqT _ _ _ _ _ (by decide +kernel)]; decide +kernel) | decide +kernel | rfl), (by first | (rw [formed_reqM _ _ _ _ _ (by decide +kernel)]; decide +kernel) | (rw [formed_reqT _ _ _ _ _ (by decide +kernel)]; decide +kernel) | decide +kernel | rfl), h⟩,
   fun h => ⟨(owned (reqM 0x11 64 [] 4667) (some (List.replicate 32 0))), (reqM 0x11 64 [] 4667), ([]), (by simp only [AsksMgmt, AsksTenant]; (repeat' apply And.intro) <;> first | (rw [formed_reqM _ _ _ _ _ (by decide +kernel)]; rfl) | (rw [formed_reqT _ _ _ _ _ (by decide +kernel)]; rfl) | decide +kernel | exact noEventRings_of _ (by decide +kernel) | rfl), (by first | (rw [formed_reqM _ _ _ _ _ (by decide +kernel)]; decide +kernel) | (rw [formed_reqT _ _ _ _ _ (by decide +kernel)]; decide +kernel) | decide +kernel | rfl), (by first | (rw [formed_reqM _ _ _ _ _ (by decide +kernel)]; decide +kernel) | (rw [formed_reqT _ _ _ _ _ (by decide +kernel)]; decide +kernel) | decide +kernel | rfl), (by first | (rw [formed_reqM _ _ _ _ _ (by decide +kernel)]; decide +kernel) | (rw [formed_reqT _ _ _ _ _ (by decide +kernel)]; decide +kernel) | decide +kernel | rfl), h⟩,
   fun h => ⟨((owned (reqM 0x13 64 (List.replicate 32 0 ++ [1]) 4634) (some (List.replicate 32 0))).modPart 0 (fun p => { p with valid := true, policy := pol })), (reqM 0x13 64 (List.replicate 32 0 ++ [1]) 4634), ([]), (by simp only [AsksMgmt, AsksTenant]; (repeat' apply And.intro) <;> first | (rw [formed_reqM _ _ _ _ _ (by decide +kernel)]; rfl) | (rw [formed_reqT _ _ _ _ _ (by decide +kernel)]; rfl) | decide +kernel | exact noEventRings_of _ (by decide +kernel) | rfl), (by first | (rw [formed_reqM _ _ _ _ _ (by decide +kernel)]; decide +kernel) | (rw [formed_reqT _ _ _ _ _ (by decide +kernel)]; decide +kernel) | decide +kernel | rfl), (by first | (rw [formed_reqM _ _ _ _ _ (by decide +kernel)]; decide +kernel) | (rw [formed_reqT _ _ _ _ _ (by decide +kernel)]; decide +kernel) | decide +kernel | rfl), (by first | (rw [formed_reqM _ _ _ _ _ (by decide +kernel)]; decide +kernel) | (rw [formed_reqT _ _ _ _ _ (by decide +kernel)]; decide +kernel) | decide +kernel | rfl), (by first | (rw [formed_reqM _ _ _ _ _ (by decide +kernel)]; decide +kernel) | (rw [formed_reqT _ _ _ _ _ (by decide +kernel)]; decide +kernel) | decide +kernel | rfl), (by first | (rw [formed_reqM _ _ _ _ _ (by decide +kernel)]; decide +kernel) | (rw [formed_reqT _ _ _ _ _ (by decide +kernel)]; decide +kernel) | decide +kernel | rfl), (by first | (rw [formed_reqM _ _ _ _ _ (by decide +kernel)]; decide +kernel) | (rw [formed_reqT _ _ _ _ _ (by decide +kernel)]; decide +kernel) | decide +kernel | rfl), (by first | (rw [formed_reqM _ _ _ _ _ (by decide +kernel)]; decide +kernel) | (rw [formed_reqT _ _ _ _ _ (by decide +kernel)]; decide +kernel) | decide +kernel | rfl), (by first | (rw [formed_reqM _ _ _ _ _ (by decide +kernel)]; decide +kernel) | (rw [formed_reqT _ _ _ _ _ (by decide +kernel)]; decide +kernel) | decide +kernel | rfl), (by first | (rw [formed_reqM _ _ _ _ _ (by decide +kernel)]; decide +kernel) | (rw [formed_reqT _ _ _ _ _ (by decide +kernel)]; decide +kernel) | decide +kernel | rfl), (by first | (rw [formed_reqM _ _ _ _ _ (by decide +kernel)]; decide +kernel) | (rw [formed_reqT _ _ _ _ _ (by decide +kernel)]; decide +kernel) | decide +kernel | rfl), (by first | (rw [formed_reqM _ _ _ _ _ (by decide +kernel)]; decide +kernel) | (rw [formed_reqT _ _ _ _ _ (by decide +kernel)]; decide +kernel) | decide +kernel | rfl), (by first | (rw [formed_reqM _ _ _ _ _ (by decide +kernel)]; decide +kernel) | (rw [formed_reqT _ _ _ _ _ (by decide +kernel)]; decide +kernel) | decide +kernel | rfl), (by first | (rw [formed_reqM _ _ _ _ _ (by decide +kernel)]; decide +kernel) | (rw [formed_reqT _ _ _ _ _ (by decide +kernel)]; decide +kernel) | decide +kernel | rfl), h⟩,
   fun h => ⟨((owned (reqM 0x13 64 (List.replicate 32 0 ++ [1]) 4634) (some (List.replicate 32 0))).modPart 0 (fun p => { p with valid := true, policy := pol })), (reqM 0x13 64 (List.replicate 32 0 ++ [1]) 4634), ([]), (by simp only [AsksMgmt, AsksTenant]; (repeat' apply And.intro) <;> first | (rw [formed_reqM _ _ _ _ _ (by decide +kernel)]; rfl) | (rw [formed_reqT _ _ _ _ _ (by decide +kernel)]; rfl) | decide +kernel | exact noEventRings_of _ (by decide +kernel) | rfl), (by first | (rw [formed_reqM _ _ _ _ _ (by decide +kernel)]; decide +kernel) | (rw [formed_reqT _ _ _ _ _ (by decide +kernel)]; decide +kernel) | decide +kernel | rfl), (by first | (rw [formed_reqM _ _ _ _ _ (by decide +kernel)]; decide +kernel) | (rw [formed_reqT _ _ _ _ _ (by decide +kernel)]; decide +kernel) | decide +kernel | rfl), (by first | (rw [formed_reqM _ _ _ _ _ (by decide +kernel)]; decide +kernel) | (rw [formed_reqT _ _ _ _ _ (by decide +kernel)]; decide +kernel) | decide +kernel | rfl), (by first | (rw [formed_reqM _ _ _ _ _ (by decide +kernel)]; decide +kernel) | (rw [formed_reqT _ _ _ _ _ (by decide +kernel)]; decide +kernel) | decide +kernel | rfl), h⟩,
   fun h => ⟨((owned (reqM 0x13 64 (List.replicate 32 0 ++ [2]) 4634) (some (List.replicate 32 0))).modPart 0 (fun p => { p with valid := true, policy := pol })), (reqM 0x13 64 (List.replicate 32 0 ++ [2]) 4634), ([]), (by simp only [AsksMgmt, AsksTenant]; (repeat' apply And.intro) <;> first | (rw [formed_reqM _ _ _ _ _ (by decide +kernel)]; rfl) | (rw [formed_reqT _ _ _ _ _ (by decide +kernel)]; rfl) | decide +kernel | exact noEventRings_of _ (by decide +kernel) | rfl), (by first | (rw [formed_reqM _ _ _ _ _ (by decide +kernel)]; decide +kernel) | (rw [formed_reqT _ _ _ _ _ (by decide +kernel)]; decide +kernel) | decide +kernel | rfl), (by first | (rw [formed_reqM _ _ _ _ _ (by decide +kernel)]; decide +kernel) | (rw [formed_reqT _ _ _ _ _ (by decide +kernel)]; decide +kernel) | decide +kernel | rfl), (by first | (rw [formed_reqM _ _ _ _ _ (by decide +kernel)]; decide +kernel) | (rw [formed_reqT _ _ _ _ _ (by decide +kernel)]; decide +kernel) | decide +kernel | rfl), (by first | (rw [formed_reqM _ _ _ _ _ (by decide +kernel)]; decide +kernel) | (rw [formed_reqT _ _ _ _ _ (by decide +kernel)]; decide +kernel) | decide +kernel | rfl), (by first | (rw [formed_reqM _ _ _ _ _ (by decide +kernel)]; decide +kernel) | (rw [formed_reqT _ _ _ _ _ (by decide +kernel)]; decide +kernel) | decide +kernel | rfl), (by first | (rw [formed_reqM _ _ _ _ _ (by decide +kernel)]; decide +kernel) | (rw [formed_reqT _ _ _ _ _ (by decide +kernel)]; decide +kernel) | decide +kernel | rfl), (by first | (rw [formed_reqM _ _ _ _ _ (by decide +kernel)]; decide +kernel) | (rw [formed_reqT _ _ _ _ _ (by decide +kernel)]; decide +kernel) | decide +kernel | rfl), h⟩,
   fun h => ⟨((owned (reqM 0x13 64 (List.replicate 32 0 ++ [2]) 4634) (some (List.replicate 32 0))).modPart 0 (fun p => { p with valid := true, policy := pol })), (reqM 0x13 64 (List.replicate 32 0 ++ [2]) 4634), ([]), (by simp only [AsksMgmt, AsksTenant]; (repeat' apply And.intro) <;> first | (rw [formed_reqM _ _ _ _ _ (by decide +kernel)]; rfl) | (rw [formed_reqT _ _ _ _ _ (by decide +kernel)]; rfl) | decide +kernel | exact noEventRings_of _ (by decide +kernel) | rfl), (by first | (rw [formed_reqM _ _ _ _ _ (by decide +kernel)]; decide +kernel) | (rw [formed_reqT _ _ _ _ _ (by decide +kernel)]; decide +kernel) | decide +kernel | rfl), (by first | (rw [formed_reqM _ _ _ _ _ (by decide +kernel)]; decide +kernel) | (rw [formed_reqT _ _ _ _ _ (by decide +kernel)]; decide +kernel) | decide +kernel | rfl), (by first | (rw [formed_reqM _ _ _ _ _ (by decide +kernel)]; decide +kernel) | (rw [formed_reqT _ _ _ _ _ (by decide +kernel)]; decide +kernel) | decide +kernel | rfl), (by first | (rw [formed_reqM _ _ _ _ _ (by decide +kernel)]; decide +kernel) | (rw [formed_reqT _ _ _ _ _ (by decide +kernel)]; decide +kernel) | decide +kernel | rfl), h⟩,
   ⟨(asking (reqM 0x12 64 [] 5971) run), (reqM 0x12 64 [] 5971), ([]), 1, by simp only [AsksMgmt]; (repeat' apply And.intro) <;> first | (rw [formed_reqM _ _ _ _ _ (by decide +kernel)]; rfl) | (rw [formed_reqT _ _ _ _ _ (by decide +kernel)]; rfl) | decide +kernel | exact noEventRings_of _ (by decide +kernel) | rfl⟩,
   fun h => ⟨(owned (reqM 0x12 64 ([0x4F, 0x50, 0x58, 0x4C, 1, 0, 0, 0]) 5963) none), (reqM 0x12 64 ([0x4F, 0x50, 0x58, 0x4C, 1, 0, 0, 0]) 5963), ([]), (by simp only [AsksMgmt, AsksTenant]; (repeat' apply And.intro) <;> first | (rw [formed_reqM _ _ _ _ _ (by decide +kernel)]; rfl) | (rw [formed_reqT _ _ _ _ _ (by decide +kernel)]; rfl) | decide +kernel | exact noEventRings_of _ (by decide +kernel) | rfl), (by first | (rw [formed_reqM _ _ _ _ _ (by decide +kernel)]; decide +kernel) | (rw [formed_reqT _ _ _ _ _ (by decide +kernel)]; decide +kernel) | decide +kernel | rfl), (by first | (rw [formed_reqM _ _ _ _ _ (by decide +kernel)]; decide +kernel) | (rw [formed_reqT _ _ _ _ _ (by decide +kernel)]; decide +kernel) | decide +kernel | rfl), h⟩,
   fun h => ⟨(owned (reqM 0x12 64 ([0x4F, 0x50, 0x58, 0x4C, 1, 0, 0, 0] ++ List.replicate 56 0 ++ pol) 5747) none), (reqM 0x12 64 ([0x4F, 0x50, 0x58, 0x4C, 1, 0, 0, 0] ++ List.replicate 56 0 ++ pol) 5747), ([]), (by simp only [AsksMgmt, AsksTenant]; (repeat' apply And.intro) <;> first | (rw [formed_reqM _ _ _ _ _ (by decide +kernel)]; rfl) | (rw [formed_reqT _ _ _ _ _ (by decide +kernel)]; rfl) | decide +kernel | exact noEventRings_of _ (by decide +kernel) | rfl), (by first | (rw [formed_reqM _ _ _ _ _ (by decide +kernel)]; decide +kernel) | (rw [formed_reqT _ _ _ _ _ (by decide +kernel)]; decide +kernel) | decide +kernel | rfl), (by first | (rw [formed_reqM _ _ _ _ _ (by decide +kernel)]; decide +kernel) | (rw [formed_reqT _ _ _ _ _ (by decide +kernel)]; decide +kernel) | decide +kernel | rfl), (by first | (rw [formed_reqM _ _ _ _ _ (by decide +kernel)]; decide +kernel) | (rw [formed_reqT _ _ _ _ _ (by decide +kernel)]; decide +kernel) | decide +kernel | rfl), (by first | (rw [formed_reqM _ _ _ _ _ (by decide +kernel)]; decide +kernel) | (rw [formed_reqT _ _ _ _ _ (by decide +kernel)]; decide +kernel) | decide +kernel | rfl), (by first | (rw [formed_reqM _ _ _ _ _ (by decide +kernel)]; decide +kernel) | (rw [formed_reqT _ _ _ _ _ (by decide +kernel)]; decide +kernel) | decide +kernel | rfl), (by first | (rw [formed_reqM _ _ _ _ _ (by decide +kernel)]; decide +kernel) | (rw [formed_reqT _ _ _ _ _ (by decide +kernel)]; decide +kernel) | decide +kernel | rfl), h⟩,
   ⟨(run0.modPart 0 (fun p => { p with zeroing := true })), 0, by decide +kernel⟩⟩

/-- The hypotheses of every clause of `Obligations.TenantSessions` can be met. -/
theorem witness_TenantSessions :
      (∃ (s : State) (m : Mbox) (rest : List Mbox) (k : Fin 4) (f : Fin 8),
        (AsksTenant s m rest k f 0x20 6883)
        ∧ (m.formed (· == 1664) = true))
      ∧ (∃ (s : State) (m : Mbox) (rest : List Mbox) (k : Fin 4) (f : Fin 8),
        (AsksTenant s m rest k f 0x21 64)
        ∧ (m.formed (fun n => decide (192 ≤ n)) = true)
        ∧ (zeroBytes m.req 68 127 = true)
        ∧ ((s.part (byteAt m.req 2)).offer = none))
      ∧ (∃ (s : State) (m : Mbox) (rest : List Mbox) (k : Fin 4) (f : Fin 8) (o : Session),
        (AsksTenant s m rest k f 0x21 64)
        ∧ (m.formed (fun n => decide (192 ≤ n)) = true)
        ∧ (zeroBytes m.req 68 127 = true)
        ∧ ((s.part (byteAt m.req 2)).offer = some o)
        ∧ (o.id.toNat ≠ field m.req 64 4))
      ∧ (∃ (s : State) (m : Mbox) (rest : List Mbox) (k : Fin 4) (f : Fin 8) (o : Session),
        (AsksTenant s m rest k f 0x21 64)
        ∧ (m.formed (fun n => decide (192 ≤ n)) = true)
        ∧ (zeroBytes m.req 68 127 = true)
        ∧ ((s.part (byteAt m.req 2)).offer = some o)
        ∧ (o.openWith (byteAt m.req 2) (m.req.drop 128) = none))
      ∧ (∀ (b : Bytes), (let s : State := (tenant (reqT 0x21 64 (List.replicate 64 0 ++ leBytes 4 0x4C585345 ++ List.replicate 20 0 ++ leBytes 4 64) 100) none).modPart 0 (fun p => { p with offer := some {} }); let m : Mbox := reqT 0x21 64 (List.replicate 64 0 ++ leBytes 4 0x4C585345 ++ List.replicate 20 0 ++ leBytes 4 64) 100; let rest : List Mbox := []; let k : Fin 4 := 0; let f : Fin 8 := 0; let o : Session := {}; let b : Bytes := b; let p := byteAt m.req 2; o.openWith p (m.req.drop 128) = some (0, b)) → (let s : State := (tenant (reqT 0x21 64 (List.replicate 64 0 ++ leBytes 4 0x4C585345 ++ List.replicate 20 0 ++ leBytes 4 64) 100) none).modPart 0 (fun p => { p with offer := some {} }); let m : Mbox := reqT 0x21 64 (List.replicate 64 0 ++ leBytes 4 0x4C585345 ++ List.replicate 20 0 ++ leBytes 4 64) 100; let rest : List Mbox := []; let k : Fin 4 := 0; let f : Fin 8 := 0; let o : Session := {}; let b : Bytes := b; let p := byteAt m.req 2; (s.part p).confirms o.hash b = true) → ∃ (s : State) (m : Mbox) (rest : List Mbox) (k : Fin 4) (f : Fin 8) (o : Session) (b : Bytes),
        (AsksTenant s m rest k f 0x21 64)
        ∧ (m.formed (fun n => decide (192 ≤ n)) = true)
        ∧ (zeroBytes m.req 68 127 = true)
        ∧ (let p := byteAt m.req 2
        ((s.part p).offer = some o)
        ∧ (o.id.toNat = field m.req 64 4)
        ∧ (o.openWith p (m.req.drop 128) = some (0, b))
        ∧ ((s.part p).confirms o.hash b = true)))
      ∧ (∃ (s : State) (m : Mbox) (rest : List Mbox) (k : Fin 4) (f : Fin 8),
        (AsksTenant s m rest k f 0x22 64)
        ∧ (m.formed (fun n => decide (128 ≤ n)) = true)
        ∧ ((s.part (byteAt m.req 2)).session = none))
      ∧ (∃ (s : State) (m : Mbox) (rest : List Mbox) (k : Fin 4) (f : Fin 8) (x : Session),
        (AsksTenant s m rest k f 0x22 64)
        ∧ (m.formed (fun n => decide (128 ≤ n)) = true)
        ∧ ((s.part (byteAt m.req 2)).session = some x)
        ∧ (x.openWith (byteAt m.req 2) (m.req.drop 64) = none))
      ∧ ((let s : State := tenant (reqT 0x22 64 (leBytes 4 0x4C585345 ++ List.replicate 20 0 ++ leBytes 4 64) 100) (some {}); let m : Mbox := reqT 0x22 64 (leBytes 4 0x4C585345 ++ List.replicate 20 0 ++ leBytes 4 64) 100; let rest : List Mbox := []; let k : Fin 4 := 0; let f : Fin 8 := 0; let x : Session := {}; let q : Nat := 0; let b : Bytes := 2 :: List.replicate 63 0; let p := byteAt m.req 2; x.openWith p (m.req.drop 64) = some (q, b)) → ∃ (s : State) (m : Mbox) (rest : List Mbox) (k : Fin 4) (f : Fin 8) (x : Session) (q : Nat) (b : Bytes),
        (AsksTenant s m rest k f 0x22 64)
        ∧ (m.formed (fun n => decide (128 ≤ n)) = true)
        ∧ (let p := byteAt m.req 2
        ((s.part p).session = some x)
        ∧ (x.openWith p (m.req.drop 64) = some (q, b))
        ∧ (tenantCode b = 2)))
      ∧ ((let s : State := tenant (reqT 0x22 64 (leBytes 4 0x4C585345 ++ List.replicate 20 0 ++ leBytes 4 64) 100) (some {}); let m : Mbox := reqT 0x22 64 (leBytes 4 0x4C585345 ++ List.replicate 20 0 ++ leBytes 4 64) 100; let rest : List Mbox := []; let k : Fin 4 := 0; let f : Fin 8 := 0; let x : Session := {}; let q : Nat := 0; let b : Bytes := 1 :: List.replicate 63 0; let p := byteAt m.req 2; x.openWith p (m.req.drop 64) = some (q, b)) → ∃ (s : State) (m : Mbox) (rest : List Mbox) (k : Fin 4) (f : Fin 8) (x : Session) (q : Nat) (b : Bytes),
        (AsksTenant s m rest k f 0x22 64)
        ∧ (m.formed (fun n => decide (128 ≤ n)) = true)
        ∧ (let p := byteAt m.req 2
        ((s.part p).session = some x)
        ∧ (x.openWith p (m.req.drop 64) = some (q, b))
        ∧ (tenantCode b = 1)
        ∧ (s.wnd.jobs = [])
        ∧ (s.wnd.serials = [])
        ∧ ((s.part p).flag 0 = true)
        ∧ (∀ y ∈ rest, y.moved = false)))
      ∧ ((let s : State := tenant (reqT 0x22 64 (leBytes 4 0x4C585345 ++ List.replicate 20 0 ++ leBytes 4 64) 100) (some {}); let m : Mbox := reqT 0x22 64 (leBytes 4 0x4C585345 ++ List.replicate 20 0 ++ leBytes 4 64) 100; let rest : List Mbox := []; let k : Fin 4 := 0; let f : Fin 8 := 0; let x : Session := {}; let q : Nat := 0; let b : Bytes := 0 :: List.replicate 63 0; let p := byteAt m.req 2; x.openWith p (m.req.drop 64) = some (q, b)) → ∃ (s : State) (m : Mbox) (rest : List Mbox) (k : Fin 4) (f : Fin 8) (x : Session) (q : Nat) (b : Bytes),
        (AsksTenant s m rest k f 0x22 64)
        ∧ (m.formed (fun n => decide (128 ≤ n)) = true)
        ∧ (let p := byteAt m.req 2
        ((s.part p).session = some x)
        ∧ (x.openWith p (m.req.drop 64) = some (q, b))
        ∧ (tenantCode b = 0)))
      ∧ (∃ (s : State) (m : Mbox) (rest : List Mbox) (k : Fin 4) (f : Fin 8) (b : Bytes) (d : Nat),
        (AsksTenant s m rest k f 0x30 72)
        ∧ (m.formed (· == 96) = true)
        ∧ (field m.req 64 8 % 64 = 0)
        ∧ (field m.req 72 4 = 1)
        ∧ (byteAt m.req 76 = 1)
        ∧ (zeroBytes m.req 77 79 = true)
        ∧ ((s.part (byteAt m.req 2)).flag 2 = true)
        ∧ (field m.req 88 4 = b.length)
        ∧ (s.xlateRangeAgent (byteAt m.req 2) (field m.req 64 8) b.length true = .inl [(d, b.length)])
        ∧ (Mem1.wf ramD s.mem.dram = true))
      ∧ (∃ (s : State) (m : Mbox) (rest : List Mbox) (k : Fin 4) (f : Fin 8) (x : Session) (d : Nat),
        (AsksTenant s m rest k f 0x31 80)
        ∧ (m.formed (· == 88) = true)
        ∧ (field m.req 72 4 = 64)
        ∧ (field m.req 76 4 = 64)
        ∧ (let p := byteAt m.req 2
        let va := field m.req 64 8
        ((s.part p).session = some x)
        ∧ (s.xlateRangeAgent p va 64 false = .inl [(d, 64)])
        ∧ (((s.touchWalks p va 64).touchPieces [(d, 64)]).dramPoisoned d 64 = false)
        ∧ (field m.req 80 8 + 128 ≤ field m.req 8 8))) :=
  ⟨⟨(tenant (reqT 0x20 6883 [] 1600) none), (reqT 0x20 6883 [] 1600), ([]), 0, 0, by simp only [AsksTenant]; (repeat' apply And.intro) <;> first | (rw [formed_reqM _ _ _ _ _ (by decide +kernel)]; rfl) | (rw [formed_reqT _ _ _ _ _ (by decide +kernel)]; rfl) | decide +kernel | exact noEventRings_of _ (by decide +kernel) | rfl⟩,
   ⟨(tenant (reqT 0x21 64 [] 128) none), (reqT 0x21 64 [] 128), ([]), 0, 0, by simp only [AsksTenant]; (repeat' apply And.intro) <;> first | (rw [formed_reqM _ _ _ _ _ (by decide +kernel)]; rfl) | (rw [formed_reqT _ _ _ _ _ (by decide +kernel)]; rfl) | decide +kernel | exact noEventRings_of _ (by decide +kernel) | rfl⟩,
   ⟨((tenant (reqT 0x21 64 [] 128) none).modPart 0 (fun p => { p with offer := some { id := 7 } })), (reqT 0x21 64 [] 128), ([]), 0, 0, ({ id := 7 }), by simp only [AsksTenant]; (repeat' apply And.intro) <;> first | (rw [formed_reqM _ _ _ _ _ (by decide +kernel)]; rfl) | (rw [formed_reqT _ _ _ _ _ (by decide +kernel)]; rfl) | decide +kernel | exact noEventRings_of _ (by decide +kernel) | rfl⟩,
   ⟨((tenant (reqT 0x21 64 [] 128) none).modPart 0 (fun p => { p with offer := some {} })), (reqT 0x21 64 [] 128), ([]), 0, 0, ({}), by simp only [AsksTenant]; (repeat' apply And.intro) <;> first | (rw [formed_reqM _ _ _ _ _ (by decide +kernel)]; rfl) | (rw [formed_reqT _ _ _ _ _ (by decide +kernel)]; rfl) | decide +kernel | exact noEventRings_of _ (by decide +kernel) | rfl⟩,
   fun b h h1 => ⟨((tenant (reqT 0x21 64 (List.replicate 64 0 ++ leBytes 4 0x4C585345 ++ List.replicate 20 0 ++ leBytes 4 64) 100) none).modPart 0 (fun p => { p with offer := some {} })), (reqT 0x21 64 (List.replicate 64 0 ++ leBytes 4 0x4C585345 ++ List.replicate 20 0 ++ leBytes 4 64) 100), ([]), 0, 0, ({}), b, (by simp only [AsksMgmt, AsksTenant]; (repeat' apply And.intro) <;> first | (rw [formed_reqM _ _ _ _ _ (by decide +kernel)]; rfl) | (rw [formed_reqT _ _ _ _ _ (by decide +kernel)]; rfl) | decide +kernel | exact noEventRings_of _ (by decide +kernel) | rfl), (by first | (rw [formed_reqM _ _ _ _ _ (by decide +kernel)]; decide +kernel) | (rw [formed_reqT _ _ _ _ _ (by decide +kernel)]; decide +kernel) | decide +kernel | rfl), (by first | (rw [formed_reqM _ _ _ _ _ (by decide +kernel)]; decide +kernel) | (rw [formed_reqT _ _ _ _ _ (by decide +kernel)]; decide +kernel) | decide +kernel | rfl), (by first | (rw [formed_reqM _ _ _ _ _ (by decide +kernel)]; decide +kernel) | (rw [formed_reqT _ _ _ _ _ (by decide +kernel)]; decide +kernel) | decide +kernel | rfl), (by first | (rw [formed_reqM _ _ _ _ _ (by decide +kernel)]; decide +kernel) | (rw [formed_reqT _ _ _ _ _ (by decide +kernel)]; decide +kernel) | decide +kernel | rfl), h, h1⟩,
   ⟨(tenant (reqT 0x22 64 [] 64) none), (reqT 0x22 64 [] 64), ([]), 0, 0, by simp only [AsksTenant]; (repeat' apply And.intro) <;> first | (rw [formed_reqM _ _ _ _ _ (by decide +kernel)]; rfl) | (rw [formed_reqT _ _ _ _ _ (by decide +kernel)]; rfl) | decide +kernel | exact noEventRings_of _ (by decide +kernel) | rfl⟩,
   ⟨(tenant (reqT 0x22 64 [] 64) (some {})), (reqT 0x22 64 [] 64), ([]), 0, 0, ({}), by simp only [AsksTenant]; (repeat' apply And.intro) <;> first | (rw [formed_reqM _ _ _ _ _ (by decide +kernel)]; rfl) | (rw [formed_reqT _ _ _ _ _ (by decide +kernel)]; rfl) | decide +kernel | exact noEventRings_of _ (by decide +kernel) | rfl⟩,
   fun h => ⟨(tenant (reqT 0x22 64 (leBytes 4 0x4C585345 ++ List.replicate 20 0 ++ leBytes 4 64) 100) (some {})), (reqT 0x22 64 (leBytes 4 0x4C585345 ++ List.replicate 20 0 ++ leBytes 4 64) 100), ([]), 0, 0, ({}), 0, (2 :: List.replicate 63 0), (by simp only [AsksMgmt, AsksTenant]; (repeat' apply And.intro) <;> first | (rw [formed_reqM _ _ _ _ _ (by decide +kernel)]; rfl) | (rw [formed_reqT _ _ _ _ _ (by decide +kernel)]; rfl) | decide +kernel | exact noEventRings_of _ (by decide +kernel) | rfl), (by first | (rw [formed_reqM _ _ _ _ _ (by decide +kernel)]; decide +kernel) | (rw [formed_reqT _ _ _ _ _ (by decide +kernel)]; decide +kernel) | decide +kernel | rfl), (by first | (rw [formed_reqM _ _ _ _ _ (by decide +kernel)]; decide +kernel) | (rw [formed_reqT _ _ _ _ _ (by decide +kernel)]; decide +kernel) | decide +kernel | rfl), h, (by first | (rw [formed_reqM _ _ _ _ _ (by decide +kernel)]; decide +kernel) | (rw [formed_reqT _ _ _ _ _ (by decide +kernel)]; decide +kernel) | decide +kernel | rfl)⟩,
   fun h => ⟨(tenant (reqT 0x22 64 (leBytes 4 0x4C585345 ++ List.replicate 20 0 ++ leBytes 4 64) 100) (some {})), (reqT 0x22 64 (leBytes 4 0x4C585345 ++ List.replicate 20 0 ++ leBytes 4 64) 100), ([]), 0, 0, ({}), 0, (1 :: List.replicate 63 0), (by simp only [AsksMgmt, AsksTenant]; (repeat' apply And.intro) <;> first | (rw [formed_reqM _ _ _ _ _ (by decide +kernel)]; rfl) | (rw [formed_reqT _ _ _ _ _ (by decide +kernel)]; rfl) | decide +kernel | exact noEventRings_of _ (by decide +kernel) | rfl), (by first | (rw [formed_reqM _ _ _ _ _ (by decide +kernel)]; decide +kernel) | (rw [formed_reqT _ _ _ _ _ (by decide +kernel)]; decide +kernel) | decide +kernel | rfl), (by first | (rw [formed_reqM _ _ _ _ _ (by decide +kernel)]; decide +kernel) | (rw [formed_reqT _ _ _ _ _ (by decide +kernel)]; decide +kernel) | decide +kernel | rfl), h, (by first | (rw [formed_reqM _ _ _ _ _ (by decide +kernel)]; decide +kernel) | (rw [formed_reqT _ _ _ _ _ (by decide +kernel)]; decide +kernel) | decide +kernel | rfl), (by first | (rw [formed_reqM _ _ _ _ _ (by decide +kernel)]; decide +kernel) | (rw [formed_reqT _ _ _ _ _ (by decide +kernel)]; decide +kernel) | decide +kernel | rfl), (by first | (rw [formed_reqM _ _ _ _ _ (by decide +kernel)]; decide +kernel) | (rw [formed_reqT _ _ _ _ _ (by decide +kernel)]; decide +kernel) | decide +kernel | rfl), (by first | (rw [formed_reqM _ _ _ _ _ (by decide +kernel)]; decide +kernel) | (rw [formed_reqT _ _ _ _ _ (by decide +kernel)]; decide +kernel) | decide +kernel | rfl), (by first | (rw [formed_reqM _ _ _ _ _ (by decide +kernel)]; decide +kernel) | (rw [formed_reqT _ _ _ _ _ (by decide +kernel)]; decide +kernel) | decide +kernel | rfl)⟩,
   fun h => ⟨(tenant (reqT 0x22 64 (leBytes 4 0x4C585345 ++ List.replicate 20 0 ++ leBytes 4 64) 100) (some {})), (reqT 0x22 64 (leBytes 4 0x4C585345 ++ List.replicate 20 0 ++ leBytes 4 64) 100), ([]), 0, 0, ({}), 0, (0 :: List.replicate 63 0), (by simp only [AsksMgmt, AsksTenant]; (repeat' apply And.intro) <;> first | (rw [formed_reqM _ _ _ _ _ (by decide +kernel)]; rfl) | (rw [formed_reqT _ _ _ _ _ (by decide +kernel)]; rfl) | decide +kernel | exact noEventRings_of _ (by decide +kernel) | rfl), (by first | (rw [formed_reqM _ _ _ _ _ (by decide +kernel)]; decide +kernel) | (rw [formed_reqT _ _ _ _ _ (by decide +kernel)]; decide +kernel) | decide +kernel | rfl), (by first | (rw [formed_reqM _ _ _ _ _ (by decide +kernel)]; decide +kernel) | (rw [formed_reqT _ _ _ _ _ (by decide +kernel)]; decide +kernel) | decide +kernel | rfl), h, (by first | (rw [formed_reqM _ _ _ _ _ (by decide +kernel)]; decide +kernel) | (rw [formed_reqT _ _ _ _ _ (by decide +kernel)]; decide +kernel) | decide +kernel | rfl)⟩,
   ⟨(paged (tenant (reqT 0x30 72 (leBytes 8 0x1000 ++ leBytes 4 1 ++ [1, 0, 0, 0] ++ List.replicate 8 0 ++ leBytes 4 64) 4) none)), (reqT 0x30 72 (leBytes 8 0x1000 ++ leBytes 4 1 ++ [1, 0, 0, 0] ++ List.replicate 8 0 ++ leBytes 4 64) 4), ([]), 0, 0, (List.replicate 64 9), 0x12001000, by simp only [AsksTenant]; (repeat' apply And.intro) <;> first | (rw [formed_reqM _ _ _ _ _ (by decide +kernel)]; rfl) | (rw [formed_reqT _ _ _ _ _ (by decide +kernel)]; rfl) | decide +kernel | exact noEventRings_of _ (by decide +kernel) | rfl⟩,
   ⟨(paged (tenant { win := .func 0 0, req := ask 0x31 0 0x6000 80 (leBytes 8 0x1000 ++ leBytes 4 64 ++ leBytes 4 64 ++ leBytes 8 0x4000) } (some {}))), ({ win := .func 0 0, req := ask 0x31 0 0x6000 80 (leBytes 8 0x1000 ++ leBytes 4 64 ++ leBytes 4 64 ++ leBytes 8 0x4000) }), ([]), 0, 0, ({}), 0x12001000, by simp only [AsksTenant]; (repeat' apply And.intro) <;> first | (rw [formed_reqM _ _ _ _ _ (by decide +kernel)]; rfl) | (rw [formed_reqT _ _ _ _ _ (by decide +kernel)]; rfl) | decide +kernel | exact noEventRings_of _ (by decide +kernel) | rfl⟩⟩

/-- The hypotheses of every clause of `Obligations.RelayedLinkKeys` can be met. -/
theorem witness_RelayedLinkKeys :
      (∃ (s : State) (m : Mbox) (rest : List Mbox),
        (AsksMgmt s m rest 0x40 13646)
        ∧ (m.formed (fun n => decide (66 ≤ n)) = true)
        ∧ (s.nodeId < field m.req 64 2)
        ∧ (field m.req 64 2 < 4096)
        ∧ (s.flash.identityPk.length = 2592))
      ∧ (∀ (p : Bytes), (let s : State := ((asking { req := ask 0x41 0xFF 0 14000 p } run).modFlash (fun x => { x with identityPk := List.replicate 2592 1 })).modLnk (fun l => { l with node := 5 }); let m : Mbox := { req := ask 0x41 0xFF 0 14000 p }; let rest : List Mbox := []; let src := field (m.req.drop 64) 0 2; s.linkStatus (m.req.drop 64) src none = 0) → (p.length = 13582) → (field p 0 2 < 5) → ∃ (s : State) (m : Mbox) (rest : List Mbox),
        (AsksMgmt s m rest 0x41 13710)
        ∧ (m.formed (fun n => decide (66 ≤ n)) = true)
        ∧ (let src := field (m.req.drop 64) 0 2
        (src < s.nodeId)
        ∧ (s.lnk.tx = [])
        ∧ (∀ x ∈ s.lnk.ports, x.txq = [] ∧ x.replay = [])
        ∧ (s.flash.identityPk.length = 2592)
        ∧ (s.linkStatus (m.req.drop 64) src none = 0)))
      ∧ (∃ (s : State) (m : Mbox) (rest : List Mbox),
        (AsksMgmt s m rest 0x41 13710)
        ∧ (m.formed (fun n => decide (66 ≤ n)) = true)
        ∧ (let src := field (m.req.drop 64) 0 2
        (src < s.nodeId)
        ∧ (s.linkStatus (m.req.drop 64) src none ≠ 0)))
      ∧ (∃ (s : State) (m : Mbox) (rest : List Mbox),
        (AsksMgmt s m rest 0x42 64)
        ∧ (m.formed (fun n => decide (66 ≤ n)) = true)
        ∧ (s.lnk.offers = []))
      ∧ (∀ (p : Bytes) (offer : Bytes) (sk : Bytes), (let s : State := (asking { req := ask 0x42 0xFF 0 14000 p } run).modLnk (fun l => { l with offers := [(field p 0 2, offer, sk)] }); let m : Mbox := { req := ask 0x42 0xFF 0 14000 p }; let rest : List Mbox := []; let offer : Bytes := offer; let sk : Bytes := sk; let src := field (m.req.drop 64) 0 2; s.linkStatus (m.req.drop 64) src (some (sliceBytes (Config.sha3_512 offer) 0 64)) = 0) → (p.length = 13646) → ∃ (s : State) (m : Mbox) (rest : List Mbox) (offer : Bytes) (sk : Bytes),
        (AsksMgmt s m rest 0x42 64)
        ∧ (m.formed (fun n => decide (66 ≤ n)) = true)
        ∧ (let src := field (m.req.drop 64) 0 2
        (s.lnk.offers = [(src, offer, sk)])
        ∧ (s.lnk.tx = [])
        ∧ (∀ x ∈ s.lnk.ports, x.txq = [] ∧ x.replay = [])
        ∧ (s.linkStatus (m.req.drop 64) src (some (sliceBytes (Config.sha3_512 offer) 0 64)) = 0)))
      ∧ (∃ (s : State) (m : Mbox) (rest : List Mbox) (offer : Bytes) (sk : Bytes),
        (AsksMgmt s m rest 0x42 64)
        ∧ (m.formed (fun n => decide (66 ≤ n)) = true)
        ∧ (let src := field (m.req.drop 64) 0 2
        let st := s.linkStatus (m.req.drop 64) src (some (sliceBytes (Config.sha3_512 offer) 0 64))
        (s.lnk.offers = [(src, offer, sk)])
        ∧ (st ≠ 0))) :=
  ⟨⟨((asking (reqM 0x40 14000 [7, 0] 0) run).modFlash (fun x => { x with identityPk := List.replicate 2592 1 })), (reqM 0x40 14000 [7, 0] 0), ([]), by simp only [AsksMgmt]; (repeat' apply And.intro) <;> first | (rw [formed_reqM _ _ _ _ _ (by decide +kernel)]; rfl) | (rw [formed_reqT _ _ _ _ _ (by decide +kernel)]; rfl) | decide +kernel | exact noEventRings_of _ (by decide +kernel) | rfl⟩,
   fun p h h1 h2 => ⟨(((asking { req := ask 0x41 0xFF 0 14000 p } run).modFlash (fun x => { x with identityPk := List.replicate 2592 1 })).modLnk (fun l => { l with node := 5 })), ({ req := ask 0x41 0xFF 0 14000 p }), ([]), by exact ⟨ask_asks _ _ _ _ _ rfl rfl rfl (by decide) (by decide) (by decide) (by decide) (by decide), (by rw [formed_ask _ _ _ _ _ _ _ (by omega)]; exact decide_eq_true (by omega)), (by rw [ask_drop]; exact h2), rfl, (fun x hx => (by decide +kernel : ∀ x ∈ run.lnk.ports, x.txq = [] ∧ x.replay = []) x hx), List.length_replicate, h⟩⟩,
   ⟨((asking (reqM 0x41 14000 [] 100) run).modLnk (fun l => { l with node := 5 })), (reqM 0x41 14000 [] 100), ([]), by simp only [AsksMgmt]; (repeat' apply And.intro) <;> first | (rw [formed_reqM _ _ _ _ _ (by decide +kernel)]; rfl) | (rw [formed_reqT _ _ _ _ _ (by decide +kernel)]; rfl) | decide +kernel | exact noEventRings_of _ (by decide +kernel) | rfl⟩,
   ⟨(asking (reqM 0x42 64 [] 13646) run), (reqM 0x42 64 [] 13646), ([]), by simp only [AsksMgmt]; (repeat' apply And.intro) <;> first | (rw [formed_reqM _ _ _ _ _ (by decide +kernel)]; rfl) | (rw [formed_reqT _ _ _ _ _ (by decide +kernel)]; rfl) | decide +kernel | exact noEventRings_of _ (by decide +kernel) | rfl⟩,
   fun p offer sk h h1 => ⟨((asking { req := ask 0x42 0xFF 0 14000 p } run).modLnk (fun l => { l with offers := [(field p 0 2, offer, sk)] })), ({ req := ask 0x42 0xFF 0 14000 p }), ([]), offer, sk, by exact ⟨ask_asks _ _ _ _ _ rfl rfl rfl (by decide) (by decide) (by decide) (by decide) (by decide), (by rw [formed_ask _ _ _ _ _ _ _ (by omega)]; exact decide_eq_true (by omega)), (by rw [ask_drop]; rfl), rfl, (fun x hx => (by decide +kernel : ∀ x ∈ run.lnk.ports, x.txq = [] ∧ x.replay = []) x hx), h⟩⟩,
   ⟨((asking (reqM 0x42 64 [] 100) run).modLnk (fun l => { l with offers := [(0, [1], [2])] })), (reqM 0x42 64 [] 100), ([]), ([1]), ([2]), by simp only [AsksMgmt]; (repeat' apply And.intro) <;> first | (rw [formed_reqM _ _ _ _ _ (by decide +kernel)]; rfl) | (rw [formed_reqT _ _ _ _ _ (by decide +kernel)]; rfl) | decide +kernel | exact noEventRings_of _ (by decide +kernel) | rfl⟩⟩

/-- The hypotheses of every clause of `Obligations.RegisterWrites` can be met. -/
theorem witness_RegisterWrites :
      (∃ (s : State) (k : Fin 4) (f : Fin 8) (_v : BitVec 64),
        (Reaches s k f))
      ∧ (∃ (s : State) (k : Fin 4) (f : Fin 8) (_v : BitVec 64),
        (Reaches s k f))
      ∧ (∃ (s : State) (k : Fin 4) (f : Fin 8) (_v : BitVec 64),
        (Reaches s k f)
        ∧ ((s.fn k f).locked = false)
        ∧ ((s.fn k f).sq.en = false))
      ∧ (∃ (s : State) (k : Fin 4) (f : Fin 8) (_v : BitVec 64),
        (Reaches s k f)
        ∧ ((s.fn k f).locked = true))
      ∧ (∃ (s : State) (_v : BitVec 64),
        (Reaches s 0 0)
        ∧ (s.mgt.locked = false))
      ∧ (∃ (s : State) (_v : BitVec 64),
        (Reaches s 0 0)
        ∧ (s.mgt.locked = true))
      ∧ (∃ (s : State) (_v : BitVec 64),
        (s.pwr.phase = .running))
      ∧ (∃ (s : State) (k : Fin 4) (f : Fin 8) (_v : BitVec 64),
        (Reaches s k f)
        ∧ ((s.fn k f).msixPba = List.replicate 4 false)
        ∧ ((s.fn k f).msixTable.length = 4))
      ∧ (∃ (s : State) (k : Fin 4) (v : BitVec 64),
        (s.linkUp k = true)
        ∧ (k.val < s.links.length)
        ∧ (0 < (s.link k).fns.length)
        ∧ ((s.fn k 0).d3hot = true)
        ∧ ((s.fn k 0).msixPba = List.replicate 4 false)
        ∧ (v.toNat % 4 = 0))
      ∧ (∃ (s : State) (k : Fin 4) (f : Fin 8) (_o : Nat) (_size : Nat) (_v : BitVec 64),
        ((s.fn k f).d3hot = true)) :=
  ⟨⟨run0, 0, 0, 5, by simp only [Reaches]; decide +kernel⟩,
   ⟨run0, 0, 0, 5, by simp only [Reaches]; decide +kernel⟩,
   ⟨(run0.modFn 0 0 (fun x => { x with sq := { x.sq with en := false, base := 0x3000 } })), 0, 0, 0x5000, by simp only [Reaches]; decide +kernel⟩,
   ⟨(run0.modFn 0 0 (fun x => { x with locked := true })), 0, 0, 0x5000, by simp only [Reaches]; decide +kernel⟩,
   ⟨run0, 0x5FF, by simp only [Reaches]; decide +kernel⟩,
   ⟨(run0.modMgt (fun m => { m with locked := true })), 0x5FF, by simp only [Reaches]; decide +kernel⟩,
   ⟨(run0.modMgt (fun m => { m with events := 0x7FF })), 0xF01, by decide +kernel⟩,
   ⟨run0, 0, 0, 0x123456789, by simp only [Reaches]; decide +kernel⟩,
   ⟨(run0.modFn 0 0 (fun x => { x with d3hot := true })), 0, 0, by decide +kernel⟩,
   ⟨(run0.modFn 0 0 (fun x => { x with d3hot := true })), 0, 0, 0x20, 8, 5, by decide +kernel⟩⟩

/-- The hypotheses of every clause of `Obligations.EnablesAndLocks` can be met. -/
theorem witness_EnablesAndLocks :
      (∃ (s : State) (k : Fin 4) (f : Fin 8),
        (Reaches s k f)
        ∧ ((s.fn k f).locked = false)
        ∧ ((s.fn k f).sq.en = false)
        ∧ ((s.fn k f).cq.en = true)
        ∧ ((s.fn k f).eq.en = true)
        ∧ ((s.fnPart k f).isSome = true)
        ∧ ((s.fn k f).sq.base.toNat % 4096 = 0)
        ∧ ((s.fn k f).sq.size.toNat % 2 ^ 17 ∈ [16, 32, 64, 128, 256, 512, 1024, 2048, 4096, 8192, 16384, 32768, 65536]))
      ∧ (∃ (s : State) (k : Fin 4) (f : Fin 8),
        (Reaches s k f)
        ∧ ((s.fn k f).locked = false)
        ∧ ((s.fn k f).sq.en = false)
        ∧ ((s.fn k f).cq.en = true)
        ∧ ((s.fn k f).eq.en = true)
        ∧ ((s.fnPart k f).isSome = false ∨ (s.fn k f).sq.base.toNat % 4096 ≠ 0 ∨ (s.fn k f).sq.size.toNat % 2 ^ 17 ∉ [16, 32, 64, 128, 256, 512, 1024, 2048, 4096, 8192, 16384, 32768, 65536]))
      ∧ (∃ (s : State) (k : Fin 4),
        (Reaches s k 0)
        ∧ ((s.fn k 0).locked = false)
        ∧ ((s.link k).dbEn = false)
        ∧ ((s.link k).dbAddr.toNat % 64 = 0))
      ∧ (∃ (s : State) (k : Fin 4),
        (Reaches s k 0)
        ∧ ((s.fn k 0).locked = false)
        ∧ ((s.link k).dbEn = false)
        ∧ ((s.link k).dbAddr.toNat % 64 ≠ 0))
      ∧ (∃ (s : State) (k : Fin 4) (f : Fin 8) (_v : BitVec 64),
        (Reaches s k f))
      ∧ (∃ (s : State) (k : Fin 4) (f : Fin 8) (p : Nat) (_v : BitVec 64),
        (Reaches s k f)
        ∧ (s.fnPart k f = some p)
        ∧ (p < s.parts.length))
      ∧ (∃ (s : State) (_v : BitVec 64),
        (Reaches s 0 0))
      ∧ (∃ (s : State) (k : Fin 4) (f : Fin 8) (p : Nat) (n : Fin 192),
        (Reaches s k f)
        ∧ (s.fnPart k f = some p)
        ∧ (p < s.parts.length)
        ∧ ((s.core n).phase = .executing))
      ∧ (∃ (s : State) (k : Fin 4) (f : Fin 8) (p : Nat) (n : Fin 192),
        (Reaches s k f)
        ∧ (s.fnPart k f = some p)
        ∧ (p < s.parts.length)
        ∧ ((s.core n).phase = .idle))
      ∧ (∃ (s : State) (_v : BitVec 64),
        (Reaches s 0 0)
        ∧ (s.mgt.locked = false))
      ∧ (∃ (s : State) (k : Fin 4) (f : Fin 8) (p : Nat) (v : BitVec 64),
        (Reaches s k f)
        ∧ (s.fnPart k f = some p)
        ∧ (p < s.parts.length)
        ∧ ((s.part p).trcCfg.getLsbD 16 = false)
        ∧ (v.getLsbD 16 = true)) :=
  ⟨⟨(run0.modFn 0 0 (fun x => { x with sq := { x.sq with en := false, base := 0x3000 } })), 0, 0, by simp only [Reaches]; decide +kernel⟩,
   ⟨(run0.modFn 0 0 (fun x => { x with sq := { x.sq with en := false, base := 0x3001 } })), 0, 0, by simp only [Reaches]; decide +kernel⟩,
   ⟨run0, 0, by simp only [Reaches]; decide +kernel⟩,
   ⟨(run0.modLink 0 (fun l => { l with dbAddr := 1 })), 0, by simp only [Reaches]; decide +kernel⟩,
   ⟨run0, 0, 0, 3, by simp only [Reaches]; decide +kernel⟩,
   ⟨run0, 0, 0, 0, 1, by simp only [Reaches]; decide +kernel⟩,
   ⟨run0, 1, by simp only [Reaches]; decide +kernel⟩,
   ⟨(atExe (exe 0 0 0)), 0, 0, 0, 1, by simp only [Reaches]; decide +kernel⟩,
   ⟨run0, 0, 0, 0, 1, by simp only [Reaches]; decide +kernel⟩,
   ⟨run0, 0xFFF, by simp only [Reaches]; decide +kernel⟩,
   ⟨run0, 0, 0, 0, 0x7000FFFFF, by simp only [Reaches]; decide +kernel⟩⟩

/-- The hypotheses of every clause of `Obligations.TraceAndPitLog` can be met. -/
theorem witness_TraceAndPitLog :
      (∃ (s : State) (p : Fin 8) (r : Bytes) (d : Nat),
        (s.running = true)
        ∧ ((s.part p).traceOn = true)
        ∧ ((s.part p).trcBuf = [r])
        ∧ (p.val < s.parts.length)
        ∧ (r ≠ [])
        ∧ ((s.part p).trcHead + r.length < (s.part p).trcBytes)
        ∧ (s.xlateRangeAgent p ((s.part p).trcActiveBase.toNat + (s.part p).trcHead) r.length true = .inl [(d, r.length)])
        ∧ (Mem1.wf ramD s.mem.dram = true))
      ∧ (∃ (s : State) (p : Fin 8) (r : Bytes) (rest : List Bytes) (e : Nat × Nat),
        (s.running = true)
        ∧ ((s.part p).traceOn = true)
        ∧ ((s.part p).trcBuf = r :: rest)
        ∧ (p.val < s.parts.length)
        ∧ (r ≠ [])
        ∧ ((s.part p).trcHead + r.length ≤ (s.part p).trcBytes)
        ∧ (s.xlateRangeAgent p ((s.part p).trcActiveBase.toNat + (s.part p).trcHead) r.length true = .inr e))
      ∧ (∃ (s : State) (r : Bytes) (rest : List Bytes),
        (s.pwr.phase ≠ .noInput)
        ∧ (s.plog.frozen = false)
        ∧ (s.plog.erasing = none)
        ∧ (s.plog.buffer = r :: rest)
        ∧ (r.length = 1024)
        ∧ (Mem1.wf flashD s.flash.bytes = true))
      ∧ (∃ (s : State) (k : Nat),
        (s.pwr.phase ≠ .noInput)
        ∧ (s.plog.frozen = false)
        ∧ (s.plog.erasing = some k)
        ∧ (Mem1.wf flashD s.flash.bytes = true))
      ∧ (∃ (s : State),
        (s.pwr.phase ≠ .noInput))
      ∧ (∃ (s : State),
        (s.pwr.phase ≠ .noInput)
        ∧ (s.plog.buffer = []))
      ∧ (∃ (s : State),
        (s.plog.frozen = true))
      ∧ (∃ (s : State),
        (s.plog.frozen = true)) :=
  ⟨⟨tracing, 0, ([1, 2, 3]), 0x12001000, by decide +kernel⟩,
   ⟨(tracing.modMem (fun m => { m with dram := [] })), 0, ([1, 2, 3]), ([]), ((((tracing.modMem (fun m => { m with dram := [] })).xlateRangeAgent 0 0x1000 3 true).getRight?.getD (0, 0))), by decide +kernel⟩,
   ⟨({ rst with plog := { rst.plog with buffer := [List.replicate 1024 1] } }), (List.replicate 1024 1), ([]), by decide +kernel⟩,
   ⟨({ rst with plog := { rst.plog with erasing := some 3 }, flash := { rst.flash with bytes := [(0x130000, 5), (0x140000, 6)] } }), 3, by decide +kernel⟩,
   ⟨rst, by decide +kernel⟩,
   ⟨({ rst with plog := { rst.plog with frozen := true } }), by decide +kernel⟩,
   ⟨({ rst with plog := { rst.plog with frozen := true, erasing := some 1, buffer := [List.replicate 1024 1] } }), by decide +kernel⟩,
   ⟨({ rst with plog := { rst.plog with frozen := true, erasing := some 1, buffer := [List.replicate 1024 1] } }), by decide +kernel⟩⟩

/-- The hypotheses of every clause of `Obligations.ManagementCommands` can be met. -/
theorem witness_ManagementCommands :
      (∃ (s : State) (b : Bytes),
        (s.pwr.phase ≠ .noInput)
        ∧ (b.length = 3))
      ∧ (∃ (s : State) (b : Bytes),
        (s.pwr.phase = .running)
        ∧ (b.length = 8)
        ∧ (s.mgt.pointer = 0x11008)
        ∧ (s.mgt.locked = false))
      ∧ (∃ (s : State),
        (s.pwr.phase ≠ .noInput)
        ∧ (s.mgt.pointer = 0x15050))
      ∧ (∃ (s : State) (b : Bytes) (data : Bytes),
        (s.running = true)
        ∧ (s.sec.mgmtBusy = false)
        ∧ (b.length = 2)
        ∧ (data.length ≤ 240)
        ∧ (leNat b + data.length ≤ 16384)
        ∧ (Mem1.wf ramD s.sec.mgmtBuf = true))
      ∧ (∃ (s : State),
        (s.running = true)
        ∧ (s.sec.mgmtBusy = false))
      ∧ (∃ (s : State) (b : Bytes) (n : BitVec 8),
        (s.running = true)
        ∧ (s.sec.mgmtBusy = false)
        ∧ (b.length = 2)
        ∧ (n.toNat ≤ 240)
        ∧ (leNat b + n.toNat ≤ 16384))
      ∧ (∃ (s : State) (b : Bytes) (data : Bytes),
        (s.running = true)
        ∧ (s.flash.commitBusy = none)
        ∧ (b.length = 2)
        ∧ (16 ≤ data.length)
        ∧ (data.length ≤ 240)
        ∧ (data.length % 16 = 0)
        ∧ (16 * leNat b + data.length ≤ 65536)
        ∧ (Mem1.wf flashD s.flash.sectorBuf = true))
      ∧ (∃ (s : State) (b : Bytes),
        (s.pwr.phase = .running)
        ∧ (b.length = 4)
        ∧ (leNat b % 65536 = 0)
        ∧ (leNat b < 0x20000)
        ∧ (s.flash.commitBusy = none)
        ∧ (s.plog.erasing = none))
      ∧ (∃ (s : State) (b : Bytes),
        (s.pwr.phase = .running)
        ∧ (b.length = 4)
        ∧ (leNat b % 65536 = 0)
        ∧ (inRange (leNat b) 0x20000 0x3FFFFF = true)
        ∧ (s.flash.commitBusy = none)
        ∧ (s.plog.erasing = none))
      ∧ (∃ (s : State) (a : Nat),
        (s.pwr.phase ≠ .noInput)
        ∧ (s.flash.commitBusy = some a)
        ∧ (s.flash.commitAbandoned = false)
        ∧ (Mem1.wf flashD s.flash.bytes = true))
      ∧ (∃ (s : State) (a : Nat),
        (s.pwr.phase ≠ .noInput)
        ∧ (s.flash.commitBusy = some a)
        ∧ (s.flash.commitAbandoned = true)
        ∧ (Mem1.wf flashD s.flash.bytes = true))
      ∧ (∃ (s : State) (b : Bytes),
        (s.pwr.phase ≠ .noInput)
        ∧ (b.length = 4)
        ∧ (leNat b + 240 ≤ 0x4000000)
        ∧ (s.flash.commitBusy = none)
        ∧ (s.plog.erasing = none))
      ∧ (∃ (s : State) (r : BitVec 8) (c : BitVec 8) (e : FenceEntry),
        (s.running = true)
        ∧ (1 ≤ r.toNat)
        ∧ (r.toNat ≤ 14)
        ∧ (c.toNat < 16)
        ∧ (s.flash.commitBusy = none)
        ∧ (s.plog.erasing = none)
        ∧ (s.flash.fenceEntries = [e])
        ∧ (e.row = r.toNat)
        ∧ (e.column = c.toNat))
      ∧ (∃ (s : State) (code : BitVec 8) (pec : Option Bool),
        (s.pwr.phase ≠ .noInput)
        ∧ (reservedCode code.toNat = true)
        ∧ (pec ≠ some false))
      ∧ (∃ (s : State) (code : BitVec 8) (pec : Option Bool),
        (s.pwr.phase ≠ .noInput)
        ∧ (reservedCode code.toNat = true)
        ∧ (pec ≠ some false))
      ∧ (∃ (s : State) (b : Bytes) (c : Instr),
        (s.pwr.phase ≠ .noInput)
        ∧ (c = .setPointer b (some false) ∨ c = .mgmtWrite b (some false) ∨ c = .mboxPut b (some false) ∨ c = .mboxGo b (some false) ∨ c = .flashPut b (some false) ∨ c = .flashCommit b (some false) ∨ c = .fenceClear b (some false)))
      ∧ (∃ (s : State) (b : Bytes) (c : Instr) (code : Nat),
        (s.pwr.phase ≠ .noInput)
        ∧ ((c = .mgmtRead b (some false) ∧ code = 0x03) ∨ (c = .mboxGet b (some false) ∧ code = 0x12) ∨ (c = .flashRead b (some false) ∧ code = 0x22))) :=
  ⟨⟨rst, ([1, 2, 3]), by decide +kernel⟩,
   ⟨({ run with mgt := { run.mgt with pointer := 0x11008 } }), ([9, 2, 3, 4, 5, 6, 7, 8]), by decide +kernel⟩,
   ⟨({ rst with mgt := { rst.mgt with pointer := 0x15050 } }), by decide +kernel⟩,
   ⟨run, ([0xFC, 0x3F]), ([1, 2, 3, 4]), by decide +kernel⟩,
   ⟨run, by decide +kernel⟩,
   ⟨run, ([0xFC, 0x3F]), 4, by (try dsimp only); decide +kernel⟩,
   ⟨run, ([0xFF, 0x0F]), (List.replicate 16 3), by decide +kernel⟩,
   ⟨run, ([0, 0, 1, 0]), by decide +kernel⟩,
   ⟨run, ([0, 0, 0x3F, 0]), by decide +kernel⟩,
   ⟨({ rst with flash := { rst.flash with commitBusy := some 0x20000, commitAbandoned := false, sectorBuf := [(1, 5)], bytes := [(0x20000, 7), (0x40000, 9)] } }), 0x20000, by decide +kernel⟩,
   ⟨({ rst with flash := { rst.flash with commitBusy := some 0x20000, commitAbandoned := true, sectorBuf := [(1, 5)], bytes := [(0x20000, 7), (0x40000, 9)] } }), 0x20000, by decide +kernel⟩,
   ⟨rst, ([0x10, 0xFF, 0xFF, 3]), by (try dsimp only); decide +kernel⟩,
   ⟨(run.modFlash (fun x => { x with fenceEntries := [{ router := false, reason := 2, row := 14, column := 0, core := 5, hours := 0, cycles := 0 }] })), 14, 0, ({ router := false, reason := 2, row := 14, column := 0, core := 5, hours := 0, cycles := 0 }), by decide +kernel⟩,
   ⟨rst, 0, none, by decide +kernel⟩,
   ⟨rst, 0, none, by decide +kernel⟩,
   ⟨rst, ([]), (.flashPut [] (some false)), by decide +kernel⟩,
   ⟨rst, ([]), (.flashRead [] (some false)), 0x22, by decide +kernel⟩⟩

/-- The hypotheses of every clause of `Obligations.IdleStepTicks` can be met. -/
theorem witness_IdleStepTicks :
      (∃ (s : State),
        (s.pending = [])
        ∧ (s.housekeeping = true)
        ∧ (∀ q, s.pwr.seq = some q → s.time.mgmtTicks + 1 < q.start + 15000000))
      ∧ (∃ (s : State) (q : PowerSeq),
        (s.pending = [])
        ∧ (s.housekeeping = true)
        ∧ (s.pwr.seq = some q)
        ∧ (s.pwr.deferred = [])
        ∧ (q.start + 15000000 ≤ s.time.mgmtTicks + 1))
      ∧ (∃ (s : State),
        (s.pending = [])
        ∧ (s.pwr.phase = .noInput)) :=
  ⟨⟨run, by exact ⟨rfl, by decide +kernel, fun q h => by cases h⟩⟩,
   ⟨({ run with pwr := { run.pwr with seq := some { rank := 0, start := 0, hours := true } }, time := { run.time with mgmtTicks := 14999999 } }), ({ rank := 0, start := 0, hours := true }), by decide +kernel⟩,
   ⟨(ph .noInput), by decide +kernel⟩⟩

/-- The hypotheses of every clause of `Obligations.EventEntries` can be met. -/
theorem witness_EventEntries :
      (∃ (s : State) (k : Fin 4) (_e : Ev),
        (k.val < s.links.length)
        ∧ (0 < (s.link k).fns.length)
        ∧ ((s.fn k 0).eq.en = true)
        ∧ ((s.fn k 0).eq.full = false)
        ∧ (Mem1.wf ramD (s.link k).hostMem = true)
        ∧ (((s.fn k 0).holdEnd.getD 1 none).isSome = true ∨ (s.fn k 0).msixOpen 1 = false))
      ∧ (∃ (s : State) (k : Fin 4) (e : Ev),
        (k.val < s.links.length)
        ∧ (0 < (s.link k).fns.length)
        ∧ ((s.fn k 0).eq.en = true)
        ∧ ((s.fn k 0).eq.full = false)
        ∧ (Mem1.wf ramD (s.link k).hostMem = true)
        ∧ ((s.fn k 0).holdEnd.getD 1 none = none)
        ∧ ((s.fn k 0).msixOpen 1 = true)
        ∧ (let a := hostKey 0 ((s.fn k 0).eq.base.toNat + 32 * (s.fn k 0).eq.tail)
        let v := (s.fn k 0).msixTable.getD 1 {}
        let b := hostKey 0 v.addr.toNat
        let t := s.eventTo k 0 e none
        (b + 4 ≤ a ∨ a + 32 ≤ b)))
      ∧ (∃ (s : State) (k : Fin 4) (_e : Ev),
        (k.val < s.links.length)
        ∧ (0 < (s.link k).fns.length)
        ∧ ((s.fn k 0).eq.en = true)
        ∧ ((s.fn k 0).eq.full = true))
      ∧ (∃ (s : State) (_code : Nat) (_list : Nat) (_payload : Nat) (_fl : Bool),
        (s.plog.buffer.length < 64)) :=
  ⟨⟨run0, 0, ({ code := 0x0F01, sev := 0, source := srcSec, payload := 3 }), by (try dsimp only); decide +kernel⟩,
   ⟨(run0.modFn 0 0 (fun x => { x with cfg := { x.cfg with msixEnable := true }, msixTable := x.msixTable.set 1 { addr := 0x9000, data := 5, mask := false } })), 0, ({ code := 0x0F01, sev := 0, source := srcSec, payload := 3 }), by (try dsimp only); decide +kernel⟩,
   ⟨(run0.modFn 0 0 (fun x => { x with eq := { x.eq with tail := 15 } })), 0, ({ code := 0x0F01, sev := 0, source := srcSec, payload := 3 }), by (try dsimp only); decide +kernel⟩,
   ⟨run0, 7, 0, 9, false, by (try dsimp only); decide +kernel⟩⟩

/-- The hypotheses of every clause of `Obligations.ShapeKept` can be met. -/
theorem witness_ShapeKept :
      ∃ (s : State) (t : State),
      (s.Shape)
      ∧ (step s = .next t) :=
  ⟨run, run.tick, by exact ⟨by unfold State.Shape; decide +kernel, rfl⟩⟩

/-- The hypotheses of every clause of `Obligations.CanonicalKept` can be met. -/
theorem witness_CanonicalKept :
      ∃ (s : State) (t : State),
      (s.Canonical)
      ∧ (step s = .next t) :=
  ⟨run, run.tick, by exact ⟨by unfold State.Canonical; decide +kernel, rfl⟩⟩

end Sys2Proof.Tests
end

/-! Comparison, predicate logic, guards and branches of the control processor (R187, R192, R193, R196, R197). -/

namespace Sys2Proof.Machine

/-! ### A change of one core -/

/-- Two changes that give core `n` the same value change the state alike. -/
theorem State.modCore_congr {s : State} {n : Nat} {f g : Core → Core} (h : f (s.core n) = g (s.core n)) :
    s.modCore n f = s.modCore n g := by
  have hcores : s.cores.modify n f = s.cores.modify n g := by
    refine List.ext_getElem? fun m => ?_
    rw [List.getElem?_modify, List.getElem?_modify]
    by_cases hnm : n = m
    · subst hnm
      cases hc : s.cores[n]? with
      | none => rfl
      | some c => simpa [State.core, List.getD_eq_getElem?_getD, hc] using h
    · simp [hnm]
  simp only [State.modCore, hcores]

/-- Two changes of the same core, one after the other, are one change. -/
theorem State.modCore_modCore (s : State) (n : Nat) (f g : Core → Core) :
    (s.modCore n f).modCore n g = s.modCore n (g ∘ f) := by
  simp only [State.modCore, List.modify_modify_eq]

/-- A change of core `n` changes core `n`, and nothing else. -/
theorem onCore_modCore {s : State} {n : Nat} (hlen : n < s.cores.length) (f : Core → Core) :
    OnCore s n (f (s.core n)) (s.modCore n f) :=
  ⟨s.core_modCore_self hlen f, fun _ hm => s.core_modCore_ne (Ne.symm hm) f, rfl⟩

/-! ### What a fetch and a retirement leave of the core -/

@[simp] theorem Core.fetched_reg (c : Core) (r : Nat) : c.fetched.reg r = c.reg r := rfl
@[simp] theorem Core.fetched_pred (c : Core) (r : Nat) : c.fetched.pred r = c.pred r := rfl
@[simp] theorem Core.fetched_pc (c : Core) : c.fetched.pc = c.pc := rfl
@[simp] theorem Core.fetched_guardTrue (c : Core) (g : BitVec 4) : c.fetched.guardTrue g = c.guardTrue g := rfl
@[simp] theorem Core.retired_pred (c : Core) (r : Nat) : c.retired.pred r = c.pred r := rfl

/-! ### The frame of a control instruction whose line is held -/

/-- A fetch from a line that the instruction cache holds without an error (R184, R206). -/
theorem State.fetchAt_of_cached {s : State} {n : Nat}
    (hline : (s.core n).icache.contains ((s.core n).pc.toNat % 2 ^ 48 / 256) = true)
    (hup : ∀ x ∈ (s.core n).icacheUpsets, x.1 ≠ (s.core n).pc.toNat % 2 ^ 48 / 256) :
    s.fetchAt n = (s.modCore n Core.fetched, none) := by
  have hnone : (s.core n).icacheUpsets.contains ((s.core n).pc.toNat % 2 ^ 48 / 256, true) = false := by
    simpa using fun hmem => hup _ hmem rfl
  have hfilter : (s.core n).icacheUpsets.filter (fun x => x == ((s.core n).pc.toNat % 2 ^ 48 / 256, false)) = [] := by
    refine List.filter_eq_nil_iff.mpr fun x hx he => hup x hx ?_
    rw [eq_of_beq he]
  simp only [State.fetchAt, hline, hnone, if_true, Bool.false_eq_true, if_false]
  refine congrArg (·, none) (State.modCore_congr ?_)
  simp only [hfilter, List.foldl_nil, Core.fetched]

/-- The frame of a control instruction that a ready core fetches from a held line: the guard decides between the body and a
step to the next instruction (R184 to R187). -/
theorem State.lci_of_cached {s : State} {n : Nat} {g : BitVec 4} (resume : Stall → Bool) (body : State → Lci)
    (hrun : s.running = true) (hn : n < 192) (hlen : n < s.cores.length) (hready : (s.core n).ready)
    (hpc : (s.core n).pc.toNat % 4 = 0)
    (hline : (s.core n).icache.contains ((s.core n).pc.toNat % 2 ^ 48 / 256) = true)
    (hup : ∀ x ∈ (s.core n).icacheUpsets, x.1 ≠ (s.core n).pc.toNat % 2 ^ 48 / 256) (hg : g ≠ 0b1000#4) :
    s.lci n g resume body =
      if (s.core n).guardTrue g = true then (s.modCore n Core.fetched).lciEnd n (body (s.modCore n Core.fetched))
      else (s.modCore n Core.fetched).modCore n (fun c => { c.count 4 1 with pc := c.pc + 4 }) := by
  obtain ⟨hphase, hstall, hfetch⟩ := hready
  have hr : s.lciReady n = true := by simp [State.lciReady, hrun, hn, hphase, hfetch]
  have hm : s.mayFetch n = true := by simp only [State.mayFetch, hline, Bool.true_or]
  simp only [State.lci, hr, hstall, hpc, hm, State.fetchAt_of_cached hline hup, hg, s.core_modCore_self hlen,
    Core.fetched_guardTrue]
  cases (s.core n).guardTrue g <;> rfl

/-- An instruction that a core takes runs its body on the fetched core. -/
theorem FetchesAt.lci_eq {s : State} {n : Nat} {g : BitVec 4} (h : FetchesAt s n g) (resume : Stall → Bool)
    (body : State → Lci) :
    s.lci n g resume body = (s.modCore n Core.fetched).lciEnd n (body (s.modCore n Core.fetched)) := by
  obtain ⟨hrun, hn, hlen, hready, hpc, hline, hup, hg, htrue⟩ := h
  rw [State.lci_of_cached resume body hrun hn hlen hready hpc hline hup hg, if_pos htrue]

theorem FetchesAt.lt_length {s : State} {n : Nat} {g : BitVec 4} (h : FetchesAt s n g) : n < s.cores.length := by
  obtain ⟨_, _, hlen, _⟩ := h
  exact hlen

/-- The core as the body of a taken instruction finds it. -/
theorem FetchesAt.core_fetched {s : State} {n : Nat} {g : BitVec 4} (h : FetchesAt s n g) :
    (s.modCore n Core.fetched).core n = (s.core n).fetched := s.core_modCore_self h.lt_length _

/-- A taken instruction that only computes on its core, and is legal, retires with what it computed (R184, R211). -/
theorem FetchesAt.lci_ofCore_some {s : State} {n : Nat} {g : BitVec 4} (h : FetchesAt s n g) {r : Core → Option Core} {c : Core}
    (hr : r (s.core n).fetched = some c) :
    OnCore s n c.retired (s.lci n g noWait (fun s => Lci.ofCore s n (r (s.core n)))) := by
  rw [h.lci_eq, h.core_fetched, hr]
  simp only [Lci.ofCore, State.lciEnd, State.modCore_modCore]
  exact onCore_modCore h.lt_length (Core.retired ∘ (fun _ => c) ∘ Core.fetched)

/-- A taken instruction that is illegal ends the run with exception 0x10 at its own address (R207). -/
theorem FetchesAt.lci_ofCore_none {s : State} {n : Nat} {g : BitVec 4} (h : FetchesAt s n g) {r : Core → Option Core}
    (hr : r (s.core n).fetched = none) :
    s.lci n g noWait (fun s => Lci.ofCore s n (r (s.core n)))
      = (s.modCore n Core.fetched).endRun n (.exception 0x10 (s.core n).pc.toNat 0) := by
  rw [h.lci_eq, h.core_fetched, hr]
  simp only [Lci.ofCore, State.lciEnd, State.raise, h.core_fetched, Core.fetched_pc]

/-- A jump retires the core, as it was changed before, with the target as its program counter (R184, R197). -/
theorem onCore_lciEnd_jump {s : State} {n : Nat} (hlen : n < s.cores.length) (t : State) (f : Core → Core) (pc : BitVec 64) :
    OnCore s n { (f (s.core n)).retired with pc := pc } (t.lciEnd n (.jump (s.modCore n f) pc)) := by
  simp only [State.lciEnd, State.modCore_modCore]
  exact onCore_modCore hlen ((fun c => { c.count 3 1 with pc := pc, stall := none }) ∘ f)

/-! ### The tables of R192 and R193 -/

theorem condFn_table (a b : BitVec 64) :
    condFn 0 a b = some (decide (a = b)) ∧ condFn 1 a b = some (decide (a ≠ b))
      ∧ condFn 2 a b = some (decide (a.toInt < b.toInt)) ∧ condFn 3 a b = some (decide (b.toInt ≤ a.toInt))
      ∧ condFn 4 a b = some (decide (a.toNat < b.toNat)) ∧ condFn 5 a b = some (decide (b.toNat ≤ a.toNat))
      ∧ condFn 6 a b = some (decide (a &&& b ≠ 0)) ∧ condFn 7 a b = some (decide (a &&& b = 0)) := by
  have hle : (!a.slt b) = decide (b.toInt ≤ a.toInt) := by rw [BitVec.slt_eq_decide, ← decide_not, decide_eq_decide, not_lt]
  have hule : (!a.ult b) = decide (b.toNat ≤ a.toNat) := by rw [BitVec.ult_eq_decide, ← decide_not, decide_eq_decide, not_lt]
  have hne (x y : BitVec 64) : (x != y) = decide (x ≠ y) := by rw [bne, beq_eq_decide, ← decide_not]
  exact ⟨congrArg some (beq_eq_decide ..), congrArg some (hne ..), congrArg some (BitVec.slt_eq_decide ..), congrArg some hle,
    congrArg some (BitVec.ult_eq_decide ..), congrArg some hule, congrArg some (hne ..), congrArg some (beq_eq_decide ..)⟩

/-- Condition codes from 8 on are reserved. -/
theorem condFn_reserved {k : Nat} (hk : 8 ≤ k) (a b : BitVec 64) : condFn k a b = none := by
  obtain ⟨j, rfl⟩ := Nat.exists_eq_add_of_le' hk
  rfl

/-- COMB 3 is reserved. -/
@[simp] theorem combFn_reserved (old r : Bool) : combFn 3#2 old r = none := rfl

/-- PFN 7 is reserved. -/
@[simp] theorem plogFn_reserved (a b : BitVec 3) (x y : Bool) : plogFn 7#3 a b x y = none := rfl

/-- NOT takes one predicate: its second field is 0. -/
theorem plogFn_not {b : BitVec 3} (a : BitVec 3) (x y : Bool) (hb : b ≠ 0) : plogFn 4 a b x y = none := if_neg hb

/-- The constants take no predicate: both fields are 0. -/
theorem plogFn_const {a b : BitVec 3} (x y : Bool) (h : a ≠ 0 ∨ b ≠ 0) : plogFn 5 a b x y = none ∧ plogFn 6 a b x y = none :=
  have hn : ¬(a = 0 ∧ b = 0) := fun hab => h.elim (· hab.1) (· hab.2)
  ⟨if_neg hn, if_neg hn⟩

/-! ### Comparison -/

/-- What a comparison makes of its core: the condition's outcome, combined into pd; none where the word is illegal (R192). -/
def Core.compared (c : Core) (f : FmtC) (low : Bool) (cond : Nat) (b : BitVec 64) : Option Core :=
  if low then
    (condFn cond (c.reg f.ra.toNat) b).bind (fun r => (combFn f.comb (c.pred f.pd.toNat) r).map (c.setPred f.pd.toNat))
  else none

theorem execCmp_eq (n : Nat) (f : FmtC) (s : State) :
    exec (.cmp n f) s = .next (s.lci n f.guard noWait (fun s => Lci.ofCore s n ((s.core n).compared f
      (bitsOf f.low.toNat 2 0 == 0) (bitsOf f.low.toNat 6 3) ((s.core n).reg (bitsOf f.low.toNat 11 7))))) := rfl

theorem execCmpi_eq (n : Nat) (f : FmtC) (s : State) :
    exec (.cmpi n f) s = .next (s.lci n f.guard noWait (fun s => Lci.ofCore s n ((s.core n).compared f
      true (bitsOf f.low.toNat 11 8) ((BitVec.ofNat 8 (bitsOf f.low.toNat 7 0)).signExtend 64)))) := rfl

/-- A comparison with a nonzero zero field, a reserved condition or the reserved COMB is illegal. -/
theorem Core.compared_eq_none {c : Core} {f : FmtC} {low : Bool} {cond : Nat} {b : BitVec 64}
    (h : 8 ≤ cond ∨ low = false ∨ f.comb = 3) : c.compared f low cond b = none := by
  unfold Core.compared
  rcases h with hcond | hlow | hcomb
  · simp [condFn_reserved hcond]
  · simp [hlow]
  · simp [hcomb]

/-- A legal comparison writes pd. -/
theorem Core.compared_eq_some {c : Core} {f : FmtC} {cond : Nat} {b : BitVec 64} {r v : Bool}
    (hr : condFn cond (c.reg f.ra.toNat) b = some r) (hv : combFn f.comb (c.pred f.pd.toNat) r = some v) :
    c.compared f true cond b = some (c.setPred f.pd.toNat v) := by
  simp [Core.compared, hr, hv]

/-! ### Predicate logic -/

/-- What PLOG makes of its core; none where the word is illegal (R193). -/
def Core.plog (c : Core) (f : FmtP) : Option Core :=
  if f.zero = 0 then (plogFn f.pfn f.pa f.pb (c.pred f.pa.toNat) (c.pred f.pb.toNat)).map (c.setPred f.pd.toNat) else none

theorem execPlog_eq (n : Nat) (f : FmtP) (s : State) :
    exec (.plog n f) s = .next (s.lci n f.guard noWait (fun s => Lci.ofCore s n ((s.core n).plog f))) := rfl

/-! ### The fields of the low 12 bits of formats C and X (R186, R192, R196) -/

theorem bitsOf_low_2_0 (x : BitVec 12) : bitsOf x.toNat 2 0 = x.toNat % 8 := rfl
theorem bitsOf_low_6_3 (x : BitVec 12) : bitsOf x.toNat 6 3 = x.toNat / 8 % 16 := by
  simp [bitsOf, Nat.shiftRight_eq_div_pow]
theorem bitsOf_low_6_0 (x : BitVec 12) : bitsOf x.toNat 6 0 = x.toNat % 128 := rfl
theorem bitsOf_low_11_7 (x : BitVec 12) : bitsOf x.toNat 11 7 = x.toNat / 128 := by
  have := x.isLt
  simp only [bitsOf, Nat.shiftRight_eq_div_pow]
  omega
theorem bitsOf_low_11_8 (x : BitVec 12) : bitsOf x.toNat 11 8 = x.toNat / 256 := by
  have := x.isLt
  simp only [bitsOf, Nat.shiftRight_eq_div_pow]
  omega
/-- The immediate of CMPI is the low byte. -/
theorem ofNat_bitsOf_low_7_0 (x : BitVec 12) : BitVec.ofNat 8 (bitsOf x.toNat 7 0) = BitVec.ofNat 8 x.toNat :=
  BitVec.eq_of_toNat_eq (by simp [bitsOf])

/-! ### PMOV -/

/-- The number whose bits below `k` are `b`'s. -/
def bitSum (b : Nat → Bool) (k : Nat) : Nat := (List.range k).foldl (fun a i => a + b2n (b i) * 2 ^ i) 0

theorem bitSum_succ (b : Nat → Bool) (k : Nat) : bitSum b (k + 1) = bitSum b k + b2n (b k) * 2 ^ k := by
  simp only [bitSum, List.range_succ, List.foldl_append, List.foldl_cons, List.foldl_nil]

theorem b2n_le_one (b : Bool) : b2n b ≤ 1 := by cases b <;> decide

theorem bitSum_lt (b : Nat → Bool) (k : Nat) : bitSum b k < 2 ^ k := by
  induction k with
  | zero => exact Nat.one_pos
  | succ k ih =>
    have hbit : b2n (b k) ≤ 1 := b2n_le_one _
    calc bitSum b (k + 1) = bitSum b k + b2n (b k) * 2 ^ k := bitSum_succ b k
      _ < 2 ^ k + 1 * 2 ^ k := Nat.add_lt_add_of_lt_of_le ih (Nat.mul_le_mul_right _ hbit)
      _ = 2 ^ (k + 1) := by ring

theorem testBit_bitSum (b : Nat → Bool) (k i : Nat) : (bitSum b k).testBit i = (decide (i < k) && b i) := by
  induction k with
  | zero => simp [bitSum]
  | succ k ih =>
    rw [bitSum_succ, Nat.add_comm, Nat.mul_comm, Nat.testBit_two_pow_mul_add _ (bitSum_lt b k)]
    rcases Nat.lt_trichotomy i k with hlt | rfl | hgt
    · simp [hlt, ih, Nat.lt_succ_of_lt hlt]
    · cases hb : b i <;> simp [b2n]
    · have hbit : (b2n (b k)).testBit (i - k) = false :=
        Nat.testBit_lt_two_pow (Nat.lt_of_le_of_lt (b2n_le_one _) (Nat.one_lt_two_pow (by omega)))
      simp [Nat.not_lt.mpr hgt.le, hbit, show ¬ i < k + 1 by omega]

theorem Core.predBits_eq (c : Core) : c.predBits = BitVec.ofNat 64 (bitSum c.pred 8) := rfl

/-- PMOV from the predicates gives each of them its bit, and zeros above (R196). -/
theorem Core.getLsbD_predBits (c : Core) (i : Nat) : c.predBits.getLsbD i = (decide (i < 8) && c.pred i) := by
  rw [Core.predBits_eq, BitVec.getLsbD_ofNat, testBit_bitSum]
  by_cases hi : i < 8
  · simp [hi, show i < 64 by omega]
  · simp [hi]

/-- The core whose first `k` predicates were taken from the bits of `v` (R196). -/
def Core.loadPreds (c : Core) (v k : Nat) : Core := (List.range k).foldl (fun c i => c.setPred i (bitOf v i)) c

theorem Core.loadPreds_succ (c : Core) (v k : Nat) : c.loadPreds v (k + 1) = (c.loadPreds v k).setPred k (bitOf v k) := by
  simp only [Core.loadPreds, List.range_succ, List.foldl_append, List.foldl_cons, List.foldl_nil]

@[simp] theorem Core.setPred_p_length (c : Core) (r : Nat) (v : Bool) : (c.setPred r v).p.length = c.p.length := by
  unfold Core.setPred; split <;> simp

/-- A write to a predicate is what it reads afterwards, except that p0 reads 1 (R182). -/
theorem Core.pred_setPred {c : Core} {r : Nat} (hr : r < c.p.length) (v : Bool) (i : Nat) :
    (c.setPred r v).pred i = if i = r then i == 0 || v else c.pred i := by
  by_cases hi : i = r
  · subst hi
    cases i <;> simp [Core.pred, Core.setPred, hr]
  · by_cases h0 : r = 0
    · simp [Core.setPred, h0, show i ≠ 0 from fun h => hi (h.trans h0.symm)]
    · simp [Core.pred, Core.setPred, h0, hi, List.getElem?_set_ne (Ne.symm hi)]

@[simp] theorem Core.loadPreds_p_length (c : Core) (v k : Nat) : (c.loadPreds v k).p.length = c.p.length := by
  induction k with
  | zero => rfl
  | succ k ih => rw [Core.loadPreds_succ, Core.setPred_p_length, ih]

theorem Core.loadPreds_pred {c : Core} {k : Nat} (hk : k ≤ c.p.length) (v i : Nat) :
    (c.loadPreds v k).pred i = if i < k then i == 0 || bitOf v i else c.pred i := by
  induction k with
  | zero => rfl
  | succ k ih =>
    rw [Core.loadPreds_succ, Core.pred_setPred (by rw [Core.loadPreds_p_length]; omega), ih (by omega)]
    rcases Nat.lt_trichotomy i k with hlt | rfl | hgt
    · simp [hlt, hlt.ne, Nat.lt_succ_of_lt hlt]
    · simp
    · simp [hgt.ne', Nat.not_lt.mpr hgt.le, show ¬ i < k + 1 by omega]

theorem Core.setPred_frame (c : Core) (r : Nat) (v : Bool) : c.setPred r v = { c with p := (c.setPred r v).p } := by
  unfold Core.setPred; split <;> rfl

/-- Loading predicates changes the predicates alone. -/
theorem Core.loadPreds_frame (c : Core) (v k : Nat) : c.loadPreds v k = { c with p := (c.loadPreds v k).p } := by
  induction k with
  | zero => rfl
  | succ k ih => rw [Core.loadPreds_succ, Core.setPred_frame, ih]

theorem bitOf_toNat (x : BitVec 64) (i : Nat) : bitOf x.toNat i = x.getLsbD i := by
  rw [BitVec.getLsbD, Nat.testBit_eq_decide_div_mod_eq, bitOf, Nat.shiftRight_eq_div_pow, beq_eq_decide]

/-- Retiring keeps that only the predicates changed. -/
theorem Core.retired_frame_p {c d : Core} (h : d = { c with p := d.p }) : d.retired = { c.retired with p := d.retired.p } := by
  calc d.retired = Core.retired { c with p := d.p } := congrArg Core.retired h
    _ = { c.retired with p := d.retired.p } := rfl

/-- The predicates that PMOV loads: p0 reads 1, and the others are the bits of ra. -/
theorem Core.loadPreds_retired_pred {c : Core} (hp : c.p.length = 8) (v : BitVec 64) {i : Nat} (hi : i < 8) :
    (c.loadPreds v.toNat 8).retired.pred i = (i == 0 || v.getLsbD i) := by
  rw [Core.retired_pred, Core.loadPreds_pred hp.ge, if_pos hi, bitOf_toNat]

/-- What PMOV makes of its core; none where the word is illegal (R196). -/
def Core.pmov (c : Core) (f : FmtX) : Option Core :=
  if f.zero = 0 ∧ f.sub = 0 ∧ f.ra = 0 ∧ bitsOf f.low.toNat 6 0 = 0 then some (c.setReg (bitsOf f.low.toNat 11 7) c.predBits)
  else if f.zero = 0 ∧ f.sub = 1 ∧ f.low = 0 then some (c.loadPreds (c.reg f.ra.toNat).toNat 8)
  else none

theorem execPmov_eq (n : Nat) (f : FmtX) (s : State) :
    exec (.pmov n f) s = .next (s.lci n f.guard noWait (fun s => Lci.ofCore s n ((s.core n).pmov f))) := rfl

/-! ### Each instruction, taken -/

section
variable {s : State} {n : Nat}

theorem exec_cmp_illegal {f : FmtC} (h : FetchesAt s n f.guard)
    (hbad : 8 ≤ f.low.toNat / 8 % 16 ∨ f.low.toNat % 8 ≠ 0 ∨ f.comb = 3) :
    exec (.cmp n f) s = .next ((s.modCore n Core.fetched).endRun n (.exception 0x10 (s.core n).pc.toNat 0)) := by
  rw [execCmp_eq, bitsOf_low_2_0, bitsOf_low_6_3]
  refine congrArg _ (h.lci_ofCore_none (r := fun c => c.compared f _ _ (c.reg _)) (Core.compared_eq_none ?_))
  simpa using hbad

theorem exec_cmpi_illegal {f : FmtC} (h : FetchesAt s n f.guard) (hbad : 8 ≤ f.low.toNat / 256 ∨ f.comb = 3) :
    exec (.cmpi n f) s = .next ((s.modCore n Core.fetched).endRun n (.exception 0x10 (s.core n).pc.toNat 0)) := by
  rw [execCmpi_eq, bitsOf_low_11_8]
  exact congrArg _ (h.lci_ofCore_none (r := fun c => c.compared f _ _ _) (Core.compared_eq_none (hbad.imp_right Or.inr)))

theorem exec_plog_illegal {f : FmtP} (h : FetchesAt s n f.guard) (hbad : f.pfn = 7 ∨ f.zero ≠ 0) :
    exec (.plog n f) s = .next ((s.modCore n Core.fetched).endRun n (.exception 0x10 (s.core n).pc.toNat 0)) := by
  refine (execPlog_eq n f s).trans (congrArg _ (h.lci_ofCore_none (r := fun c => c.plog f) ?_))
  unfold Core.plog
  rcases hbad with hpfn | hzero
  · simp [hpfn]
  · exact if_neg hzero

theorem completes_cmp {f : FmtC} {r v : Bool} (h : FetchesAt s n f.guard) (hzero : f.low.toNat % 8 = 0)
    (hr : condFn (f.low.toNat / 8 % 16) ((s.core n).reg f.ra.toNat) ((s.core n).reg (f.low.toNat / 128)) = some r)
    (hv : combFn f.comb ((s.core n).pred f.pd.toNat) r = some v) :
    Completes (.cmp n f) s (OnCore s n ((s.core n).fetched.setPred f.pd.toNat v).retired) := by
  refine ⟨_, execCmp_eq n f s, ?_⟩
  rw [bitsOf_low_2_0, bitsOf_low_6_3, bitsOf_low_11_7, hzero]
  exact h.lci_ofCore_some (r := fun c => c.compared f _ _ (c.reg _)) (Core.compared_eq_some hr hv)

theorem completes_cmpi {f : FmtC} {r v : Bool} (h : FetchesAt s n f.guard)
    (hr : condFn (f.low.toNat / 256) ((s.core n).reg f.ra.toNat) ((BitVec.ofNat 8 f.low.toNat).signExtend 64) = some r)
    (hv : combFn f.comb ((s.core n).pred f.pd.toNat) r = some v) :
    Completes (.cmpi n f) s (OnCore s n ((s.core n).fetched.setPred f.pd.toNat v).retired) := by
  refine ⟨_, execCmpi_eq n f s, ?_⟩
  rw [bitsOf_low_11_8, ofNat_bitsOf_low_7_0]
  exact h.lci_ofCore_some (r := fun c => c.compared f _ _ _) (Core.compared_eq_some hr hv)

theorem completes_plog {f : FmtP} {v : Bool} (h : FetchesAt s n f.guard) (hzero : f.zero = 0)
    (hv : plogFn f.pfn f.pa f.pb ((s.core n).pred f.pa.toNat) ((s.core n).pred f.pb.toNat) = some v) :
    Completes (.plog n f) s (OnCore s n ((s.core n).fetched.setPred f.pd.toNat v).retired) := by
  refine ⟨_, execPlog_eq n f s, h.lci_ofCore_some (r := fun c => c.plog f) ?_⟩
  simp [Core.plog, hzero, hv]

theorem completes_pmov_read {f : FmtX} (h : FetchesAt s n f.guard) (hzero : f.zero = 0) (hsub : f.sub = 0) (hra : f.ra = 0)
    (hlow : f.low.toNat % 128 = 0) :
    Completes (.pmov n f) s (OnCore s n ((s.core n).fetched.setReg (f.low.toNat / 128) (s.core n).predBits).retired) := by
  refine ⟨_, execPmov_eq n f s, h.lci_ofCore_some (r := fun c => c.pmov f) ?_⟩
  rw [Core.pmov, bitsOf_low_6_0, bitsOf_low_11_7, if_pos ⟨hzero, hsub, hra, hlow⟩]
  rfl

theorem completes_pmov_write {f : FmtX} (h : FetchesAt s n f.guard) (hzero : f.zero = 0) (hsub : f.sub = 1) (hlow : f.low = 0) :
    Completes (.pmov n f) s (OnCore s n ((s.core n).fetched.loadPreds ((s.core n).reg f.ra.toNat).toNat 8).retired) := by
  refine ⟨_, execPmov_eq n f s, h.lci_ofCore_some (r := fun c => c.pmov f) ?_⟩
  have hread : ¬ (f.zero = 0 ∧ f.sub = 0 ∧ f.ra = 0 ∧ bitsOf f.low.toNat 6 0 = 0) := by simp [hsub]
  rw [Core.pmov, if_neg hread, if_pos ⟨hzero, hsub, hlow⟩]
  rfl

theorem completes_addi_skipped {f : FmtI} (hrun : s.running = true) (hn : n < 192) (hlen : n < s.cores.length)
    (hready : (s.core n).ready) (hpc : (s.core n).pc.toNat % 4 = 0)
    (hline : (s.core n).icache.contains ((s.core n).pc.toNat % 2 ^ 48 / 256) = true)
    (hup : ∀ x ∈ (s.core n).icacheUpsets, x.1 ≠ (s.core n).pc.toNat % 2 ^ 48 / 256) (hg : f.guard ≠ 0b1000#4)
    (hfalse : (s.core n).guardTrue f.guard = false) :
    Completes (.addi n f) s (OnCore s n { (s.core n).fetched.count 4 1 with pc := (s.core n).pc + 4 }) := by
  refine ⟨_, rfl, ?_⟩
  rw [State.immediate, State.lci_of_cached _ _ hrun hn hlen hready hpc hline hup hg, if_neg (by simp [hfalse]),
    State.modCore_modCore]
  exact onCore_modCore hlen ((fun c => { c.count 4 1 with pc := c.pc + 4 }) ∘ Core.fetched)

theorem completes_br {f : FmtB} (h : FetchesAt s n f.guard) :
    Completes (.br n f) s (OnCore s n { (s.core n).fetched.retired with pc := (s.core n).pc + 4 * f.off.signExtend 64 }) := by
  refine ⟨_, rfl, ?_⟩
  rw [h.lci_eq, h.core_fetched]
  exact onCore_lciEnd_jump h.lt_length _ Core.fetched _

theorem completes_bl {f : FmtB} (h : FetchesAt s n f.guard) :
    Completes (.bl n f) s (OnCore s n
      { ((s.core n).fetched.setReg 31 ((s.core n).pc + 4)).retired with pc := (s.core n).pc + 4 * f.off.signExtend 64 }) := by
  refine ⟨_, rfl, ?_⟩
  rw [h.lci_eq, h.core_fetched, State.modCore_modCore]
  exact onCore_lciEnd_jump h.lt_length _ ((fun c => c.setReg 31 (c.pc + 4)) ∘ Core.fetched) _

theorem completes_jr {f : FmtR} (h : FetchesAt s n f.guard) (ht : ((s.core n).reg f.ra.toNat).toNat % 4 = 0) (hfn : f.fn = 0)
    (hrb : f.rb = 0) (hrd : f.rd = 0) :
    Completes (.jr n f) s (OnCore s n { (s.core n).fetched.retired with pc := (s.core n).reg f.ra.toNat }) := by
  refine ⟨_, if_neg (by simp [hfn]), ?_⟩
  rw [h.lci_eq]
  simp only [h.core_fetched, Core.fetched_reg, hfn, hrb, hrd, ht]
  exact onCore_lciEnd_jump h.lt_length _ Core.fetched _

theorem completes_jlr {f : FmtR} (h : FetchesAt s n f.guard) (ht : ((s.core n).reg f.ra.toNat).toNat % 4 = 0) (hfn : f.fn = 1)
    (hrb : f.rb = 0) :
    Completes (.jlr n f) s (OnCore s n
      { ((s.core n).fetched.setReg f.rd.toNat ((s.core n).pc + 4)).retired with pc := (s.core n).reg f.ra.toNat }) := by
  refine ⟨_, if_neg (by simp [hfn]), ?_⟩
  rw [h.lci_eq]
  simp only [h.core_fetched, Core.fetched_reg, hfn, hrb, ht, State.modCore_modCore]
  exact onCore_lciEnd_jump h.lt_length _ ((fun c => c.setReg f.rd.toNat (c.pc + 4)) ∘ Core.fetched) _

end

/-- Settles O18: the tables by their cases, and every instruction through what the frame does with a held line. -/
theorem lciPredicatesAndBranches : Obligations.LciPredicatesAndBranches := by
  refine ⟨fun a b => ?_, fun p r => ⟨rfl, rfl, rfl, rfl⟩,
    fun a b x y => ⟨rfl, rfl, rfl, rfl, rfl, rfl, rfl, rfl, plogFn_not a x y, plogFn_const x y⟩,
    fun s n f => exec_cmp_illegal, fun s n f => exec_cmpi_illegal, fun s n f => exec_plog_illegal,
    fun s n f r v => completes_cmp, fun s n f r v => completes_cmpi, fun s n f v => completes_plog,
    fun s n f h hzero hsub hra hlow => ⟨_, completes_pmov_read h hzero hsub hra hlow, (s.core n).getLsbD_predBits⟩,
    fun s n f h hzero hsub hlow hp => ?_, fun s n f => completes_addi_skipped, fun s n f => completes_br,
    fun s n f => completes_bl, fun s n f => completes_jr, fun s n f => completes_jlr⟩
  case refine_1 =>
    obtain ⟨heq, hne, hlt, hge, hltu, hgeu, htest, hntest⟩ := condFn_table a b
    exact ⟨heq, hne, hlt, hge, hltu, hgeu, htest, hntest, fun _ hk => condFn_reserved hk a b⟩
  case refine_2 =>
    obtain ⟨t, ht, hcore, hothers, hstate⟩ := completes_pmov_write h hzero hsub hlow
    refine ⟨t, ht, fun i hi => ?_, ?_, hothers, hstate⟩
    · rw [hcore]
      exact Core.loadPreds_retired_pred (c := (s.core n).fetched) hp _ hi
    · rw [hcore]
      exact Core.retired_frame_p (Core.loadPreds_frame _ _ _)

end Sys2Proof.Machine
